-- ==== Sys2Proof/Word.lean ====
section
/-! DEFINITION. Words, numbers of things, and tables of a fixed length. -/

namespace Sys2Proof

/-- A byte of a frame, of the flash or of a layout. -/
abbrev Byte := BitVec 8

/-- A value of the timebase: 40 bits, one unit is 10 µs (R127). -/
abbrev Time := BitVec 40

/-- A station, by the port it is wired to: S0 to S3. -/
abbrev Station := Fin 4

/-- An axis 0 to 9: TRACK, SWING, BOOM, REACH, PAN, TILT, ROLL, FOCUS, IRIS, ZOOM. -/
abbrev Axis := Fin 10

/-- A motion axis 0 to 6. -/
abbrev Motion := Fin 7

/-- A lens axis by its place among FOCUS (0), IRIS (1) and ZOOM (2). -/
abbrev Lens := Fin 3

/-- A presence channel P0 to P7. -/
abbrev Channel := Fin 8

/-- A slot of the take directory. -/
abbrev TakeNo := Fin 32

/-- A set of axes: axis j in bit j (R193). -/
abbrev AxisSet := BitVec 10

/-- A set of rights: CLAIM_ARM in bit 0 to CONFIG in bit 8 (R193). -/
abbrev Rights := BitVec 9

/-- A set of presence channels. -/
abbrev ChannelSet := BitVec 8

/-- A table of `n` entries. -/
structure Tab (n : Nat) (α : Type) where
  list : List α
  len : list.length = n
  deriving DecidableEq, Repr

namespace Tab

variable {n : Nat} {α β : Type}

/-- The entry at `i`. -/
def get (t : Tab n α) (i : Fin n) : α := t.list[i.val]'(by rw [t.len]; exact i.isLt)

/-- The table with the entry at `i` replaced. -/
def set (t : Tab n α) (i : Fin n) (a : α) : Tab n α := ⟨t.list.set i.val a, by simp [t.len]⟩

/-- The table with the entry at `i` changed by `f`. -/
def modify (t : Tab n α) (i : Fin n) (f : α → α) : Tab n α := t.set i (f (t.get i))

/-- The table whose entry at `i` is `f i`. -/
def ofFn (f : Fin n → α) : Tab n α := ⟨List.ofFn f, by simp⟩

/-- Every entry changed by `f`, which also sees its number. -/
def imap (f : Fin n → α → β) (t : Tab n α) : Tab n β := ofFn fun i => f i (t.get i)

/-- Every entry changed by `f`. -/
def map (f : α → β) (t : Tab n α) : Tab n β := ⟨t.list.map f, by simp [t.len]⟩

/-- The table whose every entry is `a`. -/
def const (n : Nat) (a : α) : Tab n α := ⟨List.replicate n a, by simp⟩

end Tab

/-- All axes in ascending order. -/
def allAxes : List Axis := [0, 1, 2, 3, 4, 5, 6, 7, 8, 9]

/-- All motion axes in ascending order. -/
def allMotion : List Motion := [0, 1, 2, 3, 4, 5, 6]

/-- The lens axes in ascending order. -/
def allLenses : List Lens := [0, 1, 2]

/-- All stations in ascending order. -/
def allStations : List Station := [0, 1, 2, 3]

/-- All presence channels in ascending order. -/
def allChannels : List Channel := [0, 1, 2, 3, 4, 5, 6, 7]

/-- The axis number of a motion axis. -/
def motionAxis (m : Motion) : Axis := m.castLE (by decide)

/-- The axis number of a lens axis. -/
def lensAxis (l : Lens) : Axis := ⟨l.val + 7, by omega⟩

/-- The motion axis that an axis is, if it is one of axes 0 to 6. -/
def motionOf (j : Axis) : Option Motion := if h : j.val < 7 then some ⟨j.val, h⟩ else none

/-- The lens axis that an axis is, if it is one of axes 7 to 9. -/
def lensOf (j : Axis) : Option Lens := if h : 7 ≤ j.val then some ⟨j.val - 7, by omega⟩ else none

end Sys2Proof
end

