-- ==== Sys2Proof/Syntax.lean ====
section
/-! DEFINITION. The commands: one constructor for each row of spec/opcode_table.json. -/

namespace Sys2Proof

/-- A character received on a station link (10, opening): IDLE, START, a data byte, or a code error (R193). -/
inductive LinkChar where
  | idle
  | start
  | data (b : Byte)
  | codeError
  deriving DecidableEq, Repr

/-- The commands of the part. A station's frame carries the port it arrived on, the tag where the frame has one, and
its payload bytes as section 10.6 lays them out; an input event carries what was read on the input. -/
inductive Instr where
  | powerOn
  | sysreset (asserted : Bool)
  | timebaseTick
  | update
  | timedStart
  | wakeTimeout (j : Axis)
  | parkTimeout (j : Axis)
  | driveSilent (j : Axis)
  | haltTimeout
  | staleMark (st : Station)
  | stationLost (st : Station)
  | markReaderTimeout (st : Station)
  | ratePeriodComplete
  | driveReport (bytes : List Byte)
  | presenceSample (lineA lineB : ChannelSet)
  | presenceStateChange (c : Channel) (present : Bool)
  | presenceFault (c : Channel)
  | chainSample (aOpen bOpen pressed : Bool)
  | chainSplitFault
  | markInput
  | linkCharacter (st : Station) (ch : LinkChar)
  | linkUp (st : Station)
  | badFrame (st : Station) (chars : List LinkChar)
  | badRunLimit (st : Station)
  | requestMore (st : Station) (tag code : Byte) (payload : List Byte)
  | unknownRequest (st : Station) (tag code : Byte) (payload : List Byte)
  | replySend (st : Station)
  | reportFrameSend (st : Station)
  | move (st : Station) (payload : List Byte)
  | trim (st : Station) (payload : List Byte)
  | sync (st : Station) (payload : List Byte)
  | test (st : Station) (payload : List Byte)
  | claim (st : Station) (tag : Byte) (payload : List Byte)
  | release (st : Station) (tag : Byte) (payload : List Byte)
  | trimAttach (st : Station) (tag : Byte) (payload : List Byte)
  | trimDetach (st : Station) (tag : Byte) (payload : List Byte)
  | stationTable (st : Station) (tag : Byte) (payload : List Byte)
  | loadLimits (st : Station) (tag : Byte) (payload : List Byte)
  | mapOpen (st : Station) (tag : Byte) (payload : List Byte)
  | mapPoints (st : Station) (tag : Byte) (payload : List Byte)
  | loadMap (st : Station) (tag : Byte) (payload : List Byte)
  | enable (st : Station) (tag : Byte) (payload : List Byte)
  | park (st : Station) (tag : Byte) (payload : List Byte)
  | clearFault (st : Station) (tag : Byte) (payload : List Byte)
  | presenceDebounce (st : Station) (tag : Byte) (payload : List Byte)
  | zoneOpen (st : Station) (tag : Byte) (payload : List Byte)
  | zoneRange (st : Station) (tag : Byte) (payload : List Byte)
  | loadZone (st : Station) (tag : Byte) (payload : List Byte)
  | zoneEnable (st : Station) (tag : Byte) (payload : List Byte)
  | stopRequest (st : Station) (tag : Byte) (payload : List Byte)
  | releaseStop (st : Station) (tag : Byte) (payload : List Byte)
  | readStops (st : Station) (tag : Byte) (payload : List Byte)
  | clearStops (st : Station) (tag : Byte) (payload : List Byte)
  | syncSetup (st : Station) (tag : Byte) (payload : List Byte)
  | syncCountReset (st : Station) (tag : Byte) (payload : List Byte)
  | mark (st : Station) (tag : Byte) (payload : List Byte)
  | markRead (st : Station) (tag : Byte) (payload : List Byte)
  | markClear (st : Station) (tag : Byte) (payload : List Byte)
  | record (st : Station) (tag : Byte) (payload : List Byte)
  | recordStop (st : Station) (tag : Byte) (payload : List Byte)
  | delete (st : Station) (tag : Byte) (payload : List Byte)
  | protect (st : Station) (tag : Byte) (payload : List Byte)
  | takeInfo (st : Station) (tag : Byte) (payload : List Byte)
  | saveTake (st : Station) (tag : Byte) (payload : List Byte)
  | saveTakeEnd
  | loadTake (st : Station) (tag : Byte) (payload : List Byte)
  | loadTakeHeader
  | loadTakeSample
  | loadTakeEnd
  | flashSectorDone
  | cue (st : Station) (tag : Byte) (payload : List Byte)
  | go (st : Station) (tag : Byte) (payload : List Byte)
  | resume (st : Station) (tag : Byte) (payload : List Byte)
  | stopPlay (st : Station) (tag : Byte) (payload : List Byte)
  | abandon (st : Station) (tag : Byte) (payload : List Byte)
  | playSetup (st : Station) (tag : Byte) (payload : List Byte)
  | countersClear (st : Station) (tag : Byte) (payload : List Byte)
  | saveConfig (st : Station) (tag : Byte) (payload : List Byte)
  | saveConfigEnd (back : List Byte)
  | testStart (st : Station) (tag : Byte) (payload : List Byte)
  | testEnd (st : Station) (tag : Byte) (payload : List Byte)
  deriving DecidableEq, Repr

end Sys2Proof
end

