-- ==== Sys2Proof/Machine/Bytes.lean ====
section
/-! DEFINITION. Fields of frames, reports and images: byte order, two's complement, absent values, and the two cyclic
redundancy checks. -/

namespace Sys2Proof.Machine

/-- A field of `n` bytes, most significant byte first (R193). -/
def beBytes : Nat → Nat → List Byte
  | 0, _ => []
  | n + 1, v => BitVec.ofNat 8 (v / 256 ^ n) :: beBytes n v

/-- A signed field of `n` bytes in two's complement (R193). -/
def beInt (n : Nat) (v : Int) : List Byte := beBytes n (v % (256 ^ n : Nat)).toNat

/-- A value that is absent: all ones in its width (R193). -/
def ones (n : Nat) : List Byte := List.replicate n 0xFF

/-- A field of `n` bytes that may be absent (R193). -/
def optBytes (n : Nat) (v : Option Nat) : List Byte :=
  match v with
  | some v => beBytes n v
  | none => ones n

/-- A field of one byte. -/
def byte (v : Nat) : List Byte := [BitVec.ofNat 8 v]

/-- A yes or no field of one byte. -/
def flagByte (b : Bool) : List Byte := byte b.toNat

/-- The number an unsigned field carries, most significant byte first (R193). -/
def beNat (bs : List Byte) : Nat := bs.foldl (fun acc b => acc * 256 + b.toNat) 0

/-- The number a signed field carries, in two's complement (R193). -/
def beSigned (bs : List Byte) : Int :=
  if 2 * beNat bs < 256 ^ bs.length then (beNat bs : Int) else (beNat bs : Int) - (256 ^ bs.length : Nat)

/-- A flag byte: yes is 1 and no is 0, and no other value is one of the two (R191). -/
def flagOf (b : Byte) : Option Bool :=
  if b = 0 then some false else if b = 1 then some true else none

/-- One bit of the CRC-16 of R189, generator x¹⁶ + x¹² + x⁵ + 1. -/
def crc16Bit (r : BitVec 16) : BitVec 16 := if r.msb then (r <<< 1) ^^^ 0x1021 else r <<< 1

/-- One byte of the CRC-16, most significant bit first (R189). -/
def crc16Byte (r : BitVec 16) (b : Byte) : BitVec 16 :=
  crc16Bit (crc16Bit (crc16Bit (crc16Bit (crc16Bit (crc16Bit (crc16Bit (crc16Bit
    (r ^^^ (b.setWidth 16 <<< 8)))))))))

/-- The CRC-16 of R189: the remainder starts as all ones and is sent without complement. -/
def crc16 (bs : List Byte) : BitVec 16 := bs.foldl crc16Byte 0xFFFF

/-- The two bytes of the CRC-16, most significant first (R189). -/
def crc16Bytes (bs : List Byte) : List Byte := beBytes 2 (crc16 bs).toNat

/-- One bit of the CRC-32 of R159, least significant bit first. -/
def crc32Bit (r : BitVec 32) : BitVec 32 := if r.getLsbD 0 then (r >>> 1) ^^^ 0xEDB88320 else r >>> 1

/-- One byte of the CRC-32, least significant bit first (R159). -/
def crc32Byte (r : BitVec 32) (b : Byte) : BitVec 32 :=
  crc32Bit (crc32Bit (crc32Bit (crc32Bit (crc32Bit (crc32Bit (crc32Bit (crc32Bit
    (r ^^^ b.setWidth 32))))))))

/-- The CRC-32 of R159: the remainder starts as all ones, and the result is its complement. -/
def crc32 (bs : List Byte) : BitVec 32 := ~~~ (bs.foldl crc32Byte 0xFFFFFFFF)

/-- The end record of an archive or configuration image: the end marker and the CRC-32 of the bytes before it
(section 10.6, section 11.2). -/
def endRecord (body : List Byte) : List Byte := [0x5A, 0xE0, 0x0D, 0x01] ++ beBytes 4 (crc32 body).toNat

end Sys2Proof.Machine
end

