-- ==== Sys2Proof/Machine/State.lean ====
section
/-! DEFINITION. The state of the part: every piece of state the twelve blocks hold, as plain data, and the state right
after the start that follows power-on. -/

namespace Sys2Proof.Machine

/-! ### Stations and links (chapters 4 and 10) -/

/-- The rights of a station, in the order of the set of rights (R193). -/
inductive Right where
  | claimArm | claimHead | claimLens | trim | take | play | go | release2 | config
  deriving DecidableEq, Repr

/-- The result codes of replies (10, section 10.5). -/
inductive Result where
  | ok | noRight | badArg | state | busy | full | noTake | notOwner | heldBy | notReady | stopped | condition
  | isProtected | occupied | outOfLimits | lensChanged | notSynced | late | early | unknown | overrun
  deriving DecidableEq, Repr

/-- Rank, rights and freshness counts of a station (04, section 4.1; R61). -/
structure StationRec where
  rank : Nat
  rights : Rights
  lastFrame : Nat
  lastMove : Nat
  deriving DecidableEq, Repr

/-- The states of a link (R188). -/
inductive LinkState where
  | down | aligning | up | test
  deriving DecidableEq, Repr

/-- A request held in the assembly buffer (R190). -/
structure Held where
  tag : Byte
  code : Byte
  bytes : List Byte
  deriving DecidableEq, Repr

/-- A reply waiting in the reply queue (R191). -/
structure Reply where
  tag : Byte
  code : Byte
  result : Result
  detail : List Byte
  deriving DecidableEq, Repr

/-- The overrun record of a reply queue (R191): tag and code of the first request counted, and the count. -/
structure Overrun where
  tag : Byte
  code : Byte
  count : Nat
  deriving DecidableEq, Repr

/-- A frame of a built state report that is still to be sent (R195). -/
structure ReportFrame where
  number : Byte
  sect : Nat
  payload : List Byte
  deriving DecidableEq, Repr

/-- The test state of a link (R197, R198). -/
structure TestState where
  previous : Option (BitVec 16)
  live : Bool
  sticky : Bool
  errors : Nat
  deriving DecidableEq, Repr

/-! ### Stops (chapter 6) -/

/-- The two zone tables (05, section 5.2). -/
inductive ZoneTable where
  | set | crew
  deriving DecidableEq, Repr

/-- A zone entry, named by table and index. -/
structure ZoneId where
  table : ZoneTable
  index : Fin 8
  deriving DecidableEq, Repr

/-- A stop cause with its full subject (06, section 6.2). The level of a STOP_REQUEST is no part of its subject
(R109). -/
inductive Cause where
  | start
  | estopChain
  | haltTimeout
  | driveFault (j : Axis)
  | driveSilent (j : Axis)
  | followingError (j : Axis)
  | zoneOccupied (z : ZoneId)
  | zoneOverrun (z : ZoneId) (j : Axis)
  | zoneBlock (z : ZoneId) (j : Axis)
  | zoneSpeed (z : ZoneId) (j : Axis)
  | presenceFault (c : Channel)
  | linkLost (st : Station)
  | stopRequest (st : Station)
  deriving DecidableEq, Repr

/-- A stop record (R109): its zone, axis, station and presence channel are those of its cause. -/
structure StopRecord where
  sequence : Nat
  timebase : Time
  cause : Cause
  level : Nat
  secondary : Bool
  playback : Option (TakeNo × Nat)
  setpoints : Tab 10 (Option Int)
  standstill : Option (Tab 10 (Option Int))
  deriving DecidableEq, Repr

/-- The judgement of the emergency-stop chain (R114). -/
inductive ChainState where
  | closed | isOpen | split | fault
  deriving DecidableEq, Repr

/-- The Stop Controller (06, section 6.1). -/
structure StopController where
  level : Nat
  primaryCause : Option Cause
  primaryRecord : Option Nat
  chain : ChainState
  chainSplit : Nat
  localReset : Bool
  localResetSeen : Bool
  haltTimer : Option Nat
  nextSequence : Nat
  memory : List Cause
  records : List StopRecord
  cut : Bool
  deriving DecidableEq, Repr

/-! ### Notices (R196) -/

/-- Why a cue failed or was cancelled. -/
inductive CueFail where
  | notAtStart | noGo | stopped
  deriving DecidableEq, Repr

/-- How a playback ended. -/
inductive PlayEnd where
  | atEnd | stopped | abandoned
  deriving DecidableEq, Repr

/-- Why a take was closed (08, section 8.2). -/
inductive CloseReason where
  | stopped | interrupted | full | loaded
  deriving DecidableEq, Repr

/-- The operations of the Flash Port (11, section 11.1). -/
inductive FlashKind where
  | saveTake | loadTake | saveConfig
  deriving DecidableEq, Repr

/-- Why a flash operation failed (R196). -/
inductive FlashFail where
  | full | noEnd | checksum | verify
  deriving DecidableEq, Repr

/-- Where a mark came from (07, section 7.3). -/
inductive MarkSource where
  | input
  | request (st : Station)
  deriving DecidableEq, Repr

/-- The detail of STOP_RAISED. -/
structure StopNote where
  sequence : Nat
  cause : Cause
  level : Nat
  secondary : Bool
  deriving DecidableEq, Repr

/-- The notice set of a station: each kind absent, or present with its latest detail (R196). In a RECORD_CLOSED the
reason is absent for DISCARDED. -/
structure Notices where
  lostAxes : Option (AxisSet × Station)
  cueFailed : Option (TakeNo × CueFail)
  playEnded : Option (TakeNo × PlayEnd × Option Nat)
  recordClosed : Option (TakeNo × Nat × Option CloseReason)
  stopRaised : Option StopNote
  markPublished : Option (MarkSource × Time)
  flashDone : Option (FlashKind × Option TakeNo × Nat)
  flashFailed : Option (FlashKind × Option TakeNo × FlashFail)
  deriving DecidableEq, Repr

/-- The empty notice set. -/
def Notices.empty : Notices := ⟨none, none, none, none, none, none, none, none⟩

/-- The link record of a port (10, section 10.1). `line` is the model's own field: the bytes of the frame last sent. -/
structure Link where
  state : LinkState
  idleRun : Nat
  badRun : Nat
  crcErrors : Nat
  assembly : Option Held
  replies : List Reply
  overrun : Option Overrun
  notices : Notices
  reportNumber : Byte
  reportFrames : List ReportFrame
  test : TestState
  line : List Byte
  deriving DecidableEq, Repr

/-! ### Authority (chapter 4) -/

/-- The authority modes of an axis (04, section 4.2). -/
inductive Mode where
  | idle | manual | seek | playback | paused
  deriving DecidableEq, Repr

/-- A command in force (R64, R71): VEL, POS in counts, POS with a lens user value, DELTA. -/
inductive Command where
  | vel (n : Int)
  | pos (c : Int)
  | user (u : Nat)
  | delta (d : Int)
  deriving DecidableEq, Repr

/-- The authority entry of an axis (04, section 4.2). -/
structure AuthEntry where
  owner : Option Station
  mode : Mode
  trimStation : Option Station
  command : Command
  stale : Bool
  deriving DecidableEq, Repr

/-! ### Axis channels (chapter 1). Positions, speeds and accelerations "to 1/256" are whole numbers of 1/256. -/

/-- A limits record (01, section 1.2). `low`, `high`, `feLimit`, `trimStep` and `trimRange` are whole counts;
`vmax`, `aAccel` and `aStop` are in 1/256. -/
structure Limits where
  low : Int
  high : Int
  vmax : Nat
  aAccel : Nat
  aStop : Nat
  feLimit : Nat
  lead : Nat
  invert : Bool
  seekPercent : Nat
  trimStep : Nat
  trimRange : Nat
  deriving DecidableEq, Repr

/-- The commissioning states of an axis (R4). -/
inductive Commissioning where
  | unset | limited | ready
  deriving DecidableEq, Repr

/-- The target in force of an axis (01, section 1.3), in 1/256: a velocity demand in MOVE units, a position target with
the user value kept with it, or a path position. -/
inductive Target where
  | velocity (n : Int)
  | position (t : Int) (user : Option Nat)
  | path (x : Int)
  deriving DecidableEq, Repr

/-- What a channel holds while its drive is ACTIVE: setpoint and velocity in 1/256, and the target in force. -/
structure Moving where
  p : Int
  v : Int
  target : Target
  deriving DecidableEq, Repr

/-- An axis channel (01, section 1.1). -/
structure AxisChannel where
  limits : Option Limits
  commissioning : Commissioning
  moving : Option Moving
  trimDemand : Int
  trimOffset : Int
  slowCap : Nat
  deriving DecidableEq, Repr

/-- The generator's own two flags (01, section 1.1). -/
structure Generator where
  held : Bool
  standstillReported : Bool
  deriving DecidableEq, Repr

/-! ### Lens maps (chapter 2) -/

/-- The points of a valid map, each a user value and a count, in ascending order of the user value, and its direction. -/
structure MapPoints where
  points : List (Nat × Int)
  rising : Bool
  deriving DecidableEq, Repr

/-- A map record (02, section 2.2): `map` is present when the map is valid. -/
structure LensMap where
  map : Option MapPoints
  generation : Nat
  deriving DecidableEq, Repr

/-- An OPEN map staging record (02, section 2.3): as many slots as the declared count. -/
structure MapStaging where
  station : Station
  slots : List (Option (Nat × Int))
  deriving DecidableEq, Repr

/-! ### Drives (chapter 3) -/

/-- The drive states (03, section 3.2). -/
inductive DriveState where
  | off | waking | active | parking | parked | fault
  deriving DecidableEq, Repr

/-- The report codes (03, section 3.1). -/
inductive ReportCode where
  | braked | powering | ready | fault
  deriving DecidableEq, Repr

/-- A drive record (03, section 3.2). Positions are whole counts in the part's sign. -/
structure Drive where
  state : DriveState
  lastReport : Option (ReportCode × Int)
  silence : Nat
  wait : Nat
  followingError : Bool
  deriving DecidableEq, Repr

/-- An entry of a setpoint frame (R41). A RUN entry keeps the whole-count setpoint in the part's sign. -/
inductive FrameEntry where
  | rest
  | wake
  | run (setpoint : Int)
  | park
  deriving DecidableEq, Repr

/-- The setpoint frame most recently sent, and for each drive whether a report answering it was accepted. -/
structure SentFrame where
  number : Byte
  entries : Tab 10 FrameEntry
  answered : Tab 10 Bool
  deriving DecidableEq, Repr

/-- The Drive Port. `line` is the model's own field: the bytes of the frame last sent on the bus. -/
structure DrivePort where
  drives : Tab 10 Drive
  nextFrame : Byte
  sent : Option SentFrame
  line : List Byte
  deriving DecidableEq, Repr

/-! ### Zones (chapter 5) -/

/-- The filtered judgement of a presence channel (05, section 5.1). -/
inductive PresenceState where
  | clear | present | fault
  deriving DecidableEq, Repr

/-- The reading of one sample of a presence channel. -/
inductive Reading where
  | bothClear | bothPresent | split
  deriving DecidableEq, Repr

/-- The record of a presence channel (05, section 5.1). -/
structure Presence where
  state : PresenceState
  last : Option Reading
  agree : Nat
  split : Nat
  deriving DecidableEq, Repr

/-- The kinds of zone. -/
inductive ZoneKind where
  | hard | slow
  deriving DecidableEq, Repr

/-- The crane modes a zone entry applies in. -/
inductive ModeMatch where
  | manual | playback | both
  deriving DecidableEq, Repr

/-- The contents of a zone entry (05, section 5.2): a range of whole counts on an axis, or ANY. -/
structure ZoneEntry where
  enabled : Bool
  kind : ZoneKind
  cap : Nat
  modeMatch : ModeMatch
  mask : ChannelSet
  ranges : Tab 7 (Option (Int × Int))
  deriving DecidableEq, Repr

/-- A zone entry with its active and occupied flags. -/
structure Zone where
  entry : ZoneEntry
  active : Bool
  occupied : Bool
  deriving DecidableEq, Repr

/-- An OPEN zone staging record (05, section 5.8). -/
structure ZoneStaging where
  zone : ZoneId
  entry : ZoneEntry
  deriving DecidableEq, Repr

/-- The Zone Monitor. -/
structure ZoneMonitor where
  channels : Tab 8 Presence
  debounce : Nat
  setTable : Tab 8 Zone
  crewTable : Tab 8 Zone
  staging : Tab 4 (Option ZoneStaging)
  deriving DecidableEq, Repr

/-! ### Timebase and marks (chapter 7) -/

/-- The sync modes. -/
inductive SyncMode where
  | free | adopt | check
  deriving DecidableEq, Repr

/-- The counter modes. -/
inductive CounterMode where
  | accumulate | rate
  deriving DecidableEq, Repr

/-- The six sync settings (R129). -/
structure SyncSettings where
  mode : SyncMode
  offset : Nat
  tolerance : Nat
  counter : CounterMode
  period : Nat
  threshold : Nat
  deriving DecidableEq, Repr

/-- The Timebase Unit (07, section 7.1). -/
structure TimebaseUnit where
  now : Time
  settings : SyncSettings
  tally : Nat
  periodCount : Nat
  lastPeriod : Nat
  drift : Bool
  lastDifference : Option Int
  deriving DecidableEq, Repr

/-- A mark (07, section 7.3): a setpoint is absent for an axis marked inactive. -/
structure Mark where
  source : MarkSource
  timebase : Time
  playing : Option (TakeNo × Nat)
  recording : Option (TakeNo × Nat)
  setpoints : Tab 10 (Option Int)
  userValues : Tab 3 (Option Nat)
  deriving DecidableEq, Repr

/-- The Mark Latch (07, section 7.3): an open reader is a station with its timer. -/
structure MarkLatch where
  newest : Option Mark
  published : Option Mark
  pending : Bool
  readers : Tab 4 (Option Nat)
  count : Nat
  lockout : Nat
  deriving DecidableEq, Repr

/-! ### Takes (chapter 8) -/

/-- The envelope of one axis of a take (R149), in 1/256. -/
structure Envelope where
  minimum : Int
  maximum : Int
  velocity : Nat
  stepChange : Nat
  deriving DecidableEq, Repr

/-- The lens generation a take keeps for a lens axis of its set (R148, R150). -/
inductive LensGen where
  | value (g : Nat)
  | mixed
  deriving DecidableEq, Repr

/-- Where a take came from (R147). -/
inductive Origin where
  | manual
  | layer (slot : Byte) (elapsed : Nat)
  deriving DecidableEq, Repr

/-- What a take holds from its first sample on (08, section 8.2). Entries for axes outside the take's set are 0, and
lens generations absent. -/
structure TakeData where
  first : Tab 10 Int
  envelope : Tab 10 Envelope
  lens : Tab 3 (Option LensGen)
  recordedAt : Time
  deriving DecidableEq, Repr

/-- A take in RECORDING or CLOSED state (08, section 8.2). -/
structure Take where
  label : Tab 8 Byte
  axes : AxisSet
  divisor : Nat
  count : Nat
  blocks : List Nat
  data : Option TakeData
  origin : Origin
  isProtected : Bool
  deriving DecidableEq, Repr

/-- A slot of the take directory (08, section 8.2). -/
inductive TakeSlot where
  | empty
  | recording (t : Take)
  | closed (t : Take) (reason : CloseReason)
  | loading (count : Nat) (blocks : List Nat)
  deriving DecidableEq, Repr

/-- The recorder in RECORDING state (08, section 8.3). -/
structure Recorder where
  slot : TakeNo
  station : Station
  toNext : Nat
  deriving DecidableEq, Repr

/-- The Take Store. `values` lists the values of the take blocks by 1,024 times the block number plus the position,
in the canonical form of `Sparse.wf`. -/
structure TakeStore where
  values : List (Nat × Int)
  freeList : List Nat
  slots : Tab 32 TakeSlot
  recorder : Option Recorder
  deriving DecidableEq, Repr

/-! ### Playback (chapter 9) -/

/-- What the engine holds in every state but IDLE: the held take, the cueing station and ignore-lens. -/
structure Hold where
  slot : TakeNo
  station : Station
  ignoreLens : Bool
  deriving DecidableEq, Repr

/-- A cue in SEEKING or READY: `start` is the effective start of a timed cue. -/
structure Cue where
  hold : Hold
  start : Option Time
  go : Bool
  runStart : Nat
  deriving DecidableEq, Repr

/-- The engine state with the items present in it (09, section 9.1). -/
inductive EngineState where
  | idle
  | seeking (c : Cue)
  | ready (c : Cue)
  | running (h : Hold) (elapsed : Nat)
  | paused (h : Hold) (elapsed : Nat)
  deriving DecidableEq, Repr

/-- The Playback Engine (09, section 9.1). -/
structure Engine where
  state : EngineState
  missedCue : Nat
  lateCue : Nat
  cueOffset : Nat
  goLead : Nat
  deriving DecidableEq, Repr

/-! ### Flash (chapter 11) -/

/-- The fields of an archive header a load keeps until it completes (R163, R164). -/
structure TakeHeader where
  label : Tab 8 Byte
  axes : AxisSet
  divisor : Nat
  count : Nat
  isProtected : Bool
  origin : Origin
  data : TakeData
  deriving DecidableEq, Repr

/-- The operation in flight at the Flash Port (11, section 11.1), with the image built for a write and the header read
by a load. -/
structure FlashOp where
  kind : FlashKind
  first : Nat
  last : Nat
  done : Nat
  requester : Station
  slot : Option TakeNo
  image : List Byte
  header : Option TakeHeader
  deriving DecidableEq, Repr

/-- The model's own field: which parts of a periodic event its own row has already taken (log entry 2). -/
structure Taken where
  running : Bool
  period : Bool
  chain : Bool
  presence : Tab 8 Bool
  deriving DecidableEq, Repr

/-- The state of the part. -/
structure State where
  stations : Tab 4 StationRec
  links : Tab 4 Link
  auth : Tab 10 AuthEntry
  channels : Tab 10 AxisChannel
  generator : Generator
  maps : Tab 3 LensMap
  mapStaging : Tab 3 (Option MapStaging)
  port : DrivePort
  zones : ZoneMonitor
  stop : StopController
  time : TimebaseUnit
  marks : MarkLatch
  takes : TakeStore
  play : Engine
  flashPort : Option FlashOp
  flash : List Host.Cell
  configDefaulted : Bool
  reportCount : Nat
  sysreset : Bool
  taken : Taken
  freeCount : Nat
  pending : List Instr
  deriving DecidableEq, Repr

/-- The part has no machine fault: no rule of the manual stops it. The type has no constructor. -/
inductive Fault where
  deriving DecidableEq, Repr

/-- Refusals. -/
inductive Refusal where
  /-- Raised only by an arm of `exec` whose command has no meaning yet. Safe: nothing can be proved of such a step. -/
  | notModelled (mnemonic : String)
  deriving DecidableEq, Repr

/-! ### The values the start gives each block, and the state after it -/

/-- The default ranks and rights when the configuration image is not valid (R61). -/
def StationRec.defaults : Tab 4 StationRec :=
  ⟨[⟨4, 0x1FF, 0, 0⟩, ⟨3, 0, 0, 0⟩, ⟨2, 0, 0, 0⟩, ⟨1, 0, 0, 0⟩], rfl⟩

/-- The test state at reset (R187). -/
def TestState.cleared : TestState := ⟨none, false, false, 0⟩

/-- A link at reset (R187). -/
def Link.atReset : Link :=
  ⟨.down, 0, 0, 0, none, [], none, Notices.empty, 0, [], TestState.cleared, []⟩

/-- An authority entry at reset, and of every axis that becomes IDLE (R64). -/
def AuthEntry.idle : AuthEntry := ⟨none, .idle, none, .vel 0, false⟩

/-- An axis channel at reset without a stored limits record (R1). -/
def AxisChannel.unset : AxisChannel := ⟨none, .unset, none, 0, 0, 100⟩

/-- A drive record at reset (R44). -/
def Drive.off : Drive := ⟨.off, none, 0, 0, false⟩

/-- A presence channel at reset (R82). -/
def Presence.atReset : Presence := ⟨.present, none, 0, 0⟩

/-- A blank zone entry (R86). -/
def ZoneEntry.blank : ZoneEntry := ⟨false, .hard, 100, .both, 0, Tab.const 7 none⟩

/-- A blank zone, neither active nor occupied. -/
def Zone.blank : Zone := ⟨ZoneEntry.blank, false, false⟩

/-- The default sync settings (R128). -/
def SyncSettings.defaults : SyncSettings := ⟨.free, 0, 0, .accumulate, 1000, 1⟩

/-- The Mark Latch at reset (R135). -/
def MarkLatch.atReset : MarkLatch := ⟨none, none, false, Tab.const 4 none, 0, 0⟩

/-- The Take Store at power-on (R143, R145). -/
def TakeStore.atPowerOn : TakeStore := ⟨[], List.range 8192, Tab.const 32 .empty, none⟩

/-- No part of a periodic event has been taken ahead of it. -/
def Taken.none : Taken := ⟨false, false, false, Tab.const 8 false⟩

/-- The record START makes (R106). -/
def StopRecord.start : StopRecord :=
  ⟨0, 0, .start, 3, false, none, Tab.const 10 none, none⟩

/-- The Stop Controller once START has been raised (R106). -/
def StopController.started : StopController :=
  ⟨3, some .start, some 0, .isOpen, 0, false, false, none, 1, [.start], [StopRecord.start], true⟩

/-- The state right after the start that follows power-on with a flash that was never written: every field at the value
its own rule gives (R1, R28, R32, R44, R61, R64, R82, R86, R99, R106, R127, R128, R135, R143, R145, R166, R187, R195, R199,
R202), and no command waiting. -/
def State.reset : State where
  stations := StationRec.defaults
  links := Tab.const 4 Link.atReset
  auth := Tab.const 10 AuthEntry.idle
  channels := Tab.const 10 AxisChannel.unset
  generator := ⟨true, false⟩
  maps := Tab.const 3 ⟨none, 0⟩
  mapStaging := Tab.const 3 none
  port := ⟨Tab.const 10 Drive.off, 0, none, []⟩
  zones := ⟨Tab.const 8 Presence.atReset, 10, Tab.const 8 Zone.blank, Tab.const 8 Zone.blank, Tab.const 4 none⟩
  stop := StopController.started
  time := ⟨0, SyncSettings.defaults, 0, 0, 0, false, none⟩
  marks := MarkLatch.atReset
  takes := TakeStore.atPowerOn
  play := ⟨.idle, 0, 0, 0, 0⟩
  flashPort := none
  flash := []
  configDefaulted := true
  reportCount := 0
  sysreset := false
  taken := Taken.none
  freeCount := 0
  pending := []

end Sys2Proof.Machine
end

