-- ==== Sys2Proof/Machine/Operands.lean ====
section
/-! DEFINITION. The operand forms: the arguments of every request and the payloads of the stream frames, read from their
bytes as section 10.6 lays them out. `none` is a length or a two-valued byte that the layout does not admit (R191), or a
payload that does not decode (R189). -/

namespace Sys2Proof.Machine

/-- No arguments. -/
def noArgs (bs : List Byte) : Option Unit :=
  match bs with
  | [] => some ()
  | _ => none

/-- One byte. -/
def oneByte (bs : List Byte) : Option Nat :=
  match bs with
  | [a] => some a.toNat
  | _ => none

/-- Two bytes, one number each. -/
def twoBytes (bs : List Byte) : Option (Nat × Nat) :=
  match bs with
  | [a, b] => some (a.toNat, b.toNat)
  | _ => none

/-- A set of axes: 2 bytes, axis j in bit j (R193). -/
def axisSetArg (bs : List Byte) : Option (BitVec 16) :=
  match bs with
  | [a, b] => some (a ++ b)
  | _ => none

/-- CLAIM: a set of axes and the takeover flag (R66). -/
def claimArgs (bs : List Byte) : Option (BitVec 16 × Bool) :=
  match bs with
  | [a, b, f] => (flagOf f).map fun t => (a ++ b, t)
  | _ => none

/-- A set of rights: 2 bytes, no bit above bit 8 (R191, R193). -/
def rightsOf (a b : Byte) : Option Rights :=
  if beNat [a, b] < 512 then some (BitVec.ofNat 9 (beNat [a, b])) else none

/-- STATION_TABLE: rank and rights of S0 to S3 in turn (R63). -/
def stationTableArgs (bs : List Byte) : Option (Tab 4 (Nat × Rights)) :=
  match bs with
  | [r0, a0, b0, r1, a1, b1, r2, a2, b2, r3, a3, b3] =>
    match rightsOf a0 b0, rightsOf a1 b1, rightsOf a2 b2, rightsOf a3 b3 with
    | some x0, some x1, some x2, some x3 =>
      some ⟨[(r0.toNat, x0), (r1.toNat, x1), (r2.toNat, x2), (r3.toNat, x3)], rfl⟩
    | _, _, _, _ => none
  | _ => none

/-- A limits record in its 30 bytes: 4, 4, 3, 3, 3, 4, 1, 1, 1, 2 and 4 bytes in the order of section 1.2. -/
def limitsOf (bs : List Byte) : Option Limits :=
  match bs with
  | [a0, a1, a2, a3, b0, b1, b2, b3, v0, v1, v2, c0, c1, c2, d0, d1, d2, f0, f1, f2, f3, ld, inv, sp, t0, t1,
      r0, r1, r2, r3] =>
    (flagOf inv).map fun i =>
      { low := beSigned [a0, a1, a2, a3]
        high := beSigned [b0, b1, b2, b3]
        vmax := beNat [v0, v1, v2]
        aAccel := beNat [c0, c1, c2]
        aStop := beNat [d0, d1, d2]
        feLimit := beNat [f0, f1, f2, f3]
        lead := ld.toNat
        invert := i
        seekPercent := sp.toNat
        trimStep := beNat [t0, t1]
        trimRange := beNat [r0, r1, r2, r3] }
  | _ => none

/-- LOAD_LIMITS: an axis number and a limits record (R3). -/
def loadLimitsArgs (bs : List Byte) : Option (Nat × Limits) :=
  match bs with
  | [] => none
  | j :: rest => (limitsOf rest).map fun r => (j.toNat, r)

/-- A map point: a user value in 3 bytes and a count in 4. -/
def pointOf (u0 u1 u2 c0 c1 c2 c3 : Byte) : Nat × Int := (beNat [u0, u1, u2], beSigned [c0, c1, c2, c3])

/-- MAP_POINTS: an axis number, a first slot number, and one or two points (R31). DESIGN CHOICE: a second point is no
optional argument of R193, so it has no presence byte and the length tells one point from two (log entry 45). -/
def mapPointsArgs (bs : List Byte) : Option (Nat × Nat × List (Nat × Int)) :=
  match bs with
  | [j, f, u0, u1, u2, c0, c1, c2, c3] => some (j.toNat, f.toNat, [pointOf u0 u1 u2 c0 c1 c2 c3])
  | [j, f, u0, u1, u2, c0, c1, c2, c3, w0, w1, w2, d0, d1, d2, d3] =>
    some (j.toNat, f.toNat, [pointOf u0 u1 u2 c0 c1 c2 c3, pointOf w0 w1 w2 d0 d1 d2 d3])
  | _ => none

/-- A number of 2 bytes. -/
def wordArg (bs : List Byte) : Option Nat :=
  match bs with
  | [a, b] => some (beNat [a, b])
  | _ => none

/-- ZONE_OPEN: table, index, enabled, kind, cap, mode match and presence mask (R97). -/
structure ZoneOpenArgs where
  table : Nat
  index : Nat
  enabled : Bool
  kind : Nat
  cap : Nat
  modeMatch : Nat
  mask : ChannelSet
  deriving DecidableEq, Repr

/-- The arguments of ZONE_OPEN, seven bytes for either table: a SET entry carries a mask byte too (log entry 33). -/
def zoneOpenArgs (bs : List Byte) : Option ZoneOpenArgs :=
  match bs with
  | [t, i, e, k, c, m, p] => (flagOf e).map fun en => ⟨t.toNat, i.toNat, en, k.toNat, c.toNat, m.toNat, p⟩
  | _ => none

/-- A zone range: a byte that is 1 for ANY and 0 otherwise, then low and high (section 10.6). The outer option is a byte
that is neither; the inner one is ANY. -/
def rangeOf (any l0 l1 l2 l3 h0 h1 h2 h3 : Byte) : Option (Option (Int × Int)) :=
  (flagOf any).map fun a => if a then none else some (beSigned [l0, l1, l2, l3], beSigned [h0, h1, h2, h3])

/-- ZONE_RANGE: one or two items, each a motion axis number and a range or ANY (R98). DESIGN CHOICE: a second item is no
optional argument of R193, so it has no presence byte and the length tells one item from two (log entry 45). -/
def zoneRangeArgs (bs : List Byte) : Option (List (Nat × Option (Int × Int))) :=
  match bs with
  | [j, a, l0, l1, l2, l3, h0, h1, h2, h3] =>
    (rangeOf a l0 l1 l2 l3 h0 h1 h2 h3).map fun r => [(j.toNat, r)]
  | [j, a, l0, l1, l2, l3, h0, h1, h2, h3, i, b, m0, m1, m2, m3, n0, n1, n2, n3] =>
    match rangeOf a l0 l1 l2 l3 h0 h1 h2 h3, rangeOf b m0 m1 m2 m3 n0 n1 n2 n3 with
    | some r, some q => some [(j.toNat, r), (i.toNat, q)]
    | _, _ => none
  | _ => none

/-- ZONE_ENABLE: table, index and the enabled value (R103). -/
def zoneEnableArgs (bs : List Byte) : Option (Nat × Nat × Bool) :=
  match bs with
  | [t, i, e] => (flagOf e).map fun v => (t.toNat, i.toNat, v)
  | _ => none

/-- SYNC_SETUP: sync mode, offset, tolerance, counter mode, rate period and drift threshold (R129). -/
structure SyncSetupArgs where
  mode : Nat
  offset : Nat
  tolerance : Nat
  counter : Nat
  period : Nat
  threshold : Nat
  deriving DecidableEq, Repr

/-- The arguments of SYNC_SETUP. The bytes of the sync mode and the counter mode are judged with the ranges of R129, after
the right, and not as two-valued bytes of R191 (log entry 34). -/
def syncSetupArgs (bs : List Byte) : Option SyncSetupArgs :=
  match bs with
  | [m, o0, o1, t0, t1, c, p0, p1, d0, d1] =>
    some ⟨m.toNat, beNat [o0, o1], beNat [t0, t1], c.toNat, beNat [p0, p1], beNat [d0, d1]⟩
  | _ => none

/-- RECORD: a set of axes, a divisor and a label of 8 characters (R147). -/
def recordArgs (bs : List Byte) : Option (BitVec 16 × Nat × Tab 8 Byte) :=
  match bs with
  | [a, b, n, c0, c1, c2, c3, c4, c5, c6, c7] =>
    some (a ++ b, n.toNat, ⟨[c0, c1, c2, c3, c4, c5, c6, c7], rfl⟩)
  | _ => none

/-- PROTECT: a slot and a value, set or clear (R156). -/
def protectArgs (bs : List Byte) : Option (Nat × Bool) :=
  match bs with
  | [i, v] => (flagOf v).map fun f => (i.toNat, f)
  | _ => none

/-- SAVE_TAKE: a slot, a first sector and a last sector (R161). -/
def saveTakeArgs (bs : List Byte) : Option (Nat × Nat × Nat) :=
  match bs with
  | [i, f0, f1, l0, l1] => some (i.toNat, beNat [f0, f1], beNat [l0, l1])
  | _ => none

/-- LOAD_TAKE: a first sector and a last sector (R163). -/
def loadTakeArgs (bs : List Byte) : Option (Nat × Nat) :=
  match bs with
  | [f0, f1, l0, l1] => some (beNat [f0, f1], beNat [l0, l1])
  | _ => none

/-- CUE: a slot, an optional start time behind its presence byte, and the ignore-lens flag (R168). With a presence byte of 0
the five bytes of the start time are ignored (log entry 39). -/
def cueArgs (bs : List Byte) : Option (Nat × Option Time × Bool) :=
  match bs with
  | [i, g, t0, t1, t2, t3, t4, l] =>
    match flagOf g, flagOf l with
    | some given, some ignore =>
      some (i.toNat, if given then some (BitVec.ofNat 40 (beNat [t0, t1, t2, t3, t4])) else none, ignore)
    | _, _ => none
  | _ => none

/-- PLAY_SETUP: cue offset and go lead, 3 bytes each (R167). -/
def playSetupArgs (bs : List Byte) : Option (Nat × Nat) :=
  match bs with
  | [o0, o1, o2, g0, g1, g2] => some (beNat [o0, o1, o2], beNat [g0, g1, g2])
  | _ => none

/-- The kind of an axis in the first word of a MOVE payload: bits 2j + 1 and 2j (section 10.6). -/
def moveKind (w : Nat) (j : Axis) : Nat := w / 4 ^ j.val % 4

/-- The bytes of a value of a kind: VEL 2, POS 4, lens user value 3, DELTA 4 (section 10.6). -/
def moveWidth (kind : Nat) : Nat := if kind = 0 then 2 else if kind = 2 then 3 else 4

/-- The command that a kind and its bytes carry (R71). -/
def moveCommand (kind : Nat) (bs : List Byte) : Command :=
  if kind = 0 then .vel (beSigned bs) else if kind = 1 then .pos (beSigned bs)
  else if kind = 2 then .user (beNat bs) else .delta (beSigned bs)

/-- The entries of a MOVE payload for the axes of a list: the values follow in ascending order of axis, and the length must
be their sum (section 10.6). The kind of an axis that is not named is ignored (log entry 30). -/
def moveEntries (w : Nat) : List Axis → List Byte → Option (List (Axis × Command))
  | [], bs => if bs = [] then some [] else none
  | j :: rest, bs =>
    if w.testBit (20 + j.val) then
      if moveWidth (moveKind w j) ≤ bs.length then
        (moveEntries w rest (bs.drop (moveWidth (moveKind w j)))).map fun es =>
          (j, moveCommand (moveKind w j) (bs.take (moveWidth (moveKind w j)))) :: es
      else none
    else moveEntries w rest bs

/-- A MOVE payload: the mask of named axes in bits 29 to 20 of the first word, their kinds in bits 19 to 0, then the values
(section 10.6). Bits 31 and 30 are ignored (log entry 30). -/
def movePayload (bs : List Byte) : Option (List (Axis × Command)) :=
  match bs with
  | b0 :: b1 :: b2 :: b3 :: rest => moveEntries (beNat [b0, b1, b2, b3]) allAxes rest
  | _ => none

/-- The entries of a TRIM payload: an axis number and a signed demand of 3 bytes each (section 10.6). -/
def trimEntries : List Byte → Option (List (Nat × Int))
  | [] => some []
  | j :: d0 :: d1 :: d2 :: rest => (trimEntries rest).map fun es => (j.toNat, beSigned [d0, d1, d2]) :: es
  | _ => none

/-- A TRIM payload: 4, 8, 12 or 16 bytes (section 10.6). -/
def trimPayload (bs : List Byte) : Option (List (Nat × Int)) :=
  if bs = [] ∨ 16 < bs.length then none else trimEntries bs

/-- A SYNC payload: 5 bytes of time value (section 10.6). -/
def syncPayload (bs : List Byte) : Option Time :=
  match bs with
  | [t0, t1, t2, t3, t4] => some (BitVec.ofNat 40 (beNat [t0, t1, t2, t3, t4]))
  | _ => none

/-- The words of a TEST payload. -/
def testWords : List Byte → Option (List (BitVec 16))
  | [] => some []
  | a :: b :: rest => (testWords rest).map fun ws => (a ++ b) :: ws
  | _ => none

/-- A TEST payload: 1 to 12 words of 16 bits (section 10.6). -/
def testPayload (bs : List Byte) : Option (List (BitVec 16)) :=
  if bs = [] then none else testWords bs

end Sys2Proof.Machine
end

