-- ==== Sys2Proof/Machine/Arith.lean ====
section
/-! DEFINITION. The arithmetic of the setpoint step (chapter 1) and of the lens maps (chapter 2), in exact integers. -/

namespace Sys2Proof.Machine

/-- The search for the largest whole W with W × (W + A) ≤ B, one bit at a time from bit `k - 1` down. -/
def greatestSpeed (a b : Nat) : Nat → Nat → Nat
  | 0, w => w
  | k + 1, w => if (w + 2 ^ k) * (w + 2 ^ k + a) ≤ b then greatestSpeed a b k (w + 2 ^ k) else greatestSpeed a b k w

/-- The permitted speed of R7 in 1/256: the largest whole W with W × (W + A) ≤ 2 × A × G, and 0 where the gap is not
positive. -/
def permittedSpeed (g : Int) (a : Nat) : Nat :=
  if g ≤ 0 then 0 else greatestSpeed a (2 * a * g.toNat) (Nat.log2 (2 * a * g.toNat) + 1) 0

/-- A quotient rounded to the nearest whole number, halves away from zero, keeping its sign; `d` is positive. -/
def roundDiv (n : Int) (d : Nat) : Int := n.sign * ((2 * n.natAbs + d) / (2 * d) : Nat)

/-- A position in 1/256 rounded to the nearest whole count, halves away from zero (R16). -/
def toCount (p : Int) : Int := roundDiv p 256

/-- A whole count in 1/256. -/
def ofCount (c : Int) : Int := c * 256

/-- A value brought into [lo, hi]. -/
def clamp (lo hi x : Int) : Int := max lo (min hi x)

/-- The demanded velocity of a velocity demand (R8), in 1/256, rounded toward zero; −32,768 is taken as −32,767. -/
def velocityDemand (n : Int) (vmax : Nat) : Int := ((max n (-32767)) * vmax).tdiv 32767

/-- The demanded velocity toward a position target (R9). -/
def positionDemand (t p : Int) (aAccel : Nat) : Int := (t - p).sign * permittedSpeed (t - p).natAbs aAccel

/-- The effective speed limit (R11), rounded down to 1/256. -/
def cappedSpeed (vmax cap : Nat) : Nat := vmax * cap / 100

/-- The acceleration stage (R12): `braking` says that one of the three cases of the braking allowance holds. -/
def accelerate (v vDem : Int) (aAccel aStop : Nat) (braking : Bool) : Int :=
  if braking ∧ (vDem = 0 ∨ (vDem.sign = v.sign ∧ vDem.natAbs < v.natAbs)) then
    v - v.sign * (min aStop (v.natAbs - vDem.natAbs) : Nat)
  else v + clamp (-(aAccel : Int)) aAccel (vDem - v)

/-- The braking distance S of R90 after a candidate of magnitude `v`. -/
def brakeDistance (v a : Nat) : Nat := ((v - 1) / a) * v - a * ((v - 1) / a * ((v - 1) / a + 1) / 2)

/-- The reach interval of R90, from its lower to its upper end. -/
def reachInterval (p vc : Int) (aStop : Nat) : Int × Int :=
  if 0 < vc then (p, p + vc + brakeDistance vc.natAbs aStop)
  else if vc < 0 then (p + vc - brakeDistance vc.natAbs aStop, p)
  else (p, p)

/-- A boundary ahead of a candidate: its gap in 1/256, and the zone it belongs to, none for the soft limit. -/
structure Boundary where
  gap : Int
  zone : Option ZoneId
  deriving DecidableEq, Repr

/-- The least of the permitted speeds toward the boundaries, none where there is no boundary. -/
def leastPermitted (bs : List Boundary) (aStop : Nat) : Option Nat :=
  match bs with
  | [] => none
  | b :: rest =>
    match leastPermitted rest aStop with
    | none => some (permittedSpeed b.gap aStop)
    | some w => some (min (permittedSpeed b.gap aStop) w)

/-- The finished velocity of a step, and the stop cause it raises, if any. -/
structure StepOut where
  v : Int
  causes : List Cause
  deriving DecidableEq, Repr

/-- The first zone of a list of boundaries that meets a test. The boundaries stand in the order SET 0 to 7, CREW 0 to 7,
so it is the lowest SET entry, or the lowest CREW entry if there is no SET entry among them (R15). -/
def firstZone (bs : List Boundary) (test : Boundary → Bool) : Option ZoneId :=
  match bs with
  | [] => none
  | b :: rest =>
    match b.zone with
    | some z => if test b then some z else firstZone rest test
    | none => firstZone rest test

/-- A boundary that cannot be honoured (R15): braking at exactly a_stop, and ZONE_OVERRUN for a zone among the boundaries
that cannot be honoured. -/
def overrun (j : Axis) (v : Int) (aStop : Nat) (bs : List Boundary) : StepOut where
  v := v.sign * (v.natAbs - aStop : Nat)
  causes :=
    match firstZone bs (fun b => decide ((permittedSpeed b.gap aStop : Int) < (v.natAbs : Int) - aStop)) with
    | some z => [.zoneOverrun z j]
    | none => []

/-- A velocity held to the gap to the soft limit it moves toward, and to 0 where the gap is not positive, so that no
setpoint passes the limit (R15, R16). Where R14 lets a step exceed a positive gap, the law of R16 is kept (log entry
29). -/
def insideLimits (p : Int) (lim : Limits) (v : Int) : Int :=
  if 0 < v then min v (max 0 (ofCount lim.high - p)) else max v (-(max 0 (p - ofCount lim.low)))

/-- The boundary stage (R14, R15). -/
def boundaryStage (j : Axis) (v vc : Int) (aStop : Nat) (bs : List Boundary) : StepOut :=
  match leastPermitted bs aStop with
  | none => ⟨vc, []⟩
  | some w =>
    if (v.natAbs : Int) - aStop ≤ w then ⟨vc.sign * (min vc.natAbs w : Nat), []⟩ else overrun j v aStop bs

/-- The zone bounds of a PLAYBACK step (R17): as the boundary stage, and ZONE_BLOCK where the candidate is reduced. -/
def playbackStage (j : Axis) (v vc : Int) (aStop : Nat) (bs : List Boundary) : StepOut :=
  match leastPermitted bs aStop with
  | none => ⟨vc, []⟩
  | some w =>
    if (v.natAbs : Int) - aStop ≤ w then
      if w < vc.natAbs then
        ⟨vc.sign * (w : Int),
          match firstZone bs (fun b => decide (permittedSpeed b.gap aStop < vc.natAbs)) with
          | some z => [.zoneBlock z j]
          | none => []⟩
      else ⟨vc, []⟩
    else overrun j v aStop bs

/-- The trim movement of one update (R19). -/
def trimToward (offset demand : Int) (step : Nat) : Int := offset + clamp (-(step : Int)) step (demand - offset)

/-! ### Lens maps -/

/-- The forward conversion of R35 within the segments of a point list: the lowest segment whose upper user value is at or
above `u`; `u` lies between the first and the last user value. -/
def forwardIn : List (Nat × Int) → Nat → Int
  | [], _ => 0
  | [(_, c)], _ => c
  | (u0, c0) :: (u1, c1) :: rest, u =>
    if u ≤ u1 then c0 + roundDiv ((c1 - c0) * ((u : Int) - u0)) (u1 - u0) else forwardIn ((u1, c1) :: rest) u

/-- The first user value of a map. -/
def MapPoints.firstUser (m : MapPoints) : Nat := ((m.points.head?).getD (0, 0)).1

/-- The last user value of a map. -/
def MapPoints.lastUser (m : MapPoints) : Nat := ((m.points.getLast?).getD (0, 0)).1

/-- The first count of a map. -/
def MapPoints.firstCount (m : MapPoints) : Int := ((m.points.head?).getD (0, 0)).2

/-- The last count of a map. -/
def MapPoints.lastCount (m : MapPoints) : Int := ((m.points.getLast?).getD (0, 0)).2

/-- The forward conversion of R35, with the clamp to the map's end points. -/
def MapPoints.forward (m : MapPoints) (u : Nat) : Int :=
  forwardIn m.points (max m.firstUser (min m.lastUser u))

/-- The inverse conversion of R36 within the segments of a point list: the lowest segment between whose counts `c`
lies. -/
def inverseIn : List (Nat × Int) → Int → Int
  | [], _ => 0
  | [(u, _)], _ => u
  | (u0, c0) :: (u1, c1) :: rest, c =>
    if (c0 ≤ c ∧ c ≤ c1) ∨ (c1 ≤ c ∧ c ≤ c0) then
      (u0 : Int) + roundDiv (((u1 : Int) - u0) * ((c - c0) * (c1 - c0).sign)) (c1 - c0).natAbs
    else inverseIn ((u1, c1) :: rest) c

/-- The inverse conversion of R36, with the clamp to the map's end points. -/
def MapPoints.inverse (m : MapPoints) (c : Int) : Nat :=
  (inverseIn m.points
    (clamp (min m.firstCount m.lastCount) (max m.firstCount m.lastCount) c)).toNat

/-- The user range of a lens axis (02, section 2.1). -/
def userRange (l : Lens) : Nat × Nat :=
  if l = 0 then (100, 1000000) else if l = 1 then (50, 3200) else (10, 20000)

/-- Strictly rising in both coordinates, or strictly rising in the user value and falling in the count. -/
def monotone (rising : Bool) : List (Nat × Int) → Bool
  | [] => true
  | [_] => true
  | (u0, c0) :: (u1, c1) :: rest =>
    decide (u0 < u1) && (if rising then decide (c0 < c1) else decide (c1 < c0)) && monotone rising ((u1, c1) :: rest)

/-- The validity of a set of points as the map of a lens axis against a limits record (R29), for one direction. -/
def validMapIn (l : Lens) (lim : Limits) (rising : Bool) (ps : List (Nat × Int)) : Bool :=
  decide (2 ≤ ps.length) && decide (ps.length ≤ 24) &&
    ps.all (fun q => decide ((userRange l).1 ≤ q.1) && decide (q.1 ≤ (userRange l).2) &&
      decide (lim.low ≤ q.2) && decide (q.2 ≤ lim.high)) && monotone rising ps

/-- The map a set of points makes, if it is valid under R29. -/
def mapOf (l : Lens) (lim : Limits) (ps : List (Nat × Int)) : Option MapPoints :=
  if validMapIn l lim true ps then some ⟨ps, true⟩
  else if validMapIn l lim false ps then some ⟨ps, false⟩ else none

/-- The validity of a limits record for an axis (R2, section 1.2). -/
def validLimits (j : Axis) (r : Limits) : Bool :=
  decide (-2000000000 ≤ r.low) && decide (r.low ≤ 2000000000) &&
  decide (-2000000000 ≤ r.high) && decide (r.high ≤ 2000000000) && decide (16 ≤ r.high - r.low) &&
  decide (1 ≤ r.vmax) && decide (r.vmax ≤ 65535 * 256) &&
  decide (1 ≤ r.aAccel) && decide (r.aAccel ≤ r.vmax) &&
  decide (r.aAccel ≤ r.aStop) && decide (r.aStop ≤ r.vmax) &&
  decide (1 ≤ r.feLimit) && decide (r.feLimit ≤ 16777216) && decide (r.lead ≤ 15) &&
  decide (1 ≤ r.seekPercent) && decide (r.seekPercent ≤ 100) &&
  decide (r.trimStep ≤ 4096) && decide (r.trimRange ≤ 1000000) &&
  (decide (r.trimStep = 0) || decide (4 ≤ j.val))

end Sys2Proof.Machine
end

