-- ==== Sys2Proof/Machine/Memory.lean ====
section
/-! DEFINITION. Addressed stores in one canonical form: a list of (address, value) pairs with the addresses strictly
rising and no entry equal to what an unlisted address reads as. -/

namespace Sys2Proof.Machine

namespace Memory

variable {α : Type} [DecidableEq α]

/-- The canonical form: strictly rising addresses, and no entry equal to `d`. -/
abbrev wf (d : α) (m : List (Nat × α)) : Prop :=
  m.Pairwise (fun x y => x.1 < y.1) ∧ ∀ c ∈ m, c.2 ≠ d

/-- The value at address `a`: `d` where the list names none. -/
def read (d : α) (m : List (Nat × α)) (a : Nat) : α :=
  match m with
  | [] => d
  | (b, w) :: rest => if b = a then w else read d rest a

/-- The store with `v` at address `a`, in canonical form. -/
def write (d : α) (m : List (Nat × α)) (a : Nat) (v : α) : List (Nat × α) :=
  match m with
  | [] => if v = d then [] else [(a, v)]
  | (b, w) :: rest =>
    if a < b then (if v = d then (b, w) :: rest else (a, v) :: (b, w) :: rest)
    else if a = b then (if v = d then rest else (a, v) :: rest)
    else (b, w) :: write d rest a v

/-- The `n` values from address `a` on. -/
def readMany (d : α) (m : List (Nat × α)) (a n : Nat) : List α :=
  (List.range n).map fun i => read d m (a + i)

/-- The store with `vs` written from address `a` on. -/
def writeMany (d : α) (m : List (Nat × α)) (a : Nat) (vs : List α) : List (Nat × α) :=
  match vs with
  | [] => m
  | v :: rest => writeMany d (write d m a v) (a + 1) rest

/-- The store with the addresses from `a` to `a + n - 1` reading as `d`. -/
def clear (m : List (Nat × α)) (a n : Nat) : List (Nat × α) :=
  m.filter fun c => !(decide (a ≤ c.1) && decide (c.1 < a + n))

end Memory

/-- What a byte of the flash that nothing has written reads as (log entry 7), and what an erased byte reads as (R199). -/
def erasedByte : Byte := 0xFF

/-- The first byte of a sector (11, section 11.1). -/
def sectorAddress (sector : Nat) : Nat := sector * 4096

/-- `n` bytes of the flash from address `a` on. -/
def flashBytes (flash : List Host.Cell) (a n : Nat) : List Byte := Memory.readMany erasedByte flash a n

/-- A sector erased, and `bytes` written into it from its first byte on (R199). -/
def writeSector (flash : List Host.Cell) (sector : Nat) (bytes : List Byte) : List Host.Cell :=
  Memory.writeMany erasedByte (Memory.clear flash (sectorAddress sector) 4096) (sectorAddress sector) bytes

end Sys2Proof.Machine
end

