-- ==== Sys2Proof/Machine/Ops.lean ====
section
/-! DEFINITION. The named operations over the state that several commands share: one record changed, notices, modes and
commands of axes, drives leaving ACTIVE, marks, takes. -/

namespace Sys2Proof.Machine

/-! ### One record changed -/

/-- The state with one link record changed. -/
def State.modLink (s : State) (st : Station) (f : Link → Link) : State := { s with links := s.links.modify st f }

/-- The state with one station record changed. -/
def State.modStation (s : State) (st : Station) (f : StationRec → StationRec) : State :=
  { s with stations := s.stations.modify st f }

/-- The state with one authority entry changed. -/
def State.modAuth (s : State) (j : Axis) (f : AuthEntry → AuthEntry) : State := { s with auth := s.auth.modify j f }

/-- The state with one axis channel changed. -/
def State.modChannel (s : State) (j : Axis) (f : AxisChannel → AxisChannel) : State :=
  { s with channels := s.channels.modify j f }

/-- The state with one drive record changed. -/
def State.modDrive (s : State) (j : Axis) (f : Drive → Drive) : State :=
  { s with port := { s.port with drives := s.port.drives.modify j f } }

/-- The state with one take slot changed. -/
def State.setSlot (s : State) (i : TakeNo) (t : TakeSlot) : State :=
  { s with takes := { s.takes with slots := s.takes.slots.set i t } }

/-- The zone named by table and index. -/
def State.zone (s : State) (z : ZoneId) : Zone :=
  match z.table with
  | .set => s.zones.setTable.get z.index
  | .crew => s.zones.crewTable.get z.index

/-- The state with one zone changed. -/
def State.modZone (s : State) (z : ZoneId) (f : Zone → Zone) : State :=
  match z.table with
  | .set => { s with zones := { s.zones with setTable := s.zones.setTable.modify z.index f } }
  | .crew => { s with zones := { s.zones with crewTable := s.zones.crewTable.modify z.index f } }

/-- All sixteen zones, SET 0 to 7 and then CREW 0 to 7. -/
def allZones : List ZoneId :=
  allChannels.map (fun i => ⟨.set, i⟩) ++ allChannels.map (fun i => ⟨.crew, i⟩)

/-! ### Reading the state -/

/-- The link state of a station. -/
def State.linkState (s : State) (st : Station) : LinkState := (s.links.get st).state

/-- The drive state of an axis. -/
def State.driveState (s : State) (j : Axis) : DriveState := (s.port.drives.get j).state

/-- The mode of an axis. -/
def State.mode (s : State) (j : Axis) : Mode := (s.auth.get j).mode

/-- The limits record of an axis. -/
def State.limits (s : State) (j : Axis) : Option Limits := (s.channels.get j).limits

/-- Whether a right stands in a set of rights (R62). -/
def hasRight (r : Rights) (q : Right) : Bool :=
  match q with
  | .claimArm => r.getLsbD 0
  | .claimHead => r.getLsbD 1
  | .claimLens => r.getLsbD 2
  | .trim => r.getLsbD 3
  | .take => r.getLsbD 4
  | .play => r.getLsbD 5
  | .go => r.getLsbD 6
  | .release2 => r.getLsbD 7
  | .config => r.getLsbD 8

/-- Whether a station holds a right at this moment (R62). -/
def State.holds (s : State) (st : Station) (q : Right) : Bool := hasRight (s.stations.get st).rights q

/-- The claim right of the group of an axis (R62). -/
def groupRight (j : Axis) : Right :=
  if j.val < 4 then .claimArm else if j.val < 7 then .claimHead else .claimLens

/-- The modes of an axis under a take. -/
def Mode.underTake (m : Mode) : Bool :=
  match m with
  | .idle | .manual => false
  | .seek | .playback | .paused => true

/-- The axes of a set, in ascending order. -/
def axesOf (a : AxisSet) : List Axis := allAxes.filter fun j => a.getLsbD j.val

/-- Whether any axis is in SEEK, PLAYBACK or PAUSED: the crane mode is then PLAYBACK, and MANUAL otherwise (R88). -/
def State.playbackMode (s : State) : Bool := allAxes.any fun j => (s.mode j).underTake

/-! ### Notices (R196) -/

/-- A notice posted to one station, where its link is UP. -/
def State.post (s : State) (st : Station) (f : Notices → Notices) : State :=
  if s.linkState st = .up then s.modLink st fun l => { l with notices := f l.notices } else s

/-- A notice posted to every station whose link is UP. -/
def State.postAll (s : State) (f : Notices → Notices) : State :=
  { s with links := s.links.map fun l => if l.state = .up then { l with notices := f l.notices } else l }

/-! ### Axis channels -/

/-- A channel whose command became VEL 0: the target in force of an ACTIVE axis becomes a velocity demand of 0 (R64). -/
def AxisChannel.zeroTarget (c : AxisChannel) : AxisChannel :=
  { c with moving := c.moving.map fun m => { m with target := .velocity 0 } }

/-- A channel that gives up its setpoint, velocity and target, keeping its trim in SEEK, PLAYBACK and PAUSED alone
(R23). -/
def AxisChannel.giveUp (c : AxisChannel) (m : Mode) : AxisChannel :=
  { c with
    moving := none
    trimDemand := if m.underTake then c.trimDemand else 0
    trimOffset := if m.underTake then c.trimOffset else 0 }

/-- A channel that takes a reported position as its setpoint on a wake (R22). -/
def AxisChannel.wake (c : AxisChannel) (m : Mode) (position : Int) : AxisChannel :=
  { c with
    moving := some ⟨ofCount position, 0, .velocity 0⟩
    trimDemand := if m.underTake then c.trimDemand else 0
    trimOffset := if m.underTake then c.trimOffset else 0
    slowCap := 100 }

/-- A position target clamped to the soft limits when it is set (R5). -/
def clampTarget (lim : Option Limits) (t : Int) : Int :=
  match lim with
  | some l => clamp (ofCount l.low) (ofCount l.high) t
  | none => t

/-! ### Authority entries (R64, R65) -/

/-- An entry that returns out of SEEK, PLAYBACK or PAUSED: MANUAL under its owner where the owner's link is UP, IDLE
otherwise, with no trim station and command VEL 0 (R65). -/
def AuthEntry.returned (a : AuthEntry) (ownerUp : Bool) : AuthEntry :=
  if ownerUp then { AuthEntry.idle with owner := a.owner, mode := .manual } else AuthEntry.idle

/-- Whether the link of an entry's owner is UP. -/
def State.ownerUp (s : State) (a : AuthEntry) : Bool :=
  match a.owner with
  | some st => decide (s.linkState st = .up)
  | none => false

/-- The axes of a set return out of SEEK, PLAYBACK or PAUSED (R65); their trim becomes 0 and the setpoints stay (R19,
R80). -/
def State.returnAxes (s : State) (axes : AxisSet) : State :=
  { s with
    auth := s.auth.imap fun j a => if axes.getLsbD j.val then a.returned (s.ownerUp a) else a
    channels := s.channels.imap fun j c =>
      if axes.getLsbD j.val then { c.zeroTarget with trimDemand := 0, trimOffset := 0 } else c }

/-- The axes of a set pass to a mode under their owner, the stale mark cleared and the command kept (R65). -/
def State.setModes (s : State) (axes : AxisSet) (m : Mode) : State :=
  { s with
    auth := s.auth.imap fun j a => if axes.getLsbD j.val then { a with mode := m, stale := false } else a }

/-! ### Takes (chapter 8) -/

/-- Samples in a block for a take of `k` axes (R144). -/
def perBlock (k : Nat) : Nat := 1024 / k

/-- The number of axes of a set. -/
def setSize (a : AxisSet) : Nat := (axesOf a).length

/-- The rank of an axis within a set: the number of axes of the set below it (R144). -/
def rankIn (a : AxisSet) (j : Axis) : Nat := ((axesOf a).filter fun i => decide (i.val < j.val)).length

/-- The place of the value of axis `j` in sample `q` of a take with this axis set and block list (R144). -/
def valuePlace (axes : AxisSet) (blocks : List Nat) (q : Nat) (j : Axis) : Nat :=
  blocks.getD (q / perBlock (setSize axes)) 0 * 1024 + (q % perBlock (setSize axes)) * setSize axes + rankIn axes j

/-- The value of axis `j` in sample `q` of a take, as the Take Store serves it (R158). -/
def TakeStore.sample (ts : TakeStore) (t : Take) (q : Nat) (j : Axis) : Int :=
  Memory.read 0 ts.values (valuePlace t.axes t.blocks q j)

/-- The values with those of one sample written to their places (R144). -/
def writeSample (values : List (Nat × Int)) (axes : AxisSet) (blocks : List Nat) (q : Nat) (vals : Tab 10 Int) :
    List (Nat × Int) :=
  (axesOf axes).foldl (fun m j => Memory.write 0 m (valuePlace axes blocks q j) (vals.get j)) values

/-- The path position of an axis of a take at an elapsed point (R171). -/
def TakeStore.pathPosition (ts : TakeStore) (t : Take) (j : Axis) (x : Nat) : Int :=
  if t.count - 1 ≤ x / t.divisor then ts.sample t (t.count - 1) j
  else ts.sample t (x / t.divisor) j +
    ((ts.sample t (x / t.divisor + 1) j - ts.sample t (x / t.divisor) j) * (x % t.divisor : Nat)).tdiv t.divisor

/-- The take in a slot in CLOSED state. -/
def TakeStore.closedTake (ts : TakeStore) (i : TakeNo) : Option Take :=
  match ts.slots.get i with
  | .closed t _ => some t
  | _ => none

/-- A take closes with a reason (R154): the recorder becomes IDLE, the take is kept CLOSED with two or more samples and
discarded otherwise, and RECORD_CLOSED is posted to the recording station. With the recorder IDLE nothing changes. -/
def State.closeTake (s : State) (reason : CloseReason) : State :=
  match s.takes.recorder with
  | none => s
  | some r =>
    match s.takes.slots.get r.slot with
    | .recording t =>
      if 2 ≤ t.count then
        ({ s with takes := { s.takes with slots := s.takes.slots.set r.slot (.closed t reason), recorder := none } }).post
          r.station fun n => { n with recordClosed := some (r.slot, t.count, some reason) }
      else
        ({ s with takes := { s.takes with
            slots := s.takes.slots.set r.slot .empty, recorder := none, freeList := s.takes.freeList ++ t.blocks } }).post
          r.station fun n => { n with recordClosed := some (r.slot, t.count, none) }
    | _ => { s with takes := { s.takes with recorder := none } }

/-- The take in the recording slot, while the recorder is RECORDING. -/
def TakeStore.recordingTake (ts : TakeStore) : Option (Recorder × Take) :=
  match ts.recorder with
  | none => none
  | some r =>
    match ts.slots.get r.slot with
    | .recording t => some (r, t)
    | _ => none

/-- The take of the recorder closes INTERRUPTED if an axis is of its set (R152). -/
def State.closeIfRecorded (s : State) (j : Axis) : State :=
  match s.takes.recordingTake with
  | some (_, t) => if t.axes.getLsbD j.val then s.closeTake .interrupted else s
  | none => s

/-! ### Drives leaving ACTIVE (R23, R152) -/

/-- A drive record moves out of ACTIVE: the channel gives up its setpoint and a recording of the axis closes. A record that
was not ACTIVE has no setpoint to give up. -/
def State.leaveActive (s : State) (j : Axis) : State :=
  if s.driveState j = .active then
    (s.modChannel j fun c => c.giveUp (s.mode j)).closeIfRecorded j
  else s

/-- A drive record takes a new state with the counts and the flag given (R49, R54, R55, R57, R58). -/
def State.driveTo (s : State) (j : Axis) (d : DriveState) (keepSilence : Bool) : State :=
  (s.leaveActive j).modDrive j fun r =>
    { r with state := d, silence := if keepSilence then r.silence else 0, wait := 0, followingError := false }

/-! ### Marks (chapter 7) -/

/-- The internal mark is copied to the published mark, and MARK_PUBLISHED is posted (R138, R141). -/
def State.publishMark (s : State) : State :=
  match s.marks.newest with
  | none => { s with marks := { s.marks with pending := false } }
  | some m =>
    ({ s with marks := { s.marks with published := some m, pending := false } }).postAll
      fun n => { n with markPublished := some (m.source, m.timebase) }

/-- Whether no station is in the open-readers set. -/
def MarkLatch.noReaders (m : MarkLatch) : Bool := allStations.all fun st => (m.readers.get st).isNone

/-- A station leaves the open-readers set; a removal that empties the set publishes a pending mark (R141). A station that
is not in the set changes nothing. -/
def State.removeReader (s : State) (st : Station) : State :=
  if (s.marks.readers.get st).isSome then
    let t := { s with marks := { s.marks with readers := s.marks.readers.set st none } }
    if t.marks.noReaders && t.marks.pending then t.publishMark else t
  else s

/-- The whole-count setpoints of the ACTIVE axes (R26). -/
def State.setpointsNow (s : State) : Tab 10 (Option Int) :=
  s.channels.map fun c => c.moving.map fun m => toCount m.p

/-- The user value of a lens axis: the inverse conversion of its whole-count setpoint, absent for an axis that is not
ACTIVE or has no valid map (R39). -/
def State.userValue (s : State) (l : Lens) : Option Nat :=
  match (s.channels.get (lensAxis l)).moving, (s.maps.get l).map with
  | some m, some mp => some (mp.inverse (toCount m.p))
  | _, _ => none

/-- A mark is latched and published where no reader is open (R137, R138). -/
def State.latchMark (s : State) (source : MarkSource) : State :=
  let m : Mark :=
    { source := source
      timebase := s.time.now
      playing := match s.play.state with
        | .running h e => some (h.slot, e)
        | _ => none
      recording := match s.takes.recordingTake with
        | some (r, t) => some (r.slot, t.count)
        | none => none
      setpoints := s.setpointsNow
      userValues := Tab.ofFn s.userValue }
  let t := { s with marks := { s.marks with newest := some m, count := min 65535 (s.marks.count + 1) } }
  if t.marks.noReaders then t.publishMark else { t with marks := { t.marks with pending := true } }

end Sys2Proof.Machine
end

