-- ==== Sys2Proof/Machine/Raise.lean ====
section
/-! DEFINITION. Zone activity and occupancy (chapter 5), and a stop raise with its effects on every block (chapter 6). -/

namespace Sys2Proof.Machine

/-! ### Zone positions, activity and occupancy -/

/-- The zone position of a motion axis in 1/256 (R89): the setpoint while its channel holds one, the position of the last
report otherwise, and none before the first report. -/
def State.zonePosition (s : State) (m : Motion) : Option Int :=
  match (s.channels.get (motionAxis m)).moving with
  | some mo => some mo.p
  | none => ((s.port.drives.get (motionAxis m)).lastReport).map fun r => ofCount r.2

/-- Whether an entry has a ranged axis (R87). -/
def ZoneEntry.hasRange (e : ZoneEntry) : Bool := allMotion.any fun m => (e.ranges.get m).isSome

/-- Completeness of an entry of a table (R87). -/
def ZoneEntry.complete (e : ZoneEntry) (t : ZoneTable) : Bool :=
  e.hasRange && (decide (t = .set) || decide (e.mask ≠ 0))

/-- Whether every ranged axis has a position in its range (R95), the positions being those of `pos`. -/
def ZoneEntry.occupiedAt (e : ZoneEntry) (pos : Motion → Option Int) : Bool :=
  allMotion.all fun m =>
    match e.ranges.get m with
    | none => true
    | some (lo, hi) =>
      match pos m with
      | none => false
      | some p => decide (ofCount lo ≤ p) && decide (p ≤ ofCount hi)

/-- Whether a mode match holds in a crane mode (R88). -/
def ModeMatch.holds (m : ModeMatch) (playback : Bool) : Bool :=
  match m with
  | .both => true
  | .playback => playback
  | .manual => !playback

/-- Whether some channel of a mask is PRESENT or in FAULT (R88). Channel Pc stands in bit c of a mask (log entry 32). -/
def State.maskPresent (s : State) (mask : ChannelSet) : Bool :=
  allChannels.any fun c => mask.getLsbD c.val && decide ((s.zones.channels.get c).state ≠ .clear)

/-- Whether an entry of a table is active with the channels and the crane mode as they stand (R88). -/
def State.entryActive (s : State) (t : ZoneTable) (e : ZoneEntry) : Bool :=
  e.enabled && e.modeMatch.holds s.playbackMode && (decide (t = .set) || s.maskPresent e.mask)

/-- The zone with its active flag judged afresh; an entry that becomes inactive loses its occupied flag (R88, R95). -/
def State.rejudged (s : State) (t : ZoneTable) (z : Zone) : Zone :=
  { z with active := s.entryActive t z.entry, occupied := z.occupied && s.entryActive t z.entry }

/-- Every active flag judged afresh (R88). -/
def State.rejudgeAll (s : State) : State :=
  { s with zones := { s.zones with
      setTable := s.zones.setTable.map (s.rejudged .set)
      crewTable := s.zones.crewTable.map (s.rejudged .crew) } }

/-- The zones that a judgement would make active and that are not active yet. -/
def State.becomingActive (s : State) : List ZoneId :=
  allZones.filter fun z => !(s.zone z).active && s.entryActive z.table (s.zone z).entry

/-- Whether the occupancy test applies to a zone: it is active and HARD (R95). -/
def Zone.tested (z : Zone) : Bool := z.active && decide (z.entry.kind = .hard)

/-- The zones of a list that a test finds occupied with their flags clear (R95). -/
def State.foundOccupied (s : State) (zs : List ZoneId) : List ZoneId :=
  zs.filter fun z => (s.zone z).tested && (s.zone z).entry.occupiedAt s.zonePosition && !(s.zone z).occupied

/-- The occupied flag of one zone after a test: set where the zone is found occupied and cleared where not (R95). -/
def State.testFlag (s : State) (z : ZoneId) : State :=
  if (s.zone z).tested then s.modZone z fun y => { y with occupied := (s.zone z).entry.occupiedAt s.zonePosition } else s

/-- One occupancy test of the zones of a list (R95): the flags are set and cleared as the test finds the zones, and then
each zone found occupied with its flag clear is raised by `rz`, also one that an earlier raise has made inactive. -/
def State.testZones (s : State) (rz : ZoneId → State → State) (zs : List ZoneId) : State :=
  (s.foundOccupied zs).foldl (fun t z => rz z t) (zs.foldl State.testFlag s)

/-- Every entry judged afresh, and each entry that becomes active tested at once (R88, R96). -/
def State.judgeWith (s : State) (rz : ZoneId → State → State) : State :=
  s.rejudgeAll.testZones rz s.becomingActive

/-! ### The stop controller takes a raise (R108, R109, R111) -/

/-- The playback position of a stop record (R109). -/
def State.playbackPosition (s : State) : Option (TakeNo × Nat) :=
  match s.play.state with
  | .seeking c => some (c.hold.slot, c.runStart)
  | .ready c => some (c.hold.slot, c.runStart)
  | .running h e => some (h.slot, e)
  | _ => none

/-- The record a raise makes, from the state as it stands when the raise is taken (R109). -/
def State.stopRecord (s : State) (c : Cause) (level : Nat) : StopRecord where
  sequence := s.stop.nextSequence
  timebase := s.time.now
  cause := c
  level := max s.stop.level level
  secondary := !decide (s.stop.level < level)
  playback := s.playbackPosition
  setpoints := s.setpointsNow
  standstill := none

/-- Whether a raise makes a record (R109). -/
def StopController.records? (k : StopController) (c : Cause) (level : Nat) : Bool :=
  decide (k.level < level) || !decide (c ∈ k.memory)

/-- The halt timer after a raise (R108, R113). -/
def StopController.haltAfter (k : StopController) (level : Nat) : Option Nat :=
  if k.level < level ∧ level = 2 then some 0 else if k.level < level ∧ level = 3 then none else k.haltTimer

/-- The Stop Controller after a raise; `r` is the record the raise makes if it makes one (R108, R109, R115, R116,
R123). -/
def StopController.raised (k : StopController) (c : Cause) (level : Nat) (r : StopRecord) : StopController where
  level := max k.level level
  primaryCause := if k.level < level then some c else k.primaryCause
  primaryRecord := if k.level < level then some k.nextSequence else k.primaryRecord
  chain := k.chain
  chainSplit := k.chainSplit
  localReset := k.localReset
  localResetSeen := if level = 3 then false else k.localResetSeen
  haltTimer := k.haltAfter level
  nextSequence := if k.records? c level then (k.nextSequence + 1) % 65536 else k.nextSequence
  memory := if k.records? c level ∧ c ∉ k.memory then k.memory ++ [c] else k.memory
  records := if k.records? c level then (r :: k.records).take 8 else k.records
  cut := if k.level < level ∧ level = 3 then true else k.cut

/-- The raise at the Stop Controller, with STOP_RAISED posted where a record is made (R111). -/
def State.takeRaise (s : State) (c : Cause) (level : Nat) : State :=
  let t := { s with stop := s.stop.raised c level (s.stopRecord c level) }
  if s.stop.records? c level then
    t.postAll fun n =>
      { n with stopRaised := some ⟨s.stop.nextSequence, c, max s.stop.level level, !decide (s.stop.level < level)⟩ }
  else t

/-! ### The blocks act on a raise made known (R110) -/

/-- The Setpoint Generator: the stop flag HELD, the standstill-reported flag clear (R20). -/
def State.generatorOnRaise (s : State) : State := { s with generator := ⟨true, false⟩ }

/-- The axes of the take a slot holds. -/
def State.takeAxes (s : State) (i : TakeNo) : AxisSet :=
  match s.takes.closedTake i with
  | some t => t.axes
  | none => 0

/-- The engine gives up its take: IDLE, with the axes of the set returned (R176, R180, R182). -/
def State.dropTake (s : State) (h : Hold) : State :=
  ({ s with play := { s.play with state := .idle } }).returnAxes (s.takeAxes h.slot)

/-- The Playback Engine cancels a cue or pauses a running take (R180). -/
def State.engineOnRaise (s : State) : State :=
  match s.play.state with
  | .idle => s
  | .paused _ _ => s
  | .seeking c => (s.dropTake c.hold).post c.hold.station fun n => { n with cueFailed := some (c.hold.slot, .stopped) }
  | .ready c => (s.dropTake c.hold).post c.hold.station fun n => { n with cueFailed := some (c.hold.slot, .stopped) }
  | .running h e =>
    ({ s with play := { s.play with state := .paused h e } }).setModes (s.takeAxes h.slot) .paused

/-- A drive record under a raise made known with a level (R55, R56, R58). -/
def Drive.onRaise (d : Drive) (level : Nat) : Drive :=
  if level = 3 then
    match d.state with
    | .waking | .active | .parking => { d with state := .parked, silence := 0, wait := 0, followingError := false }
    | .off | .parked | .fault => d
  else
    match d.state with
    | .waking => { d with state := .parking, wait := 0 }
    | .off | .active | .parking | .parked | .fault => d

/-- The Drive Port under a raise made known with a level (R55, R56, R58): at level 3 the channels of ACTIVE axes give up
their setpoints (R23). -/
def State.portOnRaise (s : State) (level : Nat) : State :=
  { s with
    port := { s.port with drives := s.port.drives.map fun d => d.onRaise level }
    channels := s.channels.imap fun j c =>
      if level = 3 ∧ s.driveState j = .active then c.giveUp (s.mode j) else c }

/-- A raise taken whole and made known to the generator, the engine, the recorder and the Drive Port (R108, R110), less
the judgement of the zones that a changed crane mode calls for. -/
def State.raiseOnce (s : State) (c : Cause) (level : Nat) : State :=
  ((((s.takeRaise c level).generatorOnRaise).engineOnRaise).closeTake .interrupted).portOnRaise
    (max s.stop.level level)

/-- A raise (R108), with every zone entry judged afresh where a cancelled cue has changed the crane mode (R88). The
raises of that judgement find the engine IDLE, so they change the crane mode no further. -/
def State.raise (s : State) (c : Cause) (level : Nat) : State :=
  let t := s.raiseOnce c level
  if t.playbackMode = s.playbackMode then t else t.judgeWith fun z u => u.raiseOnce (.zoneOccupied z) 2

/-- ZONE_OCCUPIED raised for a zone (R95). -/
def State.raiseOccupied (z : ZoneId) (s : State) : State := s.raise (.zoneOccupied z) 2

/-- Every zone entry judged afresh, each entry that becomes active tested at once (R88, R96). -/
def State.judgeZones (s : State) : State := s.judgeWith State.raiseOccupied

/-- The occupancy test of every zone, at the hand-off of an update (R96). -/
def State.testAllZones (s : State) : State := s.testZones State.raiseOccupied allZones

/-- The occupancy test of every zone that ranges a woken motion axis (R94, R96). -/
def State.testWoken (s : State) (m : Motion) : State :=
  s.testZones State.raiseOccupied (allZones.filter fun z => ((s.zone z).entry.ranges.get m).isSome)

/-! ### Drives entering FAULT (R54) -/

/-- A drive record enters FAULT and raises its cause at level 2 (R52, R54). -/
def State.driveFaults (s : State) (j : Axis) (c : Cause) : State := (s.driveTo j .fault false).raise c 2

/-! ### A station's link goes DOWN (R73, R74, R75, R188) -/

/-- The link record of a link that goes DOWN (R188): buffers, queue and notices emptied, counts of errors and the test
state kept. -/
def Link.goDown (l : Link) : Link :=
  { l with
    state := .down, idleRun := 0, assembly := none, replies := [], overrun := none, notices := Notices.empty,
    reportFrames := [] }

/-- An authority entry after the loss of a station (R74, R75): its MANUAL axes become IDLE, and it is trim station of
none. -/
def AuthEntry.afterLoss (a : AuthEntry) (st : Station) : AuthEntry :=
  if a.owner = some st ∧ a.mode = .manual then AuthEntry.idle
  else if a.trimStation = some st then { a with trimStation := none } else a

/-- A map staging record after the loss of a station (R32). -/
def stagingAfterLoss (m : Option MapStaging) (st : Station) : Option MapStaging :=
  match m with
  | some x => if x.station = st then none else some x
  | none => none

/-- What a station's loss takes from the Authority Table, the Lens Map Unit and the Zone Monitor (R32, R74, R75, R99). -/
def State.loseAuthority (s : State) (st : Station) : State :=
  { s with
    auth := s.auth.map fun a => a.afterLoss st
    channels := s.channels.imap fun j c =>
      if (s.auth.get j).owner = some st ∧ (s.auth.get j).mode = .manual then c.zeroTarget else c
    mapStaging := s.mapStaging.map fun m => stagingAfterLoss m st
    zones := { s.zones with staging := s.zones.staging.set st none } }

/-- Whether a station owns an axis in SEEK, PLAYBACK or PAUSED (R74). -/
def State.ownsUnderTake (s : State) (st : Station) : Bool :=
  allAxes.any fun j => decide ((s.auth.get j).owner = some st) && (s.mode j).underTake

/-- The link of a station goes DOWN, and the loss is made known to the Authority Table, the Lens Map Unit, the Zone
Monitor and the Mark Latch (R32, R74, R75, R99, R141, R188). LINK_LOST is raised once where the station owns an axis under
a take. -/
def State.stationDown (s : State) (st : Station) : State :=
  let t := ((s.modLink st Link.goDown).loseAuthority st).removeReader st
  if s.ownsUnderTake st then t.raise (.linkLost st) 1 else t

end Sys2Proof.Machine
end

