-- ==== Sys2Proof/Machine/Requests.lean ====
section
/-! DEFINITION. What every frame of a station does: valid and bad frames (R189), the assembly buffer (R190), the reply
queue and its overrun record (R191). -/

namespace Sys2Proof.Machine

/-- The outcome of every command: the next state. While SYSRESET is asserted the part does nothing (R203). -/
def awake (s : State) (f : State → State) : Host.Outcome State Fault Refusal :=
  .next (if s.sysreset then s else f s)

/-- The answer to a request: its result code and detail. -/
structure Answer where
  result : Result
  detail : List Byte
  deriving DecidableEq, Repr

/-- A refusal without detail (section 10.5). -/
def refuse (r : Result) : Option Answer := some ⟨r, []⟩

/-- A request judged: refused with the answer its rule gives and no state changed, or taken with the state and the detail
given (00, "Requests and replies"). -/
def judged (verdict : Option Answer) (s taken : State) (detail : List Byte) : State × Answer :=
  match verdict with
  | some a => (s, a)
  | none => (taken, ⟨.ok, detail⟩)

/-- The code of TEST_END in the catalogue of section 10.5. -/
def testEndCode : Byte := 43

/-- The largest payload of a frame (R189). -/
def maxPayload : Nat := 24

/-- The most replies that wait in a reply queue (10, section 10.1). -/
def maxReplies : Nat := 8

/-- A valid frame sets the bad run and the last-frame count to 0 (R189). -/
def State.heard (s : State) (st : Station) : State :=
  (s.modLink st fun l => { l with badRun := 0 }).modStation st fun r => { r with lastFrame := 0 }

/-- A bad frame on an UP or TEST link (R189): counted, and the link DOWN at the 32nd in a row. A bad TEST frame in TEST
leaves no previous word (R198). -/
def State.badFrame (s : State) (st : Station) (isTest : Bool) : State :=
  let l := s.links.get st
  if l.state = .up ∨ l.state = .test then
    let t := s.modLink st fun l =>
      { l with
        crcErrors := min 65535 (l.crcErrors + 1)
        badRun := min 32 (l.badRun + 1)
        test := if l.state = .test ∧ isTest then { l.test with previous := none } else l.test }
    if 32 ≤ l.badRun + 1 then t.stationDown st else t
  else s

/-- A frame whose payload is at most 24 bytes, on an UP or TEST link: valid, and acted on. A longer one is bad; on a DOWN
or ALIGNING link no frame is taken (R189). -/
def State.onFrame (s : State) (st : Station) (payload : List Byte) (f : State → State) : State :=
  if s.linkState st = .up ∨ s.linkState st = .test then
    if payload.length ≤ maxPayload then f (s.heard st) else s.badFrame st false
  else s

/-- An answer placed at the tail of the reply queue (R191). -/
def State.addReply (s : State) (st : Station) (tag code : Byte) (a : Answer) : State :=
  s.modLink st fun l => { l with replies := l.replies ++ [⟨tag, code, a.result, a.detail⟩] }

/-- Whether a request can't be passed on: 8 replies wait, or an overrun record exists (R191). -/
def Link.isFull (l : Link) : Bool := decide (maxReplies ≤ l.replies.length) || l.overrun.isSome

/-- A request that is not passed on is counted in the overrun record (R191). -/
def State.countOverrun (s : State) (st : Station) (tag code : Byte) : State :=
  s.modLink st fun l =>
    { l with overrun := match l.overrun with
        | none => some ⟨tag, code, 1⟩
        | some o => some { o with count := min 255 (o.count + 1) } }

/-- A request decided and answered (R191). -/
def State.submit (s : State) (st : Station) (tag code : Byte) (bytes : List Byte)
    (serve : List Byte → State → State × Answer) : State :=
  if (s.links.get st).isFull then s.countOverrun st tag code
  else if (s.links.get st).state = .test ∧ code ≠ testEndCode then s.addReply st tag code ⟨.state, []⟩
  else ((serve bytes s).1).addReply st tag code (serve bytes s).2

/-- The assembly buffer emptied. -/
def State.clearAssembly (s : State) (st : Station) : State := s.modLink st fun l => { l with assembly := none }

/-- A held request ended with BAD_ARG (R190). -/
def State.endHeld (s : State) (st : Station) (h : Held) : State :=
  if (s.links.get st).isFull then (s.clearAssembly st).countOverrun st h.tag h.code
  else (s.clearAssembly st).addReply st h.tag h.code ⟨.badArg, []⟩

/-- A REQUEST frame (R190, R191): joined to the held request of the same tag and code, or else ending the one held. DESIGN
CHOICE: a request completed while 8 replies wait or an overrun record exists empties the buffer (R190) and is counted as one
request (R191; log entry 44). -/
def State.takeRequest (s : State) (st : Station) (tag code : Byte) (payload : List Byte)
    (serve : List Byte → State → State × Answer) : State :=
  s.onFrame st payload fun t =>
    match (t.links.get st).assembly with
    | none => t.submit st tag code payload serve
    | some h =>
      if h.tag = tag ∧ h.code = code then (t.clearAssembly st).submit st tag code (h.bytes ++ payload) serve
      else (t.endHeld st h).submit st tag code payload serve

/-- A REQUEST_MORE frame (R190): held, ending the request held before it. -/
def State.takeMore (s : State) (st : Station) (tag code : Byte) (payload : List Byte) : State :=
  s.onFrame st payload fun t =>
    match (t.links.get st).assembly with
    | none => t.modLink st fun l => { l with assembly := some ⟨tag, code, payload⟩ }
    | some h => (t.endHeld st h).modLink st fun l => { l with assembly := some ⟨tag, code, payload⟩ }

/-- A request served by its owner where its arguments have the length and the values of its layout, and answered BAD_ARG
otherwise (R191). -/
def serveArgs {α : Type} (decode : List Byte → Option α) (serve : α → State → State × Answer) (bytes : List Byte)
    (s : State) : State × Answer :=
  match decode bytes with
  | some a => serve a s
  | none => (s, ⟨.badArg, []⟩)

/-- A request as a command: the frame, its arguments decoded, and its owner's rule. -/
def request {α : Type} (st : Station) (tag code : Byte) (payload : List Byte) (decode : List Byte → Option α)
    (serve : α → State → State × Answer) (s : State) : Host.Outcome State Fault Refusal :=
  awake s fun t => t.takeRequest st tag code payload (serveArgs decode serve)

/-- A stream frame (R192): its payload decoded, acted on by `inUp` or `inTest` as the link state gives; a payload that
does not decode makes the frame bad (R189). -/
def State.onStream {α : Type} (s : State) (st : Station) (payload : List Byte) (decode : List Byte → Option α)
    (isTest : Bool) (inUp inTest : α → State → State) : State :=
  if s.linkState st = .up ∨ s.linkState st = .test then
    if payload.length ≤ maxPayload then
      match decode payload with
      | some a => if s.linkState st = .up then inUp a (s.heard st) else inTest a (s.heard st)
      | none => s.badFrame st isTest
    else s.badFrame st isTest
  else s

end Sys2Proof.Machine
end

