-- ==== Sys2Proof/Machine/Drives.lean ====
section
/-! DEFINITION. The Drive Port (chapter 3): its work at an update, setpoint frames, position reports, and the commands
WAKE_TIMEOUT, PARK_TIMEOUT, DRIVE_SILENT, DRIVE_REPORT, ENABLE, PARK and CLEAR_FAULT. -/

namespace Sys2Proof.Machine

/-! ### The port's work at an update (R47, R50, R52, R57) -/

/-- Whether a drive state is one in which a drive is powered: WAKING, ACTIVE or PARKING. -/
def DriveState.powered (d : DriveState) : Bool :=
  match d with
  | .waking | .active | .parking => true
  | .off | .parked | .fault => false

/-- Whether the frame sent at the previous update stays unanswered by a drive that is judged for it (R52). -/
def State.unanswered (s : State) (j : Axis) : Bool :=
  match s.port.sent with
  | none => false
  | some f => (s.driveState j).powered && decide (f.entries.get j ≠ .rest) && !(f.answered.get j)

/-- Whether the silence judgement of the update under way takes a drive to FAULT (R52). -/
def State.fallsSilent (s : State) (j : Axis) : Bool :=
  s.unanswered j && decide (3 ≤ (s.port.drives.get j).silence + 1)

/-- The silence judgement of one drive (R52). -/
def State.judgeSilence (s : State) (j : Axis) : State :=
  if s.fallsSilent j then s.driveFaults j (.driveSilent j)
  else if s.unanswered j then s.modDrive j fun r => { r with silence := r.silence + 1 }
  else s

/-- The wait count at which a drive state times out (R47, R50). -/
def waitLimit (d : DriveState) : Option Nat :=
  match d with
  | .waking => some 500
  | .parking => some 200
  | .off | .active | .parked | .fault => none

/-- The wait count of one drive (R47, R50). -/
def State.countWait (s : State) (j : Axis) : State :=
  match waitLimit (s.driveState j) with
  | none => s
  | some n =>
    if n ≤ (s.port.drives.get j).wait + 1 then s.driveFaults j (.driveFault j)
    else s.modDrive j fun r => { r with wait := r.wait + 1 }

/-- Whether the last report of an ACTIVE drive lies within fe_limit of the finished whole-count setpoint (R57). -/
def State.caughtUp (s : State) (j : Axis) : Bool :=
  match (s.channels.get j).moving, s.limits j, (s.port.drives.get j).lastReport with
  | some m, some lim, some (_, pos) => decide ((pos - toCount m.p).natAbs ≤ lim.feLimit)
  | _, _, _ => false

/-- Whether the halt point is reached (R57). -/
def State.atHaltPoint (s : State) : Bool :=
  decide (s.stop.level = 2) && s.generator.standstillReported &&
    allAxes.all fun j => !decide (s.driveState j = .active) || s.caughtUp j

/-- The halt point: every ACTIVE drive becomes PARKING (R57). -/
def State.haltPoint (s : State) : State :=
  if s.atHaltPoint then
    allAxes.foldl (fun t j => if t.driveState j = .active then t.driveTo j .parking true else t) s
  else s

/-- The port's work at an update, before the frame is built: silence, waits, halt point (R41, R47, R50, R52, R57). DEDUCED:
each judgement takes the axes in ascending order and a raise acts at once, so that of two WAKING drives whose waits reach 500
at one update the lower enters FAULT and its raise ends the wake of the other, which is PARKING with a wait count of 1 (log
entry 42). -/
def State.portWork (s : State) : State :=
  (allAxes.foldl State.countWait (allAxes.foldl State.judgeSilence s)).haltPoint

/-! ### The setpoint frame (R41, R43) -/

/-- Whether the invert field of an axis reverses its signs; an axis without a limits record is taken as not inverted
(R43). -/
def State.inverted (s : State) (j : Axis) : Bool :=
  match s.limits j with
  | some lim => lim.invert
  | none => false

/-- The entry of an axis in the frame being built (R41). -/
def State.frameEntry (s : State) (j : Axis) : FrameEntry :=
  match s.driveState j with
  | .waking => .wake
  | .active =>
    match (s.channels.get j).moving with
    | some m => .run (toCount m.p)
    | none => .rest
  | .parking => .park
  | .off | .parked | .fault => .rest

/-- The bytes of an entry: its kind, and its position in the drive's sign (R43, section 10.6). -/
def entryBytes (e : FrameEntry) (invert : Bool) : List Byte :=
  match e with
  | .rest => byte 0 ++ beInt 4 0
  | .wake => byte 1 ++ beInt 4 0
  | .run c => byte 2 ++ beInt 4 (if invert then -c else c)
  | .park => byte 3 ++ beInt 4 0

/-- The setpoint frame of an update is built and sent (R41). -/
def State.sendFrame (s : State) : State :=
  let entries := Tab.ofFn s.frameEntry
  let body := s.port.nextFrame :: allAxes.flatMap fun j => entryBytes (entries.get j) (s.inverted j)
  { s with port := { s.port with
      nextFrame := s.port.nextFrame + 1
      sent := some ⟨s.port.nextFrame, entries, Tab.const 10 false⟩
      line := body ++ crc16Bytes body } }

/-! ### Position reports (R42, R43, R45, R53, R194) -/

/-- The code of a report; a code byte outside 0 to 3 is FAULT (R194). -/
def reportCode (b : Byte) : ReportCode :=
  if b = 0 then .braked else if b = 1 then .powering else if b = 2 then .ready else .fault

/-- A position report: address, frame number, code and position in the drive's sign, where its CRC-16 checks. -/
structure Report where
  address : Byte
  number : Byte
  code : ReportCode
  position : Int
  deriving DecidableEq, Repr

/-- A report read from its nine bytes (section 10.6); none where the CRC-16 does not check. -/
def reportOf (bs : List Byte) : Option Report :=
  match bs with
  | [a, n, c, p0, p1, p2, p3, k0, k1] =>
    if crc16Bytes [a, n, c, p0, p1, p2, p3] = [k0, k1] then
      some ⟨a, n, reportCode c, beSigned [p0, p1, p2, p3]⟩
    else none
  | _ => none

/-- A reported position in the part's sign (R43). -/
def reportedPosition (invert : Bool) (p : Int) : Int :=
  if invert then (if p = -2147483648 then 2147483647 else -p) else p

/-- The axis whose report is accepted (R42). -/
def State.acceptedFrom (s : State) (r : Report) : Option Axis :=
  match s.port.sent with
  | none => none
  | some f =>
    if h : r.address.toNat < 10 then
      if r.number = f.number ∧ f.answered.get ⟨r.address.toNat, h⟩ = false then some ⟨r.address.toNat, h⟩ else none
    else none

/-- An accepted report becomes the last report, answers the frame and zeroes the silence count (R42, steps 1 and 2). -/
def State.recordReport (s : State) (j : Axis) (code : ReportCode) (pos : Int) : State :=
  { s with port := { s.port with
      drives := s.port.drives.modify j fun d => { d with lastReport := some (code, pos), silence := 0 }
      sent := s.port.sent.map fun f => { f with answered := f.answered.set j true } } }

/-- The setpoint of the RUN entry that the frame sent last carried for an axis. -/
def State.runEntry (s : State) (j : Axis) : Option Int :=
  match s.port.sent with
  | none => none
  | some f =>
    match f.entries.get j with
    | .run c => some c
    | _ => none

/-- The comparison of a reported position with the RUN setpoint it answers (R53). -/
def State.compareReport (s : State) (j : Axis) (pos : Int) : State :=
  match s.runEntry j, s.limits j with
  | some c, some lim =>
    if s.driveState j = .active then
      if lim.feLimit < (pos - c).natAbs then
        if (s.port.drives.get j).followingError then s
        else (s.modDrive j fun d => { d with followingError := true }).raise (.followingError j) 2
      else s.modDrive j fun d => { d with followingError := false }
    else s
  | _, _ => s

/-- A READY report wakes a drive: the record is ACTIVE, the channel takes the reported position, the command is VEL 0, and
a motion axis is tested for occupancy (R22, R48, R94). -/
def State.wakeDrive (s : State) (j : Axis) (pos : Int) : State :=
  let t := ((s.modDrive j fun d => { d with state := .active, wait := 0, followingError := false }).modChannel j
    fun c => c.wake (s.mode j) pos).modAuth j fun a => { a with command := .vel 0 }
  match motionOf j with
  | some m => t.testWoken m
  | none => t

/-- What a report does to the drive record, by its code and the record's state at arrival (R45). -/
def State.reportActs (s : State) (j : Axis) (arrival : DriveState) (code : ReportCode) (pos : Int) : State :=
  match arrival, code with
  | .waking, .ready => s.wakeDrive j pos
  | .waking, .fault => s.driveFaults j (.driveFault j)
  | .active, .braked => s.driveFaults j (.driveFault j)
  | .active, .powering => s.driveFaults j (.driveFault j)
  | .active, .fault => s.driveFaults j (.driveFault j)
  | .parking, .braked => s.driveTo j .parked false
  | .parking, .fault => s.driveFaults j (.driveFault j)
  | .parked, .fault => s.driveFaults j (.driveFault j)
  | _, _ => s

/-- A report taken at its arrival, where it is accepted; any other is dropped (R42). -/
def State.takeReport (s : State) (bs : List Byte) : State :=
  match reportOf bs with
  | none => s
  | some r =>
    match s.acceptedFrom r with
    | none => s
    | some j =>
      let pos := reportedPosition (s.inverted j) r.position
      ((s.recordReport j r.code pos).compareReport j pos).reportActs j (s.driveState j) r.code pos

/-! ### Requests over sets of axes -/

/-- Whether the requester lacks the group right of an axis of a carried set (R62). -/
def State.lacksGroup (s : State) (st : Station) (w : BitVec 16) : Bool :=
  (axesOf (w.setWidth 10)).any fun j => !s.holds st (groupRight j)

/-- Whether a carried set is empty or names an axis outside 0 to 9. -/
def badSet (w : BitVec 16) : Bool := decide (w = 0) || decide (1024 ≤ w.toNat)

/-- ENABLE is refused (R46). -/
def State.enableVerdict (s : State) (st : Station) (w : BitVec 16) : Option Answer :=
  if s.lacksGroup st w then refuse .noRight
  else if badSet w then refuse .badArg
  else if 0 < s.stop.level then refuse .stopped
  else if (axesOf (w.setWidth 10)).any fun j => decide ((s.channels.get j).commissioning ≠ .ready) then refuse .notReady
  else if (axesOf (w.setWidth 10)).any fun j => !decide (s.driveState j = .off ∨ s.driveState j = .parked) then
    refuse .state
  else none

/-- The drive records of a set of axes take a state, with their counts 0 and the following-error flag clear (R46, R51). -/
def State.setDrives (s : State) (axes : AxisSet) (st : DriveState) : State :=
  let f (j : Axis) (d : Drive) : Drive :=
    if axes.getLsbD j.val then { d with state := st, silence := 0, wait := 0, followingError := false } else d
  { s with port := { s.port with drives := s.port.drives.imap f } }

/-- ENABLE is taken (R46). -/
def State.enableTaken (s : State) (w : BitVec 16) : State := s.setDrives (w.setWidth 10) .waking

/-- The finished velocity of an axis at the latest update is other than 0 (R49). -/
def State.moves (s : State) (j : Axis) : Bool :=
  match (s.channels.get j).moving with
  | some m => decide (m.v ≠ 0)
  | none => false

/-- PARK is refused (R49). -/
def State.parkVerdict (s : State) (st : Station) (w : BitVec 16) : Option Answer :=
  if s.lacksGroup st w then refuse .noRight
  else if badSet w then refuse .badArg
  else if (axesOf (w.setWidth 10)).any fun j =>
      decide (s.driveState j ≠ .active) || s.moves j || (s.mode j).underTake then refuse .state
  else none

/-- PARK is taken (R49). -/
def State.parkTaken (s : State) (w : BitVec 16) : State :=
  (axesOf (w.setWidth 10)).foldl (fun t j => t.driveTo j .parking true) s

/-- Whether the last report of a drive is present and has the code FAULT (R51). -/
def State.reportsFault (s : State) (j : Axis) : Bool :=
  match (s.port.drives.get j).lastReport with
  | some (.fault, _) => true
  | _ => false

/-- CLEAR_FAULT is refused (R51). -/
def State.clearFaultVerdict (s : State) (st : Station) (w : BitVec 16) : Option Answer :=
  if s.lacksGroup st w then refuse .noRight
  else if badSet w then refuse .badArg
  else if (axesOf (w.setWidth 10)).any fun j => decide (s.driveState j ≠ .fault) then refuse .state
  else if (axesOf (w.setWidth 10)).any s.reportsFault then refuse .condition
  else none

/-- CLEAR_FAULT is taken (R51). -/
def State.clearFaultTaken (s : State) (w : BitVec 16) : State := s.setDrives (w.setWidth 10) .parked

/-! ### The commands -/

/-- Whether the silence judgement of the update under way takes a drive out of the state its wait is counted in: it takes
the drive itself to FAULT, or the DRIVE_SILENT of another drive ends the wake (R52, R55). -/
def State.silenceFirst (s : State) (j : Axis) (d : DriveState) : Bool :=
  s.fallsSilent j || (decide (d = .waking) && allAxes.any s.fallsSilent)

/-- A wait count that the update under way brings to its limit, in one drive state (R47, R50; log entry 2). The silence
judgement of that update comes first (R52). -/
def State.waitRunsOut (s : State) (j : Axis) (d : DriveState) : State :=
  if s.driveState j = d ∧ s.silenceFirst j d = false then
    match waitLimit d with
    | some n => if n ≤ (s.port.drives.get j).wait + 1 then s.driveFaults j (.driveFault j) else s
    | none => s
  else s

/-- WAKE_TIMEOUT (R47): the wait count of a WAKING drive reaches 500. -/
def execWakeTimeout (j : Axis) (s : State) : Host.Outcome State Fault Refusal :=
  awake s fun t => t.waitRunsOut j .waking

/-- PARK_TIMEOUT (R50): the wait count of a PARKING drive reaches 200. -/
def execParkTimeout (j : Axis) (s : State) : Host.Outcome State Fault Refusal :=
  awake s fun t => t.waitRunsOut j .parking

/-- DRIVE_SILENT (R52): the silence count of a drive reaches 3. -/
def execDriveSilent (j : Axis) (s : State) : Host.Outcome State Fault Refusal :=
  awake s fun t =>
    if t.fallsSilent j then t.driveFaults j (.driveSilent j) else t

/-- DRIVE_REPORT (R42, R43, R45, R48, R53, R54, R194): the nine bytes of a position report. -/
def execDriveReport (bytes : List Byte) (s : State) : Host.Outcome State Fault Refusal :=
  awake s fun t => t.takeReport bytes

/-- ENABLE (R46). -/
def execEnable (st : Station) (tag : Byte) (payload : List Byte) (s : State) : Host.Outcome State Fault Refusal :=
  request st tag 10 payload axisSetArg (fun w t => judged (t.enableVerdict st w) t (t.enableTaken w) []) s

/-- PARK (R49). -/
def execPark (st : Station) (tag : Byte) (payload : List Byte) (s : State) : Host.Outcome State Fault Refusal :=
  request st tag 11 payload axisSetArg (fun w t => judged (t.parkVerdict st w) t (t.parkTaken w) []) s

/-- CLEAR_FAULT (R51). -/
def execClearFault (st : Station) (tag : Byte) (payload : List Byte) (s : State) : Host.Outcome State Fault Refusal :=
  request st tag 12 payload axisSetArg (fun w t => judged (t.clearFaultVerdict st w) t (t.clearFaultTaken w) []) s

end Sys2Proof.Machine
end

