-- ==== Sys2Proof/Machine/Authority.lean ====
section
/-! DEFINITION. The Authority Table (chapter 4): claims, releases, MOVE and TRIM frames, freshness, the station table and
trim stations. Commands STALE_MARK, STATION_LOST, MOVE, TRIM, CLAIM, RELEASE, TRIM_ATTACH, TRIM_DETACH, STATION_TABLE. -/

namespace Sys2Proof.Machine

/-! ### Claiming and releasing (R66, R67, R68) -/

/-- Whether an axis fails the HELD_BY check of a claim (R66). -/
def State.heldAgainst (s : State) (st : Station) (takeover : Bool) (j : Axis) : Bool :=
  match (s.auth.get j).owner with
  | none => false
  | some o =>
    decide (o ≠ st) &&
      !(takeover && decide ((s.stations.get o).rank < (s.stations.get st).rank) && decide (s.mode j = .manual))

/-- The detail of a HELD_BY refusal: the axis and the holding station (section 10.6). -/
def heldByDetail (j : Axis) (o : Option Station) : List Byte := byte j.val ++ optBytes 1 (o.map fun x => x.val)

/-- CLAIM is refused (R66). -/
def State.claimVerdict (s : State) (st : Station) (w : BitVec 16) (takeover : Bool) : Option Answer :=
  if s.lacksGroup st w then refuse .noRight
  else if badSet w then refuse .badArg
  else if (axesOf (w.setWidth 10)).any fun j => (s.mode j).underTake then refuse .state
  else
    match (axesOf (w.setWidth 10)).find? (s.heldAgainst st takeover) with
    | some j => some ⟨.heldBy, heldByDetail j (s.auth.get j).owner⟩
    | none => none

/-- The set of the axes for which a test holds. -/
def setOf (f : Axis → Bool) : AxisSet :=
  allAxes.foldl (fun a j => if f j then a ||| (1 <<< j.val) else a) 0

/-- The axes of a set that a station owns. -/
def State.ownedIn (s : State) (axes : AxisSet) (o : Station) : AxisSet :=
  setOf fun j => axes.getLsbD j.val && decide ((s.auth.get j).owner = some o)

/-- LOST_AXES posted to each station other than the requester that owned an axis of the set (R67). `before` is the state
before the claim. -/
def State.postLost (s before : State) (st : Station) (axes : AxisSet) : State :=
  allStations.foldl (fun t o =>
    if o ≠ st ∧ before.ownedIn axes o ≠ 0 then
      t.post o fun n => { n with lostAxes := some (before.ownedIn axes o, st) }
    else t) s

/-- The axes of a set become MANUAL under a station with command VEL 0 and stale no (R67). -/
def State.giveAxes (s : State) (st : Station) (axes : AxisSet) : State :=
  { s with
    auth := s.auth.imap fun j a =>
      if axes.getLsbD j.val then { AuthEntry.idle with owner := some st, mode := .manual } else a
    channels := s.channels.imap fun j c => if axes.getLsbD j.val then c.zeroTarget else c
    stations := s.stations.modify st fun r => { r with lastMove := 0 } }

/-- CLAIM is taken (R67). -/
def State.claimTaken (s : State) (st : Station) (axes : AxisSet) : State := (s.giveAxes st axes).postLost s st axes

/-- RELEASE is refused (R68). -/
def State.releaseVerdict (s : State) (st : Station) (w : BitVec 16) : Option Answer :=
  if badSet w then refuse .badArg
  else if (axesOf (w.setWidth 10)).any fun j => (s.mode j).underTake then refuse .state
  else if (axesOf (w.setWidth 10)).any fun j => decide ((s.auth.get j).owner ≠ some st) then refuse .notOwner
  else none

/-- RELEASE is taken (R68). -/
def State.releaseTaken (s : State) (axes : AxisSet) : State :=
  { s with
    auth := s.auth.imap fun j a => if axes.getLsbD j.val then AuthEntry.idle else a
    channels := s.channels.imap fun j c => if axes.getLsbD j.val then c.zeroTarget else c }

/-! ### MOVE frames (R5, R37, R69 to R71) -/

/-- The target a MOVE entry sets in the channel of an ACTIVE axis (R5, R37, R71): `mp` is the valid map of a lens axis. A
user value for an axis without a valid map keeps the previous target. -/
def targetOf (m : Moving) (lim : Option Limits) (mp : Option MapPoints) (cmd : Command) : Target :=
  match cmd with
  | .vel n => .velocity n
  | .pos c => .position (clampTarget lim (ofCount c)) none
  | .user u =>
    match mp with
    | some x => .position (clampTarget lim (ofCount (x.forward u))) (some u)
    | none => m.target
  | .delta d =>
    match m.target with
    | .position t _ => .position (clampTarget lim (t + ofCount d)) none
    | _ => .position (clampTarget lim (m.p + ofCount d)) none

/-- The valid map of an axis, none for a motion axis. -/
def State.mapFor (s : State) (j : Axis) : Option MapPoints :=
  match lensOf j with
  | some l => (s.maps.get l).map
  | none => none

/-- Whether an entry names a user value for an axis 0 to 6, which is ignored (R71). -/
def Command.misplaced (cmd : Command) (j : Axis) : Bool :=
  match cmd with
  | .user _ => decide (j.val < 7)
  | _ => false

/-- One MOVE entry applied, or ignored (R70). -/
def State.applyEntry (s : State) (st : Station) (j : Axis) (cmd : Command) : State :=
  if (s.auth.get j).owner = some st ∧ s.mode j = .manual ∧ cmd.misplaced j = false then
    (s.modAuth j fun a => { a with command := cmd }).modChannel j fun c =>
      { c with moving := c.moving.map fun m => { m with target := targetOf m c.limits (s.mapFor j) cmd } }
  else s

/-- The signs of life of a MOVE frame (R69): the last-MOVE count 0, the stale marks of the station's MANUAL axes
cleared. -/
def State.freshen (s : State) (st : Station) : State :=
  { s with
    stations := s.stations.modify st fun r => { r with lastMove := 0 }
    auth := s.auth.map fun a => if a.owner = some st ∧ a.mode = .manual then { a with stale := false } else a }

/-- A MOVE frame taken by the Authority Table (R69, R70). -/
def State.takeMove (s : State) (st : Station) (entries : List (Axis × Command)) : State :=
  entries.foldl (fun t e => t.applyEntry st e.1 e.2) (s.freshen st)

/-! ### TRIM frames and trim stations (R77 to R79) -/

/-- One TRIM entry applied, or ignored (R79). -/
def State.applyTrim (s : State) (st : Station) (e : Nat × Int) : State :=
  if h : e.1 < 10 then
    if (s.auth.get ⟨e.1, h⟩).trimStation = some st then
      match s.limits ⟨e.1, h⟩ with
      | some lim =>
        s.modChannel ⟨e.1, h⟩ fun c => { c with trimDemand := clamp (-(lim.trimRange : Int)) lim.trimRange e.2 }
      | none => s
    else s
  else s

/-- A TRIM frame taken by the Authority Table (R79): entries in order, so that the last one naming an axis is the one that
stands. -/
def State.takeTrim (s : State) (st : Station) (entries : List (Nat × Int)) : State :=
  entries.foldl (fun t e => t.applyTrim st e) s

/-- The trim step of an axis, 0 without a limits record. -/
def State.trimStep (s : State) (j : Axis) : Nat :=
  match s.limits j with
  | some lim => lim.trimStep
  | none => 0

/-- TRIM_ATTACH judged and taken (R77). -/
def State.trimAttach (s : State) (st : Station) (n : Nat) : State × Answer :=
  if s.holds st .trim = false then (s, ⟨.noRight, []⟩)
  else if h : n < 10 then
    if (s.mode ⟨n, h⟩).underTake = false ∨ s.trimStep ⟨n, h⟩ = 0 then (s, ⟨.state, []⟩)
    else
      match (s.auth.get ⟨n, h⟩).trimStation with
      | some o =>
        if o = st then (s, ⟨.ok, []⟩) else (s, ⟨.heldBy, heldByDetail ⟨n, h⟩ (some o)⟩)
      | none => (s.modAuth ⟨n, h⟩ fun a => { a with trimStation := some st }, ⟨.ok, []⟩)
  else (s, ⟨.badArg, []⟩)

/-- TRIM_DETACH judged and taken (R78). -/
def State.trimDetach (s : State) (st : Station) (n : Nat) : State × Answer :=
  if h : n < 10 then
    match (s.auth.get ⟨n, h⟩).trimStation with
    | none => (s, ⟨.notOwner, []⟩)
    | some o =>
      if o = st ∨ (s.auth.get ⟨n, h⟩).owner = some st then
        (s.modAuth ⟨n, h⟩ fun a => { a with trimStation := none }, ⟨.ok, []⟩)
      else (s, ⟨.notOwner, []⟩)
  else (s, ⟨.badArg, []⟩)

/-! ### The station table (R63) -/

/-- Whether four ranks are 1, 2, 3 and 4 in some order. -/
def ranksValid (t : Tab 4 (Nat × Rights)) : Bool :=
  [1, 2, 3, 4].all fun k => allStations.any fun st => decide ((t.get st).1 = k)

/-- Whether some port holds CONFIG. -/
def someConfig (t : Tab 4 (Nat × Rights)) : Bool := allStations.any fun st => hasRight (t.get st).2 .config

/-- STATION_TABLE is refused (R63). -/
def State.stationTableVerdict (s : State) (st : Station) (t : Tab 4 (Nat × Rights)) : Option Answer :=
  if s.holds st .config = false then refuse .noRight
  else if ranksValid t = false ∨ someConfig t = false then refuse .badArg
  else none

/-- STATION_TABLE is taken (R63). -/
def State.stationTableTaken (s : State) (t : Tab 4 (Nat × Rights)) : State :=
  { s with stations := s.stations.imap fun st r => { r with rank := (t.get st).1, rights := (t.get st).2 } }

/-! ### Freshness (R72, R73) -/

/-- The axes of a station are marked stale (R72): every MANUAL axis it owns whose mark is clear, with command VEL 0. -/
def State.markStale (s : State) (st : Station) : State :=
  { s with
    auth := s.auth.map fun a =>
      if a.owner = some st ∧ a.mode = .manual ∧ a.stale = false then { a with stale := true, command := .vel 0 } else a
    channels := s.channels.imap fun j c =>
      if (s.auth.get j).owner = some st ∧ (s.auth.get j).mode = .manual ∧ (s.auth.get j).stale = false then c.zeroTarget
      else c }

/-- The last-MOVE count of a station at an update (R72). -/
def State.countMove (s : State) (st : Station) : State :=
  if s.linkState st = .up then
    let t := s.modStation st fun r => { r with lastMove := min 20 (r.lastMove + 1) }
    if 20 ≤ (s.stations.get st).lastMove + 1 then t.markStale st else t
  else s

/-- The last-frame count of a station at an update (R73). -/
def State.countFrame (s : State) (st : Station) : State :=
  if s.linkState st = .up ∨ s.linkState st = .test then
    let t := s.modStation st fun r => { r with lastFrame := min 250 (r.lastFrame + 1) }
    if 250 ≤ (s.stations.get st).lastFrame + 1 then t.stationDown st else t
  else s

/-! ### The commands -/

/-- STALE_MARK (R72): the last-MOVE count of a station stands at 20, or the update under way brings it there (log
entry 2). -/
def execStaleMark (st : Station) (s : State) : Host.Outcome State Fault Refusal :=
  awake s fun t =>
    if t.linkState st = .up ∧ 20 ≤ (t.stations.get st).lastMove + 1 then
      (t.modStation st fun r => { r with lastMove := 20 }).markStale st
    else t

/-- STATION_LOST (R73, R74, R75): the last-frame count of a station reaches 250. -/
def execStationLost (st : Station) (s : State) : Host.Outcome State Fault Refusal :=
  awake s fun t =>
    if (t.linkState st = .up ∨ t.linkState st = .test) ∧ 250 ≤ (t.stations.get st).lastFrame + 1 then
      (t.modStation st fun r => { r with lastFrame := 250 }).stationDown st
    else t

/-- MOVE (R5, R69, R70, R71, R192). -/
def execMove (st : Station) (payload : List Byte) (s : State) : Host.Outcome State Fault Refusal :=
  awake s fun t => t.onStream st payload movePayload false (fun es u => u.takeMove st es) fun _ u => u

/-- TRIM (R79, R192). -/
def execTrim (st : Station) (payload : List Byte) (s : State) : Host.Outcome State Fault Refusal :=
  awake s fun t => t.onStream st payload trimPayload false (fun es u => u.takeTrim st es) fun _ u => u

/-- CLAIM (R66, R67). -/
def execClaim (st : Station) (tag : Byte) (payload : List Byte) (s : State) : Host.Outcome State Fault Refusal :=
  request st tag 1 payload claimArgs
    (fun a t => judged (t.claimVerdict st a.1 a.2) t (t.claimTaken st (a.1.setWidth 10)) []) s

/-- RELEASE (R68). -/
def execRelease (st : Station) (tag : Byte) (payload : List Byte) (s : State) : Host.Outcome State Fault Refusal :=
  request st tag 2 payload axisSetArg
    (fun w t => judged (t.releaseVerdict st w) t (t.releaseTaken (w.setWidth 10)) []) s

/-- TRIM_ATTACH (R77). -/
def execTrimAttach (st : Station) (tag : Byte) (payload : List Byte) (s : State) : Host.Outcome State Fault Refusal :=
  request st tag 3 payload oneByte (fun n t => t.trimAttach st n) s

/-- TRIM_DETACH (R78). -/
def execTrimDetach (st : Station) (tag : Byte) (payload : List Byte) (s : State) : Host.Outcome State Fault Refusal :=
  request st tag 4 payload oneByte (fun n t => t.trimDetach st n) s

/-- STATION_TABLE (R63). -/
def execStationTable (st : Station) (tag : Byte) (payload : List Byte) (s : State) : Host.Outcome State Fault Refusal :=
  request st tag 5 payload stationTableArgs
    (fun a t => judged (t.stationTableVerdict st a) t (t.stationTableTaken a) []) s

end Sys2Proof.Machine
end

