-- ==== Sys2Proof/Config.lean ====
section
/-! DEFINITION. The values the manual leaves open: constants with no body, so that nothing can be proved of them. -/

namespace Sys2Proof.Config

/-- How many bytes of the sector it was in a flash write had written when it was abandoned (R146, R201), for each value
of the state's counter. Any number: log entry 8. -/
opaque flashProgress : Nat → Nat

/-- Whether a header's protect byte other than 0 and 1 loads as set (R163, R164): log entry 10. -/
opaque oddProtect : Byte → Bool

/-- Whether a header's origin-kind byte other than 0 and 1 loads as LAYER (R163, R164): log entry 10. -/
opaque oddOriginIsLayer : Byte → Bool

/-- Which of value (0), MIXED (1) and absent (2) a header's lens status byte above 2 loads as (R163, R164): log
entry 10. -/
opaque oddLensStatus : Byte → Fin 3

end Sys2Proof.Config
end

