-- ==== Sys2Proof/Machine/Images.lean ====
section
/-! DEFINITION. The take archive image (08, section 8.5; section 10.6) and the configuration image (11, section 11.2): what
is written, and how it is read back and judged. -/

namespace Sys2Proof.Machine

/-- The bytes of a layout at a place. -/
def slice (bs : List Byte) (at' n : Nat) : List Byte := (bs.drop at').take n

/-- The number a layout carries at a place, 0 past its end. -/
def natAt (bs : List Byte) (at' n : Nat) : Nat := beNat (slice bs at' n)

/-- The byte of a layout at a place, 0 past its end. -/
def byteAt (bs : List Byte) (at' : Nat) : Byte := bs.getD at' 0

/-! ### The take archive image -/

/-- The places of close reasons in their list (section 8.2, R193). -/
def CloseReason.code (r : CloseReason) : Nat :=
  match r with
  | .stopped => 0
  | .interrupted => 1
  | .full => 2
  | .loaded => 3

/-- A lens generation as a status byte (0 value, 1 MIXED, 2 absent) and a value in 2 bytes (section 10.6), all ones where
the status is not 0 (log entry 35). -/
def lensGenBytes (g : Option LensGen) : List Byte :=
  match g with
  | some (.value v) => byte 0 ++ beBytes 2 v
  | some .mixed => byte 1 ++ ones 2
  | none => byte 2 ++ ones 2

/-- An origin as its kind, slot and elapsed count. DESIGN CHOICE: for MANUAL the slot and the elapsed count are absent, all
ones (R193), and not unused bytes at 0 (section 8.5; log entry 43). -/
def originBytes (o : Origin) : List Byte :=
  match o with
  | .manual => byte 0 ++ ones 1 ++ ones 4
  | .layer slot e => byte 1 ++ [slot] ++ beBytes 4 e

/-- The envelope of an axis in 5 bytes a value (section 10.6). -/
def envelopeBytes (e : Envelope) : List Byte :=
  beInt 5 e.minimum ++ beInt 5 e.maximum ++ beBytes 5 e.velocity ++ beBytes 5 e.stepChange

/-- A set of axes in 2 bytes (R193). -/
def axisSetBytes (a : AxisSet) : List Byte := beBytes 2 a.toNat

/-- What a take without a sample holds in its place in a layout: zeros. -/
def TakeData.blank : TakeData := ⟨Tab.const 10 0, Tab.const 10 ⟨0, 0, 0, 0⟩, Tab.const 3 none, 0⟩

/-- The header of an archive image (section 10.6): 512 bytes. -/
def headerBytes (t : Take) (reason : CloseReason) : List Byte :=
  let d := t.data.getD TakeData.blank
  [0xA5, 0x41, 0x72, 0x10] ++ t.label.list ++ axisSetBytes t.axes ++ byte t.divisor ++ beBytes 4 t.count ++
    flagByte t.isProtected ++ byte reason.code ++ originBytes t.origin ++ beBytes 5 d.recordedAt.toNat ++
    (allLenses.flatMap fun l => lensGenBytes (d.lens.get l)) ++
    (allAxes.flatMap fun j => if t.axes.getLsbD j.val then beInt 5 (d.first.get j) else List.replicate 5 0) ++
    (allAxes.flatMap fun j =>
      if t.axes.getLsbD j.val then envelopeBytes (d.envelope.get j) else List.replicate 20 0) ++
    List.replicate 221 0

/-- The samples of an archive image: every sample in order, its values in ascending order of axis, 5 bytes each. -/
def sampleBytes (ts : TakeStore) (t : Take) : List Byte :=
  (List.range t.count).flatMap fun q => (axesOf t.axes).flatMap fun j => beInt 5 (ts.sample t q j)

/-- The archive image of a CLOSED take (R160): header, samples, end record, without gaps. -/
def archiveImage (ts : TakeStore) (t : Take) (reason : CloseReason) : List Byte :=
  let body := headerBytes t reason ++ sampleBytes ts t
  body ++ endRecord body

/-- The sectors an image of `n` bytes needs (R160). -/
def sectorsFor (n : Nat) : Nat := (n + 4095) / 4096

/-- A lens generation read from a header; a status byte above 2 is unstated (log entry 10). -/
def lensGenAt (bs : List Byte) (at' : Nat) : Option LensGen :=
  let status := byteAt bs at'
  let k := if status.toNat ≤ 2 then status.toNat else (Config.oddLensStatus status).val
  if k = 0 then some (.value (natAt bs (at' + 1) 2)) else if k = 1 then some .mixed else none

/-- The envelope of an axis read from a header. -/
def envelopeAt (bs : List Byte) (at' : Nat) : Envelope :=
  ⟨beSigned (slice bs at' 5), beSigned (slice bs (at' + 5) 5), natAt bs (at' + 10) 5, natAt bs (at' + 15) 5⟩

/-- The most samples the store can hold for `k` axes (R144). -/
def storeCapacity (k : Nat) : Nat := perBlock k * 8192

/-- Whether a header is valid (R163): marker, axis set, divisor, close reason and sample count. DESIGN CHOICE: an axis set
with a bit above bit 9 is no set of axes (R193), so its header is not valid, also beside a bit of an axis (log entry 46). -/
def headerValid (bs : List Byte) : Bool :=
  decide (slice bs 0 4 = [0xA5, 0x41, 0x72, 0x10]) &&
    decide (natAt bs 12 2 ≠ 0) && decide (natAt bs 12 2 < 1024) &&
    decide (natAt bs 14 1 ∈ [1, 2, 4, 8]) && decide (natAt bs 20 1 ≤ 3) &&
    decide (2 ≤ natAt bs 15 4) &&
    decide (natAt bs 15 4 ≤ storeCapacity (setSize (BitVec.ofNat 10 (natAt bs 12 2))))

/-- The protect flag of a header; a byte other than 0 and 1 is unstated (log entry 10). -/
def protectAt (b : Byte) : Bool := (flagOf b).getD (Config.oddProtect b)

/-- The origin of a header; a kind byte other than 0 and 1 is unstated (log entry 10). -/
def originAt (bs : List Byte) : Origin :=
  if (flagOf (byteAt bs 21)).getD (Config.oddOriginIsLayer (byteAt bs 21)) then .layer (byteAt bs 22) (natAt bs 23 4)
  else .manual

/-- The fields of a header (R164, section 10.6). A take keeps lens generations for the lens axes of its set alone (section
8.2), so a status for another lens axis is dropped, and an absent one for an axis of the set stays absent (log entry 37). -/
def headerOf (bs : List Byte) : TakeHeader where
  label := ⟨[byteAt bs 4, byteAt bs 5, byteAt bs 6, byteAt bs 7, byteAt bs 8, byteAt bs 9, byteAt bs 10, byteAt bs 11],
    rfl⟩
  axes := BitVec.ofNat 10 (natAt bs 12 2)
  divisor := natAt bs 14 1
  count := natAt bs 15 4
  isProtected := protectAt (byteAt bs 19)
  origin := originAt bs
  data :=
    { first := Tab.ofFn fun j => beSigned (slice bs (41 + 5 * j.val) 5)
      envelope := Tab.ofFn fun j => envelopeAt bs (91 + 20 * j.val)
      lens := Tab.ofFn fun l =>
        if (BitVec.ofNat 10 (natAt bs 12 2)).getLsbD (lensAxis l).val then lensGenAt bs (32 + 3 * l.val) else none
      recordedAt := BitVec.ofNat 40 (natAt bs 27 5) }

/-- The values of one sample read from its bytes: those of the axes of the set in ascending order, 0 for the others. -/
def sampleOf (axes : AxisSet) (bs : List Byte) : Tab 10 Int :=
  Tab.ofFn fun j => if axes.getLsbD j.val then beSigned (slice bs (5 * rankIn axes j) 5) else 0

/-! ### The configuration image -/

/-- The settings a configuration image holds (section 11.2). -/
structure ConfigImage where
  stations : Tab 4 (Nat × Rights)
  limits : Tab 10 (Option Limits)
  maps : Tab 3 LensMap
  setTable : Tab 8 ZoneEntry
  crewTable : Tab 8 ZoneEntry
  debounce : Nat
  sync : SyncSettings
  cueOffset : Nat
  goLead : Nat
  deriving DecidableEq, Repr

/-- The settings in force that a configuration image is built from (R200). -/
def State.config (s : State) : ConfigImage where
  stations := s.stations.map fun r => (r.rank, r.rights)
  limits := s.channels.map fun c => c.limits
  maps := s.maps
  setTable := s.zones.setTable.map fun z => z.entry
  crewTable := s.zones.crewTable.map fun z => z.entry
  debounce := s.zones.debounce
  sync := s.time.settings
  cueOffset := s.play.cueOffset
  goLead := s.play.goLead

/-- A limits record in the 30-byte form of its LOAD_LIMITS arguments (section 10.6). -/
def limitsBytes (r : Limits) : List Byte :=
  beInt 4 r.low ++ beInt 4 r.high ++ beBytes 3 r.vmax ++ beBytes 3 r.aAccel ++ beBytes 3 r.aStop ++
    beBytes 4 r.feLimit ++ byte r.lead ++ flagByte r.invert ++ byte r.seekPercent ++ beBytes 2 r.trimStep ++
    beBytes 4 r.trimRange

/-- A stored limits record behind its byte, or zeros (section 11.2). -/
def storedLimitsBytes (r : Option Limits) : List Byte :=
  match r with
  | some r => byte 1 ++ limitsBytes r
  | none => List.replicate 31 0

/-- A point of a map: user value in 3 bytes, count in 4. -/
def pointBytes (q : Nat × Int) : List Byte := beBytes 3 q.1 ++ beInt 4 q.2

/-- A map record of the image (section 11.2): direction and point count are absent for a map that is not valid, and
unused points are 0. -/
def mapBytes (m : LensMap) : List Byte :=
  match m.map with
  | some x =>
    byte 1 ++ byte (if x.rising then 0 else 1) ++ beBytes 2 m.generation ++ byte x.points.length ++
      x.points.flatMap pointBytes ++ List.replicate (7 * (24 - x.points.length)) 0
  | none => byte 0 ++ ones 1 ++ beBytes 2 m.generation ++ ones 1 ++ List.replicate 168 0

/-- The number of a zone kind (R193). -/
def ZoneKind.code (k : ZoneKind) : Nat :=
  match k with
  | .hard => 0
  | .slow => 1

/-- The number of a mode match (R193). -/
def ModeMatch.code (m : ModeMatch) : Nat :=
  match m with
  | .manual => 0
  | .playback => 1
  | .both => 2

/-- A range in the form of ZONE_RANGE; the ends of ANY are absent (section 10.6, section 11.2). -/
def rangeBytes (r : Option (Int × Int)) : List Byte :=
  match r with
  | some (lo, hi) => byte 0 ++ beInt 4 lo ++ beInt 4 hi
  | none => byte 1 ++ ones 8

/-- A zone entry of the image: 68 bytes (section 11.2). DESIGN CHOICE: the mask byte of a SET entry is that of an empty set,
0, and not the all ones of an absent value (log entry 47). -/
def zoneBytes (e : ZoneEntry) : List Byte :=
  flagByte e.enabled ++ byte e.kind.code ++ byte e.cap ++ byte e.modeMatch.code ++ [e.mask] ++
    e.ranges.list.flatMap rangeBytes

/-- The number of a sync mode (R193). -/
def SyncMode.code (m : SyncMode) : Nat :=
  match m with
  | .free => 0
  | .adopt => 1
  | .check => 2

/-- The number of a counter mode (R193). -/
def CounterMode.code (m : CounterMode) : Nat :=
  match m with
  | .accumulate => 0
  | .rate => 1

/-- The six sync settings: 10 bytes (section 11.2). -/
def syncBytes (x : SyncSettings) : List Byte :=
  byte x.mode.code ++ beBytes 2 x.offset ++ beBytes 2 x.tolerance ++ byte x.counter.code ++ beBytes 2 x.period ++
    beBytes 2 x.threshold

/-- The header and body of a configuration image: 1,955 bytes (section 11.2). -/
def configBody (c : ConfigImage) : List Byte :=
  [0xC0, 0x4E, 0x19, 0x3A] ++ beBytes 2 1955 ++ [0, 0] ++
    (c.stations.list.flatMap fun x => byte x.1 ++ beBytes 2 x.2.toNat) ++
    c.limits.list.flatMap storedLimitsBytes ++ c.maps.list.flatMap mapBytes ++
    c.setTable.list.flatMap zoneBytes ++ c.crewTable.list.flatMap zoneBytes ++
    beBytes 2 c.debounce ++ syncBytes c.sync ++ beBytes 3 c.cueOffset ++ beBytes 3 c.goLead

/-- A configuration image: body and end record, 1,963 bytes (section 11.2). -/
def configBytes (c : ConfigImage) : List Byte := configBody c ++ endRecord (configBody c)

/-- The length of a configuration image. -/
def configLength : Nat := 1963

/-- Whether an image of 1,963 bytes carries its end marker in place and a CRC-32 that matches (R201, R202). -/
def endMatches (bs : List Byte) : Bool :=
  decide (bs.length = configLength) && decide (slice bs 1955 8 = endRecord (slice bs 0 1955))

/-- All entries read, or none where one of them isn't. -/
def allSome {n : Nat} {α : Type} (t : Tab n (Option α)) : Option (Tab n α) :=
  if h : (t.list.filterMap id).length = n then some ⟨t.list.filterMap id, h⟩ else none

/-- Rank and rights of a station in the image; the rights have no bit above bit 8. -/
def stationAt (bs : List Byte) (st : Station) : Option (Nat × Rights) :=
  (rightsOf (byteAt bs (9 + 3 * st.val)) (byteAt bs (10 + 3 * st.val))).map fun r => (natAt bs (8 + 3 * st.val) 1, r)

/-- The stored limits record of an axis in the image, which must pass R2 (R202). The outer option is an image that is not
valid. -/
def limitsAt (bs : List Byte) (j : Axis) : Option (Option Limits) :=
  let at' := 20 + 31 * j.val
  match flagOf (byteAt bs at') with
  | some false => some none
  | some true =>
    match limitsOf (slice bs (at' + 1) 30) with
    | some r => if validLimits j r then some (some r) else none
    | none => none
  | none => none

/-- The points of a map record in the image. -/
def pointsAt (bs : List Byte) (at' n : Nat) : List (Nat × Int) :=
  (List.range n).map fun i => (natAt bs (at' + 7 * i) 3, beSigned (slice bs (at' + 7 * i + 3) 4))

/-- A map record of the image against the stored limits record of its axis (R202): a map marked valid passes R29 with the
direction the image gives. -/
def mapAt (bs : List Byte) (l : Lens) (lim : Option Limits) : Option LensMap :=
  let at' := 330 + 173 * l.val
  match flagOf (byteAt bs at') with
  | some false => some ⟨none, natAt bs (at' + 2) 2⟩
  | some true =>
    match lim, flagOf (byteAt bs (at' + 1)) with
    | some r, some falling =>
      if validMapIn l r (!falling) (pointsAt bs (at' + 5) (natAt bs (at' + 4) 1)) then
        some ⟨some ⟨pointsAt bs (at' + 5) (natAt bs (at' + 4) 1), !falling⟩, natAt bs (at' + 2) 2⟩
      else none
    | _, _ => none
  | none => none

/-- A zone kind by its number. -/
def zoneKindOf (n : Nat) : Option ZoneKind := if n = 0 then some .hard else if n = 1 then some .slow else none

/-- A mode match by its number. -/
def modeMatchOf (n : Nat) : Option ModeMatch :=
  if n = 0 then some .manual else if n = 1 then some .playback else if n = 2 then some .both else none

/-- A sync mode by its number. -/
def syncModeOf (n : Nat) : Option SyncMode :=
  if n = 0 then some .free else if n = 1 then some .adopt else if n = 2 then some .check else none

/-- A counter mode by its number. -/
def counterModeOf (n : Nat) : Option CounterMode :=
  if n = 0 then some .accumulate else if n = 1 then some .rate else none

/-- Whether a range is one that ZONE_RANGE takes: low ≤ high, both ends in the soft-limit range (R87, R98). -/
def rangeValid (r : Option (Int × Int)) : Bool :=
  match r with
  | none => true
  | some (lo, hi) => decide (lo ≤ hi) && decide (-2000000000 ≤ lo) && decide (hi ≤ 2000000000)

/-- Whether the fields of an entry other than its ranges are ones that ZONE_OPEN takes for a table (R97). -/
def openFieldsValid (t : ZoneTable) (kind : ZoneKind) (cap : Nat) (mask : ChannelSet) : Bool :=
  (decide (kind = .hard) || (decide (5 ≤ cap) && decide (cap ≤ 100))) && decide (t = .set ↔ mask = 0)

/-- The cap an entry holds: 100 for a HARD entry (section 5.2, R97). -/
def heldCap (kind : ZoneKind) (cap : Nat) : Nat := if kind = .hard then 100 else cap

/-- A range of the image: the ANY byte, then the two ends. -/
def rangeAt (bs : List Byte) (at' : Nat) : Option (Option (Int × Int)) :=
  (flagOf (byteAt bs at')).map fun a =>
    if a then none else some (beSigned (slice bs (at' + 1) 4), beSigned (slice bs (at' + 5) 4))

/-- An entry of the image: blank, or one that ZONE_OPEN, ZONE_RANGE and LOAD_ZONE would take (R102, R202; log entry 19), the
mask byte of a SET entry being 0 (log entry 47). -/
def zoneAt (bs : List Byte) (t : ZoneTable) (at' : Nat) : Option ZoneEntry :=
  match flagOf (byteAt bs at'), zoneKindOf (natAt bs (at' + 1) 1), modeMatchOf (natAt bs (at' + 3) 1),
    allSome (Tab.ofFn (n := 7) fun m => rangeAt bs (at' + 5 + 9 * m.val)) with
  | some en, some k, some mm, some ranges =>
    let e : ZoneEntry := ⟨en, k, heldCap k (natAt bs (at' + 2) 1), mm, byteAt bs (at' + 4), ranges⟩
    if e = ZoneEntry.blank then some e
    else if openFieldsValid t k (natAt bs (at' + 2) 1) e.mask && ranges.list.all rangeValid &&
        ranges.list.any (fun r => r.isSome) then some e
    else none
  | _, _, _, _ => none

/-- The sync settings of the image, each in the range of section 7.1. -/
def syncSettingsOf (mode offset tolerance counter period threshold : Nat) : Option SyncSettings :=
  match syncModeOf mode, counterModeOf counter with
  | some m, some c =>
    if offset ≤ 65535 ∧ tolerance ≤ 1000 ∧ 1 ≤ period ∧ period ≤ 65535 ∧ 1 ≤ threshold ∧ threshold ≤ 65535 then
      some ⟨m, offset, tolerance, c, period, threshold⟩
    else none
  | _, _ => none

/-- The items of an image, none where one of them is not one that its request would take (R202). The conditions on the
station table as a whole are those of R63. -/
def configItems (bs : List Byte) : Option ConfigImage :=
  match allSome (Tab.ofFn (n := 4) fun st => stationAt bs st),
    allSome (Tab.ofFn (n := 10) fun j => limitsAt bs j) with
  | some stations, some limits =>
    match allSome (Tab.ofFn (n := 3) fun l => mapAt bs l (limits.get (lensAxis l))),
      allSome (Tab.ofFn (n := 8) fun i => zoneAt bs .set (849 + 68 * i.val)),
      allSome (Tab.ofFn (n := 8) fun i => zoneAt bs .crew (1393 + 68 * i.val)),
      syncSettingsOf (natAt bs 1939 1) (natAt bs 1940 2) (natAt bs 1942 2) (natAt bs 1944 1) (natAt bs 1945 2)
        (natAt bs 1947 2) with
    | some maps, some sets, some crews, some sync =>
      if 1 ≤ natAt bs 1937 2 ∧ natAt bs 1937 2 ≤ 50 ∧ natAt bs 1949 3 ≤ 1000000 ∧ natAt bs 1952 3 ≤ 1000000 ∧
          ([1, 2, 3, 4].all fun k => stations.list.any fun x => decide (x.1 = k)) ∧
          (stations.list.any fun x => hasRight x.2 .config) then
        some ⟨stations, limits, maps, sets, crews, natAt bs 1937 2, sync, natAt bs 1949 3, natAt bs 1952 3⟩
      else none
    | _, _, _, _ => none
  | _, _ => none

/-- The configuration image read from sector 0 at start, where it is valid (R202). -/
def readConfig (flash : List Host.Cell) : Option ConfigImage :=
  let bs := flashBytes flash 0 configLength
  if slice bs 0 4 = [0xC0, 0x4E, 0x19, 0x3A] ∧ natAt bs 4 2 = 1955 then
    if endMatches bs then configItems bs else none
  else none

end Sys2Proof.Machine
end

