-- ==== Sys2Proof/Machine/Takes.lean ====
section
/-! DEFINITION. The Take Store (chapter 8): the recorder's work at an update, and the commands RECORD, RECORD_STOP, DELETE,
PROTECT and TAKE_INFO. -/

namespace Sys2Proof.Machine

/-! ### The recorder at an update (R148, R149) -/

/-- A magnitude divided by the divisor, rounded up (R149). -/
def ceilDiv (n d : Nat) : Nat := (n + d - 1) / d

/-- The envelope of an axis with sample value `x` taken in as sample `q`; `s1` and `s2` are the two samples before it
(R149). -/
def Envelope.takeIn (e : Envelope) (q divisor : Nat) (x s1 s2 : Int) : Envelope where
  minimum := if q = 0 then x else min e.minimum x
  maximum := if q = 0 then x else max e.maximum x
  velocity := if q = 0 then 0 else max e.velocity (ceilDiv (x - s1).natAbs divisor)
  stepChange := if q < 2 then 0 else max e.stepChange (ceilDiv ((x - s1) - (s1 - s2)).natAbs divisor)

/-- The lens generations a take keeps: the current one of each lens axis of the set (R148). -/
def State.lensGens (s : State) (axes : AxisSet) : Tab 3 (Option LensGen) :=
  Tab.ofFn fun l => if axes.getLsbD (lensAxis l).val then some (.value (s.maps.get l).generation) else none

/-- The setpoints handed on for a sample, in 1/256 (R24). -/
def State.sampleValues (s : State) : Tab 10 Int :=
  s.channels.map fun c => match c.moving with
    | some m => m.p
    | none => 0

/-- The data of a take with sample `q` taken in (R148 steps 3 and 4). -/
def State.dataWith (s : State) (t : Take) (vals : Tab 10 Int) : TakeData :=
  let before := t.data.getD TakeData.blank
  { first := if t.count = 0 then Tab.ofFn fun j => if t.axes.getLsbD j.val then vals.get j else 0 else before.first
    envelope := Tab.ofFn fun j =>
      if t.axes.getLsbD j.val then
        (before.envelope.get j).takeIn t.count t.divisor (vals.get j) (s.takes.sample t (t.count - 1) j)
          (s.takes.sample t (t.count - 2) j)
      else ⟨0, 0, 0, 0⟩
    lens := if t.count = 0 then s.lensGens t.axes else before.lens
    recordedAt := if t.count = 0 then s.time.now else before.recordedAt }

/-- The block list and the free list once sample `q` of a take of `k` axes has its block; none where the free list is
empty (R144, R148 step 1). -/
def drawBlock (q k : Nat) (blocks free : List Nat) : Option (List Nat × List Nat) :=
  if q % perBlock k = 0 then
    match free with
    | [] => none
    | b :: rest => some (blocks ++ [b], rest)
  else some (blocks, free)

/-- A due sample is stored, or the take closes FULL (R148, R153). -/
def State.storeSample (s : State) (r : Recorder) (t : Take) : State :=
  match drawBlock t.count (setSize t.axes) t.blocks s.takes.freeList with
  | none => s.closeTake .full
  | some (blocks, free) =>
    { s with takes :=
        { values := writeSample s.takes.values t.axes blocks t.count s.sampleValues
          freeList := free
          slots := s.takes.slots.set r.slot (.recording
            { t with count := t.count + 1, blocks := blocks, data := some (s.dataWith t s.sampleValues) })
          recorder := some { r with toNext := t.divisor - 1 } } }

/-- The recorder at the hand-off of an update (R148). -/
def State.recordUpdate (s : State) : State :=
  match s.takes.recordingTake with
  | none => s
  | some (r, t) =>
    if 0 < r.toNext then { s with takes := { s.takes with recorder := some { r with toNext := r.toNext - 1 } } }
    else s.storeSample r t

/-! ### The directory -/

/-- Whether a slot is EMPTY. -/
def TakeSlot.isEmpty (t : TakeSlot) : Bool :=
  match t with
  | .empty => true
  | _ => false

/-- Whether a slot is CLOSED. -/
def TakeSlot.isClosed (t : TakeSlot) : Bool :=
  match t with
  | .closed _ _ => true
  | _ => false

/-- All slots in ascending order. -/
def allSlots : List TakeNo := List.finRange 32

/-- The lowest-numbered EMPTY slot (R145). -/
def TakeStore.lowestEmpty (ts : TakeStore) : Option TakeNo := allSlots.find? fun i => (ts.slots.get i).isEmpty

/-- A slot by its number, none outside 0 to 31. -/
def slotOf (n : Nat) : Option TakeNo := if h : n < 32 then some ⟨n, h⟩ else none

/-- The slot held by the Playback Engine (R158). -/
def EngineState.heldSlot (e : EngineState) : Option TakeNo :=
  match e with
  | .idle => none
  | .seeking c => some c.hold.slot
  | .ready c => some c.hold.slot
  | .running h _ => some h.slot
  | .paused h _ => some h.slot

/-- RECORD is refused (R147). -/
def State.recordVerdict (s : State) (st : Station) (w : BitVec 16) (n : Nat) (label : Tab 8 Byte) : Option Answer :=
  if s.holds st .take = false then refuse .noRight
  else if badSet w ∨ n ∉ [1, 2, 4, 8] ∨ (label.list.any fun b => decide (b.toNat < 32) || decide (126 < b.toNat)) then
    refuse .badArg
  else if 0 < s.stop.level then refuse .stopped
  else if s.takes.recorder.isSome then refuse .busy
  else if s.takes.lowestEmpty = none ∨ s.takes.freeList = [] then refuse .full
  else if (axesOf (w.setWidth 10)).any fun j => decide (s.driveState j ≠ .active) then refuse .state
  else none

/-- The origin of a take recorded now (R147). -/
def State.originNow (s : State) : Origin :=
  match s.play.state with
  | .running h e => .layer (BitVec.ofNat 8 h.slot.val) e
  | _ => .manual

/-- RECORD is taken (R147). -/
def State.recordTaken (s : State) (st : Station) (axes : AxisSet) (n : Nat) (label : Tab 8 Byte) : State :=
  match s.takes.lowestEmpty with
  | none => s
  | some i =>
    { s with takes := { s.takes with
        slots := s.takes.slots.set i (.recording ⟨label, axes, n, 0, [], none, s.originNow, false⟩)
        recorder := some ⟨i, st, 0⟩ } }

/-- RECORD_STOP is refused (R151). -/
def State.recordStopVerdict (s : State) (st : Station) : Option Answer :=
  if s.holds st .take = false then refuse .noRight
  else if s.takes.recorder = none then refuse .state
  else none

/-- Whether a SAVE_TAKE of a slot is in flight (R155). -/
def State.saving (s : State) (i : TakeNo) : Bool :=
  match s.flashPort with
  | some op => decide (op.kind = .saveTake) && decide (op.slot = some i)
  | none => false

/-- DELETE judged and taken (R155). -/
def State.deleteTake (s : State) (st : Station) (n : Nat) : State × Answer :=
  if s.holds st .take = false then (s, ⟨.noRight, []⟩)
  else
    match slotOf n with
    | none => (s, ⟨.badArg, []⟩)
    | some i =>
      match s.takes.slots.get i with
      | .empty => (s, ⟨.noTake, []⟩)
      | .loading _ _ => (s, ⟨.state, []⟩)
      | .recording t => (s, ⟨if t.isProtected then .isProtected else .state, []⟩)
      | .closed t _ =>
        if t.isProtected then (s, ⟨.isProtected, []⟩)
        else if s.play.state.heldSlot = some i then (s, ⟨.state, []⟩)
        else if s.saving i then (s, ⟨.busy, []⟩)
        else
          ({ s with takes := { s.takes with
              slots := s.takes.slots.set i .empty, freeList := s.takes.freeList ++ t.blocks } }, ⟨.ok, []⟩)

/-- PROTECT judged and taken (R156). -/
def State.protectTake (s : State) (st : Station) (n : Nat) (v : Bool) : State × Answer :=
  if s.holds st .take = false then (s, ⟨.noRight, []⟩)
  else
    match slotOf n with
    | none => (s, ⟨.badArg, []⟩)
    | some i =>
      match s.takes.slots.get i with
      | .empty => (s, ⟨.noTake, []⟩)
      | .loading _ _ => (s, ⟨.state, []⟩)
      | .recording t => (s.setSlot i (.recording { t with isProtected := v }), ⟨.ok, []⟩)
      | .closed t r => (s.setSlot i (.closed { t with isProtected := v } r), ⟨.ok, []⟩)

/-! ### TAKE_INFO (R157, section 10.6) -/

/-- Part 0 of a RECORDING or CLOSED slot; `state` is the number of its state. -/
def infoPart0 (state : Nat) (t : Take) (reason : Option CloseReason) : List Byte :=
  byte state ++ t.label.list ++ axisSetBytes t.axes ++ byte t.divisor ++ beBytes 4 t.count ++
    beBytes 2 t.blocks.length ++ flagByte t.isProtected ++ optBytes 1 (reason.map CloseReason.code)

/-- Part 0 of a LOADING slot: the state and the sample count, every other field absent (R157). -/
def infoLoading (count : Nat) : List Byte :=
  byte 3 ++ ones 8 ++ ones 2 ++ ones 1 ++ beBytes 4 count ++ ones 2 ++ ones 1 ++ ones 1

/-- The data of a take for an axis of its set; absent for another axis and before the first sample. -/
def Take.dataFor (t : Take) (j : Axis) : Option TakeData := if t.axes.getLsbD j.val then t.data else none

/-- Part 1: origin, recorded-at timebase and lens generations. -/
def infoPart1 (t : Take) : List Byte :=
  originBytes t.origin ++ optBytes 5 (t.data.map fun d => d.recordedAt.toNat) ++
    allLenses.flatMap fun l => lensGenBytes ((t.dataFor (lensAxis l)).bind fun d => d.lens.get l)

/-- Parts 2 to 11: the envelope of an axis, then a presence byte. -/
def infoEnvelope (t : Take) (j : Axis) : List Byte :=
  match t.dataFor j with
  | some d => envelopeBytes (d.envelope.get j) ++ byte 1
  | none => ones 20 ++ byte 0

/-- Parts 12 and 13: five first-sample values in whole counts, then a presence byte with one bit per axis, the lowest axis
of the part in bit 0 (log entry 36). -/
def infoFirst (t : Take) (axes : List Axis) : List Byte :=
  (axes.flatMap fun j => match t.dataFor j with
    | some d => beInt 4 (toCount (d.first.get j))
    | none => ones 4) ++
    byte ((axes.zipIdx.map fun x => if (t.dataFor x.1).isSome then 2 ^ x.2 else 0).sum)

/-- A part of a take's entry. -/
def infoPart (state : Nat) (t : Take) (reason : Option CloseReason) (part : Nat) : List Byte :=
  if part = 0 then infoPart0 state t reason
  else if part = 1 then infoPart1 t
  else if h : part - 2 < 10 then infoEnvelope t ⟨part - 2, h⟩
  else infoFirst t (if part = 12 then [0, 1, 2, 3, 4] else [5, 6, 7, 8, 9])

/-- The answer to TAKE_INFO (R157). -/
def State.takeInfo (s : State) (n part : Nat) : Answer :=
  match slotOf n with
  | none => ⟨.badArg, []⟩
  | some i =>
    if 13 < part then ⟨.badArg, []⟩
    else
      match s.takes.slots.get i with
      | .empty => ⟨.noTake, []⟩
      | .loading count _ => if part = 0 then ⟨.ok, infoLoading count⟩ else ⟨.state, []⟩
      | .recording t => ⟨.ok, infoPart 1 t none part⟩
      | .closed t r => ⟨.ok, infoPart 2 t (some r) part⟩

/-! ### The commands -/

/-- RECORD (R147). -/
def execRecord (st : Station) (tag : Byte) (payload : List Byte) (s : State) : Host.Outcome State Fault Refusal :=
  request st tag 27 payload recordArgs
    (fun a t => judged (t.recordVerdict st a.1 a.2.1 a.2.2) t (t.recordTaken st (a.1.setWidth 10) a.2.1 a.2.2) []) s

/-- RECORD_STOP (R151, R154). -/
def execRecordStop (st : Station) (tag : Byte) (payload : List Byte) (s : State) : Host.Outcome State Fault Refusal :=
  request st tag 28 payload noArgs (fun _ t => judged (t.recordStopVerdict st) t (t.closeTake .stopped) []) s

/-- DELETE (R155). -/
def execDelete (st : Station) (tag : Byte) (payload : List Byte) (s : State) : Host.Outcome State Fault Refusal :=
  request st tag 29 payload oneByte (fun n t => t.deleteTake st n) s

/-- PROTECT (R156). -/
def execProtect (st : Station) (tag : Byte) (payload : List Byte) (s : State) : Host.Outcome State Fault Refusal :=
  request st tag 30 payload protectArgs (fun a t => t.protectTake st a.1 a.2) s

/-- TAKE_INFO (R157). -/
def execTakeInfo (st : Station) (tag : Byte) (payload : List Byte) (s : State) : Host.Outcome State Fault Refusal :=
  request st tag 31 payload twoBytes (fun a t => (t, t.takeInfo a.1 a.2)) s

end Sys2Proof.Machine
end

