-- ==== Sys2Proof/Machine/Flash.lean ====
section
/-! DEFINITION. The Flash Port and its users (08, section 8.5; chapter 11): the commands SAVE_TAKE, SAVE_TAKE_END,
LOAD_TAKE, LOAD_TAKE_HEADER, LOAD_TAKE_SAMPLE, LOAD_TAKE_END, FLASH_SECTOR_DONE, SAVE_CONFIG and SAVE_CONFIG_END. -/

namespace Sys2Proof.Machine

/-! ### Ranges and images -/

/-- Whether a range of sectors is outside the take archive or runs backward (R161, R163). -/
def badRange (first last : Nat) : Bool :=
  decide (last < first) || decide (first < 16) || decide (8191 < first) || decide (last < 16) || decide (8191 < last)

/-- The number of sectors of the range of an operation. -/
def FlashOp.sectors (op : FlashOp) : Nat := op.last + 1 - op.first

/-- The bytes of the range of an operation. -/
def FlashOp.room (op : FlashOp) : Nat := op.sectors * 4096

/-- The image of a write less its end record, which is written last (R160, R201). -/
def FlashOp.body (op : FlashOp) : List Byte := op.image.take (op.image.length - 8)

/-- The bytes of a list that lie in its sector `i`. -/
def sectorPart (bytes : List Byte) (i : Nat) : List Byte := (bytes.drop (i * 4096)).take 4096

/-- Sectors erased and written in order, the bytes of a list running on from one to the next (R199). -/
def writeSectors (flash : List Host.Cell) (first : Nat) (bytes : List Byte) : Nat → List Host.Cell
  | 0 => flash
  | n + 1 => writeSector (writeSectors flash first bytes n) (first + n) (sectorPart bytes n)

/-- The sectors of its range that a write reaches. -/
def FlashOp.reached (op : FlashOp) : Nat := min op.sectors (sectorsFor op.image.length)

/-- The Flash Port free, its last operation ended. -/
def State.freePort (s : State) : State := { s with flashPort := none }

/-! ### SAVE_TAKE (R160 to R162) -/

/-- SAVE_TAKE judged and taken (R161). -/
def State.saveTake (s : State) (st : Station) (n first last : Nat) : State × Answer :=
  if s.holds st .take = false then (s, ⟨.noRight, []⟩)
  else
    match slotOf n with
    | none => (s, ⟨.badArg, []⟩)
    | some i =>
      if badRange first last then (s, ⟨.badArg, []⟩)
      else if s.flashPort.isSome then (s, ⟨.busy, []⟩)
      else
        match s.takes.slots.get i with
        | .empty => (s, ⟨.noTake, []⟩)
        | .recording _ => (s, ⟨.state, []⟩)
        | .loading _ _ => (s, ⟨.state, []⟩)
        | .closed t r =>
          ({ s with flashPort := some ⟨.saveTake, first, last, 0, st, some i, archiveImage s.takes t r, none⟩ },
            ⟨.ok, []⟩)

/-- The end of a save (R162): the image written as far as the range goes, and the notice. -/
def State.endSave (s : State) (op : FlashOp) : State :=
  ({ s with flash := writeSectors s.flash op.first op.image op.reached, flashPort := none }).post op.requester fun n =>
    if op.image.length ≤ op.room then
      { n with flashDone := some (.saveTake, op.slot, sectorsFor op.image.length) }
    else { n with flashFailed := some (.saveTake, op.slot, .full) }

/-! ### LOAD_TAKE (R163, R164) -/

/-- LOAD_TAKE is refused (R163). -/
def State.loadTakeVerdict (s : State) (st : Station) (first last : Nat) : Option Answer :=
  if s.holds st .take = false then refuse .noRight
  else if badRange first last then refuse .badArg
  else if s.takes.lowestEmpty = none then refuse .full
  else if s.flashPort.isSome then refuse .busy
  else none

/-- LOAD_TAKE is taken (R163). -/
def State.loadTakeTaken (s : State) (st : Station) (first last : Nat) : State :=
  match s.takes.lowestEmpty with
  | none => s
  | some i =>
    { s.setSlot i (.loading 0 []) with flashPort := some ⟨.loadTake, first, last, 0, st, some i, [], none⟩ }

/-- The bytes of the range of an operation from a place on. -/
def State.rangeBytesAt (s : State) (op : FlashOp) (place n : Nat) : List Byte :=
  flashBytes s.flash (sectorAddress op.first + place) n

/-- The header in the range of a load. -/
def State.headerRead (s : State) (op : FlashOp) : List Byte := s.rangeBytesAt op 0 512

/-- The bytes of a sample of `k` axes. -/
def sampleLength (k : Nat) : Nat := 5 * k

/-- The length of header and samples together. -/
def TakeHeader.bodyLength (h : TakeHeader) : Nat := 512 + sampleLength (setSize h.axes) * h.count

/-- Why the end record of a load does not complete it, none where it does (R164). -/
def State.endRecordFails (s : State) (op : FlashOp) (h : TakeHeader) : Option FlashFail :=
  if op.room < h.bodyLength + 8 then some .noEnd
  else if s.rangeBytesAt op h.bodyLength 4 ≠ [0x5A, 0xE0, 0x0D, 0x01] then some .noEnd
  else if s.rangeBytesAt op h.bodyLength 8 ≠ endRecord (s.rangeBytesAt op 0 h.bodyLength) then some .checksum
  else none

/-- Why sample `q` of a load cannot be stored, none where it can (R163, R164). -/
def State.sampleFails (s : State) (op : FlashOp) (h : TakeHeader) (q : Nat) (blocks : List Nat) : Option FlashFail :=
  if op.room < 512 + sampleLength (setSize h.axes) * (q + 1) then some .noEnd
  else if drawBlock q (setSize h.axes) blocks s.takes.freeList = none then some .full
  else none

/-- Why a load in flight ends in failure at its next part, none where that part is good (R164). -/
def State.loadFails (s : State) (op : FlashOp) (q : Nat) (blocks : List Nat) : Option FlashFail :=
  match op.header with
  | none => if headerValid (s.headerRead op) then none else some .noEnd
  | some h => if q < h.count then s.sampleFails op h q blocks else s.endRecordFails op h

/-- The load in flight: its operation, slot, samples stored and blocks drawn. -/
def State.loadInFlight (s : State) : Option (FlashOp × TakeNo × Nat × List Nat) :=
  match s.flashPort with
  | some op =>
    if op.kind = .loadTake then
      match op.slot with
      | some i =>
        match s.takes.slots.get i with
        | .loading q blocks => some (op, i, q, blocks)
        | _ => none
      | none => none
    else none
  | none => none

/-- A load fails (R164): its blocks go back to the tail of the free list, and its slot becomes EMPTY. -/
def State.failLoad (s : State) (op : FlashOp) (i : TakeNo) (blocks : List Nat) (why : FlashFail) : State :=
  ({ s with
    flashPort := none
    takes := { s.takes with slots := s.takes.slots.set i .empty, freeList := s.takes.freeList ++ blocks } }).post
      op.requester fun n => { n with flashFailed := some (.loadTake, some i, why) }

/-- A load completes (R164), with the fields of its header as `headerOf` reads them (log entry 37). -/
def State.completeLoad (s : State) (op : FlashOp) (i : TakeNo) (h : TakeHeader) (q : Nat) (blocks : List Nat) : State :=
  (({ s with flashPort := none }).setSlot i
    (.closed ⟨h.label, h.axes, h.divisor, q, blocks, some h.data, h.origin, h.isProtected⟩ .loaded)).post
      op.requester fun n => { n with flashDone := some (.loadTake, some i, q) }

/-- A sample of a load stored (R163). -/
def State.storeLoaded (s : State) (op : FlashOp) (i : TakeNo) (h : TakeHeader) (q : Nat) (blocks : List Nat) : State :=
  match drawBlock q (setSize h.axes) blocks s.takes.freeList with
  | none => s
  | some (bs, free) =>
    { s with takes := { s.takes with
        values := writeSample s.takes.values h.axes bs q
          (sampleOf h.axes (s.rangeBytesAt op (512 + sampleLength (setSize h.axes) * q) (sampleLength (setSize h.axes))))
        freeList := free
        slots := s.takes.slots.set i (.loading (q + 1) bs) } }

/-! ### Sectors and SAVE_CONFIG (R199 to R201) -/

/-- The sector a write is in, erased and written with the part of the image's body that lies in it (R199). -/
def State.writeUnderWay (s : State) (op : FlashOp) : State :=
  { s with flash := writeSector s.flash (op.first + op.done) (sectorPart op.body op.done) }

/-- The Flash Port leaves a sector (R199). -/
def State.sectorDone (s : State) (op : FlashOp) : State :=
  match op.kind with
  | .loadTake => if op.done < op.sectors then { s with flashPort := some { op with done := op.done + 1 } } else s
  | .saveTake | .saveConfig =>
    if op.done < op.reached then { s.writeUnderWay op with flashPort := some { op with done := op.done + 1 } } else s

/-- SAVE_CONFIG is refused (R200). -/
def State.saveConfigVerdict (s : State) (st : Station) : Option Answer :=
  if s.holds st .config = false then refuse .noRight else if s.flashPort.isSome then refuse .busy else none

/-- SAVE_CONFIG is taken (R200). -/
def State.saveConfigTaken (s : State) (st : Station) : State :=
  { s with flashPort := some ⟨.saveConfig, 0, 0, 0, st, none, configBytes s.config, none⟩ }

/-- The end of a SAVE_CONFIG: sector 0 is erased and the whole image written into it, the end record last, and the bytes
read back are judged (R201). Where they do not match, sector 0 holds what was read (log entry 20). -/
def State.endConfig (s : State) (op : FlashOp) (back : List Byte) : State :=
  if endMatches back then
    ({ s with flash := writeSector s.flash 0 op.image, flashPort := none, configDefaulted := false }).post op.requester
      fun n => { n with flashDone := some (.saveConfig, none, 1) }
  else
    ({ s with flash := writeSector s.flash 0 (back.take configLength), flashPort := none }).post op.requester
      fun n => { n with flashFailed := some (.saveConfig, none, .verify) }

/-! ### The commands -/

/-- SAVE_TAKE (R161). -/
def execSaveTake (st : Station) (tag : Byte) (payload : List Byte) (s : State) : Host.Outcome State Fault Refusal :=
  request st tag 32 payload saveTakeArgs (fun a t => t.saveTake st a.1 a.2.1 a.2.2) s

/-- SAVE_TAKE_END (R162): the end of the save in flight (log entry 27). -/
def execSaveTakeEnd (s : State) : Host.Outcome State Fault Refusal :=
  awake s fun t =>
    match t.flashPort with
    | some op => if op.kind = .saveTake then t.endSave op else t
    | none => t

/-- LOAD_TAKE (R163). -/
def execLoadTake (st : Station) (tag : Byte) (payload : List Byte) (s : State) : Host.Outcome State Fault Refusal :=
  request st tag 33 payload loadTakeArgs
    (fun a t => judged (t.loadTakeVerdict st a.1 a.2) t (t.loadTakeTaken st a.1 a.2) []) s

/-- LOAD_TAKE_HEADER (R163, R164): the header of the load in flight has been read, and is judged. -/
def execLoadTakeHeader (s : State) : Host.Outcome State Fault Refusal :=
  awake s fun t =>
    match t.loadInFlight with
    | some (op, i, q, blocks) =>
      if op.header = none then
        match t.loadFails op q blocks with
        | some why => t.failLoad op i blocks why
        | none => { t with flashPort := some { op with header := some (headerOf (t.headerRead op)) } }
      else t
    | none => t

/-- LOAD_TAKE_SAMPLE (R163, R164): the next sample of the load in flight has been read. -/
def execLoadTakeSample (s : State) : Host.Outcome State Fault Refusal :=
  awake s fun t =>
    match t.loadInFlight with
    | some (op, i, q, blocks) =>
      match op.header with
      | some h =>
        if q < h.count then
          match t.loadFails op q blocks with
          | some why => t.failLoad op i blocks why
          | none => t.storeLoaded op i h q blocks
        else t
      | none => t
    | none => t

/-- LOAD_TAKE_END (R164): the load in flight ends, with the reason its next part gives or by completion. -/
def execLoadTakeEnd (s : State) : Host.Outcome State Fault Refusal :=
  awake s fun t =>
    match t.loadInFlight with
    | some (op, i, q, blocks) =>
      match t.loadFails op q blocks with
      | some why => t.failLoad op i blocks why
      | none =>
        match op.header with
        | some h => if q < h.count then t else t.completeLoad op i h q blocks
        | none => t
    | none => t

/-- FLASH_SECTOR_DONE (R199): the port leaves a sector of the operation in flight. -/
def execFlashSectorDone (s : State) : Host.Outcome State Fault Refusal :=
  awake s fun t =>
    match t.flashPort with
    | some op => t.sectorDone op
    | none => t

/-- SAVE_CONFIG (R200). -/
def execSaveConfig (st : Station) (tag : Byte) (payload : List Byte) (s : State) : Host.Outcome State Fault Refusal :=
  request st tag 41 payload noArgs (fun _ t => judged (t.saveConfigVerdict st) t (t.saveConfigTaken st) []) s

/-- SAVE_CONFIG_END (R201): the bytes read back from sector 0. -/
def execSaveConfigEnd (back : List Byte) (s : State) : Host.Outcome State Fault Refusal :=
  awake s fun t =>
    match t.flashPort with
    | some op => if op.kind = .saveConfig then t.endConfig op back else t
    | none => t

end Sys2Proof.Machine
end

