-- ==== Sys2Proof/Machine/Lens.lean ====
section
/-! DEFINITION. Limits records and lens maps (01, R2 to R4; chapter 2): the commands LOAD_LIMITS, MAP_OPEN, MAP_POINTS and
LOAD_MAP. -/

namespace Sys2Proof.Machine

/-- An axis by its number, none outside 0 to 9. -/
def axisNumber (n : Nat) : Option Axis := if h : n < 10 then some ⟨n, h⟩ else none

/-- A lens axis by its axis number, none outside 7 to 9. -/
def lensNumber (n : Nat) : Option Lens := if h : 7 ≤ n ∧ n < 10 then some ⟨n - 7, by omega⟩ else none

/-- A slot number of a map, counted from 1 to 24 on the link, as the place in the list of slots. -/
def badSlot (n : Nat) : Bool := decide (n < 1) || decide (24 < n)

/-! ### LOAD_LIMITS (R2, R3, R4) -/

/-- LOAD_LIMITS is refused (R2, R3). -/
def State.loadLimitsVerdict (s : State) (st : Station) (n : Nat) (r : Limits) : Option Answer :=
  if s.holds st .config = false then refuse .noRight
  else
    match axisNumber n with
    | none => refuse .badArg
    | some j =>
      if validLimits j r = false then refuse .badArg
      else if ¬ (s.driveState j = .off ∨ s.driveState j = .parked) ∨ (s.mode j).underTake then refuse .state
      else none

/-- LOAD_LIMITS is taken for an axis (R3, R4): a motion axis is READY; a lens axis is LIMITED and its map is no longer
valid, with its generation kept. -/
def State.setLimits (s : State) (j : Axis) (r : Limits) : State :=
  match lensOf j with
  | none => s.modChannel j fun c => { c with limits := some r, commissioning := .ready }
  | some l =>
    let t := s.modChannel j fun c => { c with limits := some r, commissioning := .limited }
    { t with maps := t.maps.modify l fun m => { m with map := none } }

/-- LOAD_LIMITS is taken. -/
def State.loadLimitsTaken (s : State) (n : Nat) (r : Limits) : State :=
  match axisNumber n with
  | some j => s.setLimits j r
  | none => s

/-! ### MAP_OPEN (R30) -/

/-- MAP_OPEN is refused. -/
def State.mapOpenVerdict (s : State) (st : Station) (n count : Nat) : Option Answer :=
  if s.holds st .config = false then refuse .noRight
  else if lensNumber n = none ∨ count < 2 ∨ 24 < count then refuse .badArg
  else none

/-- MAP_OPEN is taken: the staging record of the axis is OPEN under the requester with empty slots. -/
def State.mapOpenTaken (s : State) (st : Station) (n count : Nat) : State :=
  match lensNumber n with
  | some l => { s with mapStaging := s.mapStaging.set l (some ⟨st, List.replicate count none⟩) }
  | none => s

/-! ### MAP_POINTS (R31) -/

/-- The slots of the staging record of a lens axis, where it is OPEN under a station. -/
def State.stagedSlots (s : State) (l : Lens) (st : Station) : Option (List (Option (Nat × Int))) :=
  match s.mapStaging.get l with
  | some g => if g.station = st then some g.slots else none
  | none => none

/-- Whether the user value of a point lies outside the user range of a lens axis (section 2.1). -/
def outsideRange (l : Lens) (q : Nat × Int) : Bool := decide (q.1 < (userRange l).1) || decide ((userRange l).2 < q.1)

/-- MAP_POINTS is refused. -/
def State.mapPointsVerdict (s : State) (st : Station) (n first : Nat) (ps : List (Nat × Int)) : Option Answer :=
  if s.holds st .config = false then refuse .noRight
  else
    match lensNumber n with
    | none => refuse .badArg
    | some l =>
      if badSlot first then refuse .badArg
      else
        match s.stagedSlots l st with
        | none => refuse .state
        | some slots =>
          if slots.length < first + ps.length - 1 then refuse .badArg
          else if ps.any (outsideRange l) then refuse .badArg
          else none

/-- Points written into slots in order, from the place given on. -/
def putPoints (slots : List (Option (Nat × Int))) (place : Nat) : List (Nat × Int) → List (Option (Nat × Int))
  | [] => slots
  | q :: rest => putPoints (slots.set place (some q)) (place + 1) rest

/-- MAP_POINTS is taken. -/
def State.mapPointsTaken (s : State) (n first : Nat) (ps : List (Nat × Int)) : State :=
  match lensNumber n with
  | some l =>
    { s with mapStaging := s.mapStaging.modify l fun m => m.map fun g => ⟨g.station, putPoints g.slots (first - 1) ps⟩ }
  | none => s

/-! ### LOAD_MAP (R33, R34, R38, R150) -/

/-- The points of a list of slots, none where a slot is empty. -/
def fullSlots : List (Option (Nat × Int)) → Option (List (Nat × Int))
  | [] => some []
  | none :: _ => none
  | some q :: rest => (fullSlots rest).map fun qs => q :: qs

/-- The map that the staged slots make against the limits record in force, where they make one. -/
def State.stagedMap (s : State) (l : Lens) (slots : List (Option (Nat × Int))) : Option MapPoints :=
  match fullSlots slots, s.limits (lensAxis l) with
  | some ps, some lim => mapOf l lim ps
  | _, _ => none

/-- Whether the STATE condition on the axis of a LOAD_MAP holds (R33): UNSET, or neither its drive OFF or PARKED nor its
mode IDLE or MANUAL. -/
def State.mapBarred (s : State) (l : Lens) : Bool :=
  decide ((s.channels.get (lensAxis l)).commissioning = .unset) ||
    (!decide (s.driveState (lensAxis l) = .off ∨ s.driveState (lensAxis l) = .parked) && (s.mode (lensAxis l)).underTake)

/-- LOAD_MAP is refused. -/
def State.loadMapVerdict (s : State) (st : Station) (n : Nat) : Option Answer :=
  if s.holds st .config = false then refuse .noRight
  else
    match lensNumber n with
    | none => refuse .badArg
    | some l =>
      match s.stagedSlots l st with
      | none => refuse .state
      | some slots =>
        if s.mapBarred l then refuse .state
        else if s.stagedMap l slots = none then refuse .badArg
        else none

/-- A target in force after a new map is taken (R38): a position target that keeps a user value is converted afresh. -/
def Target.remapped (t : Target) (mp : MapPoints) : Target :=
  match t with
  | .position _ (some u) => .position (ofCount (mp.forward u)) (some u)
  | _ => t

/-- A slot of the directory after a LOAD_MAP for a lens axis (R150): the take being recorded, once it has a sample, has
its lens generation for that axis MIXED. -/
def TakeSlot.mixed (k : TakeSlot) (l : Lens) : TakeSlot :=
  match k with
  | .recording t =>
    if t.axes.getLsbD (lensAxis l).val then
      .recording { t with data := t.data.map fun d => { d with lens := d.lens.set l (some .mixed) } }
    else k
  | _ => k

/-- A map taken for a lens axis. -/
def State.installMap (s : State) (l : Lens) (mp : MapPoints) : State :=
  let t := s.modChannel (lensAxis l) fun c =>
    { c with commissioning := .ready, moving := c.moving.map fun m => { m with target := m.target.remapped mp } }
  { t with
    maps := t.maps.modify l fun m => ⟨some mp, (m.generation + 1) % 65536⟩
    mapStaging := t.mapStaging.set l none
    takes := { t.takes with slots := t.takes.slots.map fun k => k.mixed l } }

/-- LOAD_MAP is taken. -/
def State.loadMapTaken (s : State) (st : Station) (n : Nat) : State :=
  match lensNumber n with
  | some l =>
    match s.stagedSlots l st with
    | some slots =>
      match s.stagedMap l slots with
      | some mp => s.installMap l mp
      | none => s
    | none => s
  | none => s

/-! ### The commands -/

/-- LOAD_LIMITS (R2, R3, R4). -/
def execLoadLimits (st : Station) (tag : Byte) (payload : List Byte) (s : State) : Host.Outcome State Fault Refusal :=
  request st tag 6 payload loadLimitsArgs
    (fun a t => judged (t.loadLimitsVerdict st a.1 a.2) t (t.loadLimitsTaken a.1 a.2) []) s

/-- MAP_OPEN (R30). -/
def execMapOpen (st : Station) (tag : Byte) (payload : List Byte) (s : State) : Host.Outcome State Fault Refusal :=
  request st tag 7 payload twoBytes
    (fun a t => judged (t.mapOpenVerdict st a.1 a.2) t (t.mapOpenTaken st a.1 a.2) []) s

/-- MAP_POINTS (R31). -/
def execMapPoints (st : Station) (tag : Byte) (payload : List Byte) (s : State) : Host.Outcome State Fault Refusal :=
  request st tag 8 payload mapPointsArgs
    (fun a t => judged (t.mapPointsVerdict st a.1 a.2.1 a.2.2) t (t.mapPointsTaken a.1 a.2.1 a.2.2) []) s

/-- LOAD_MAP (R32, R33, R34, R38, R150). -/
def execLoadMap (st : Station) (tag : Byte) (payload : List Byte) (s : State) : Host.Outcome State Fault Refusal :=
  request st tag 9 payload oneByte (fun n t => judged (t.loadMapVerdict st n) t (t.loadMapTaken st n) []) s

end Sys2Proof.Machine
end

