-- ==== Sys2Proof/Machine/Links.lean ====
section
/-! DEFINITION. Station links (chapter 10): link states, bad frames, replies and report frames sent, unknown requests and
the link test. Commands LINK_CHARACTER, LINK_UP, BAD_FRAME, BAD_RUN_LIMIT, REQUEST_MORE, UNKNOWN_REQUEST, REPLY_SEND,
REPORT_FRAME_SEND, TEST, TEST_START and TEST_END. -/

namespace Sys2Proof.Machine

/-! ### Alignment (R188) -/

/-- A link that becomes UP from ALIGNING (R188). -/
def Link.cameUp (l : Link) : Link :=
  { l with
    state := .up, idleRun := 16, badRun := 0, reportNumber := 0, notices := Notices.empty, assembly := none,
    replies := [], overrun := none, reportFrames := [] }

/-- A station's link becomes UP from ALIGNING (R61, R188). -/
def State.linkCameUp (s : State) (st : Station) : State :=
  (s.modLink st Link.cameUp).modStation st fun r => { r with lastFrame := 0, lastMove := 0 }

/-- An IDLE character on a DOWN or ALIGNING link (R188). -/
def State.idleChar (s : State) (st : Station) : State :=
  match s.linkState st with
  | .down => s.modLink st fun l => { l with state := .aligning, idleRun := 1 }
  | .aligning =>
    if 16 ≤ (s.links.get st).idleRun + 1 then s.linkCameUp st
    else s.modLink st fun l => { l with idleRun := l.idleRun + 1 }
  | .up => s
  | .test => s

/-- Another character on an ALIGNING link (R188; log entry 11). -/
def State.otherChar (s : State) (st : Station) : State :=
  if s.linkState st = .aligning then s.modLink st fun l => { l with idleRun := 0 } else s

/-! ### Bad frames (R189) -/

/-- The data bytes of a frame as far as they come, and whether a START or a code error cut them off. IDLE characters are
passed over (log entry 11). -/
def frameData : List LinkChar → List Byte × Bool
  | [] => ([], false)
  | .idle :: rest => frameData rest
  | .start :: _ => ([], true)
  | .codeError :: _ => ([], true)
  | .data b :: rest => (b :: (frameData rest).1, (frameData rest).2)

/-- Whether a kind byte is one of the station-to-part kinds (section 10.6). -/
def stationKind (k : Byte) : Bool := decide (k.toNat ∈ [1, 2, 5, 6, 7, 8])

/-- Whether a stream payload decodes (section 10.6); a request has none to decode. -/
def payloadDecodes (k : Byte) (payload : List Byte) : Bool :=
  if k = 5 then (movePayload payload).isSome
  else if k = 6 then (trimPayload payload).isSome
  else if k = 7 then (syncPayload payload).isSome
  else if k = 8 then (testPayload payload).isSome
  else true

/-- Whether the bytes of a frame, cut off or not, are those of a bad frame (R189). A frame that is neither complete nor cut
off is not judged yet. -/
def badBytes (bs : List Byte) (cutOff : Bool) : Bool :=
  match bs with
  | k :: a :: b :: n :: rest =>
    !stationKind k || decide (maxPayload < n.toNat) ||
      (if n.toNat + 2 ≤ rest.length then
        !(decide (crc16Bytes (k :: a :: b :: n :: rest.take n.toNat) = (rest.drop n.toNat).take 2)) ||
          !payloadDecodes k (rest.take n.toNat)
      else cutOff)
  | k :: _ => !stationKind k || cutOff
  | [] => cutOff

/-- Whether the characters that follow a START make a bad frame (R189). -/
def isBadFrame (chars : List LinkChar) : Bool := badBytes (frameData chars).1 (frameData chars).2

/-- Whether the characters that follow a START begin a TEST frame. -/
def isTestFrame (chars : List LinkChar) : Bool := decide ((frameData chars).1.head? = some 8)

/-! ### Replies (R191) -/

/-- The numbers of the result codes (section 10.5). -/
def Result.code (r : Result) : Nat :=
  match r with
  | .ok => 0
  | .noRight => 1
  | .badArg => 2
  | .state => 3
  | .busy => 4
  | .full => 5
  | .noTake => 6
  | .notOwner => 7
  | .heldBy => 8
  | .notReady => 9
  | .stopped => 10
  | .condition => 11
  | .isProtected => 12
  | .occupied => 13
  | .outOfLimits => 14
  | .lensChanged => 15
  | .notSynced => 16
  | .late => 17
  | .early => 18
  | .unknown => 19
  | .overrun => 20

/-- A frame: header and payload, then the CRC-16 over both (R189). -/
def framed (body : List Byte) : List Byte := body ++ crc16Bytes body

/-- The REPLY frame of a reply (section 10.6). -/
def replyFrame (r : Reply) : List Byte :=
  framed (byte 3 ++ [r.tag, r.code] ++ byte r.result.code ++ byte r.detail.length ++ r.detail)

/-- The reply that an overrun record is sent as (R191). -/
def Overrun.reply (o : Overrun) : Reply := ⟨o.tag, o.code, .overrun, byte o.count⟩

/-- A link whose next reply is sent: the head of the queue, or the overrun record once the queue is empty (R191). -/
def Link.sendReply (l : Link) : Link :=
  match l.replies with
  | r :: rest => { l with replies := rest, line := replyFrame r }
  | [] =>
    match l.overrun with
    | some o => { l with overrun := none, line := replyFrame o.reply }
    | none => l

/-- The REPORT frame of a waiting section (section 10.6). -/
def reportBytes (f : ReportFrame) : List Byte :=
  framed (byte 4 ++ [f.number] ++ byte f.sect ++ byte f.payload.length ++ f.payload)

/-- A link whose next report frame is sent, where no reply waits before it (R191, R195). -/
def Link.sendReport (l : Link) : Link :=
  if l.replies = [] ∧ l.overrun = none then
    match l.reportFrames with
    | f :: rest => { l with reportFrames := rest, line := reportBytes f }
    | [] => l
  else l

/-! ### The link test (R197, R198) -/

/-- One more bit of the test sequence after the 15 bits before it, the latest in bit 0 (R198). -/
def testBit (r : BitVec 15) : BitVec 1 := BitVec.ofBool (r.getLsbD 13 ^^ r.getLsbD 14)

/-- The bits before the next one, once a bit has come. -/
def testShift (r : BitVec 15) : BitVec 15 := (r ++ testBit r).setWidth 15

/-- The next `n` bits of the test sequence, earliest as the most significant (R198). -/
def testNext (r : BitVec 15) : Nat → BitVec 16
  | 0 => 0
  | n + 1 => ((testBit r).setWidth 16 <<< n) ||| testNext (testShift r) n

/-- The word that continues the test sequence after a word (R198). -/
def predictWord (w : BitVec 16) : BitVec 16 := testNext (w.setWidth 15) 16

/-- The test state after a mismatch, with the previous word it leaves. -/
def TestState.mismatch (t : TestState) (previous : Option (BitVec 16)) : TestState :=
  ⟨previous, true, true, min 255 (t.errors + 1)⟩

/-- One word judged (R198). -/
def TestState.judge (t : TestState) (w : BitVec 16) : TestState :=
  if w.setWidth 15 = 0 then t.mismatch none
  else
    match t.previous with
    | none => { t with previous := some w }
    | some p => if predictWord p = w then { t with previous := some w, live := false } else t.mismatch (some w)

/-- The words of a TEST frame judged in the order carried (R198). -/
def State.takeTest (s : State) (st : Station) (ws : List (BitVec 16)) : State :=
  s.modLink st fun l => { l with test := ws.foldl TestState.judge l.test }

/-- TEST_START is refused (R197). -/
def State.testStartVerdict (s : State) (st : Station) : Option Answer :=
  if allAxes.any fun j =>
      decide ((s.auth.get j).owner = some st) || decide ((s.auth.get j).trimStation = some st) then refuse .state
  else none

/-- TEST_START is taken (R197). -/
def State.testStartTaken (s : State) (st : Station) : State :=
  s.modLink st fun l => { l with state := .test, test := TestState.cleared }

/-- The detail of a TEST_END reply: the fail flags and the error count (section 10.6). -/
def testDetail (t : TestState) : List Byte := byte (t.live.toNat + 2 * t.sticky.toNat) ++ byte t.errors

/-- TEST_END judged and taken (R188, R197). -/
def State.testEnd (s : State) (st : Station) : State × Answer :=
  if s.linkState st = .test then
    ((s.modLink st fun l => { l with state := .up }).modStation st fun r => { r with lastFrame := 0, lastMove := 0 },
      ⟨.ok, testDetail (s.links.get st).test⟩)
  else (s, ⟨.state, []⟩)

/-! ### The commands -/

/-- LINK_CHARACTER (R188): a character received on a link. On an UP or TEST link the characters of frames act through the
commands of their frames. -/
def execLinkCharacter (st : Station) (ch : LinkChar) (s : State) : Host.Outcome State Fault Refusal :=
  awake s fun t =>
    match ch with
    | .idle => t.idleChar st
    | .start => t.otherChar st
    | .data _ => t.otherChar st
    | .codeError => t.otherChar st

/-- LINK_UP (R188): the IDLE character that brings the idle run to 16 (log entry 2). -/
def execLinkUp (st : Station) (s : State) : Host.Outcome State Fault Refusal :=
  awake s fun t =>
    if t.linkState st = .aligning ∧ 16 ≤ (t.links.get st).idleRun + 1 then t.linkCameUp st else t

/-- BAD_FRAME (R189, R198): the characters that followed a START, where they make a bad frame (log entry 28). -/
def execBadFrame (st : Station) (chars : List LinkChar) (s : State) : Host.Outcome State Fault Refusal :=
  awake s fun t => if isBadFrame chars then t.badFrame st (isTestFrame chars) else t

/-- BAD_RUN_LIMIT (R188, R189): the bad frame that brings the bad run to 32 (log entry 2). -/
def execBadRunLimit (st : Station) (s : State) : Host.Outcome State Fault Refusal :=
  awake s fun t => if 32 ≤ (t.links.get st).badRun + 1 then t.badFrame st false else t

/-- REQUEST_MORE (R190). -/
def execRequestMore (st : Station) (tag code : Byte) (payload : List Byte) (s : State) :
    Host.Outcome State Fault Refusal :=
  awake s fun t => t.takeMore st tag code payload

/-- Whether a request code stands in the catalogue of section 10.5. -/
def knownCode (code : Byte) : Bool := decide (1 ≤ code.toNat) && decide (code.toNat ≤ 43)

/-- A request with a code that is not in the catalogue (R191). -/
def execUnknownRequest (st : Station) (tag code : Byte) (payload : List Byte) (s : State) :
    Host.Outcome State Fault Refusal :=
  awake s fun t =>
    if knownCode code then t else t.takeRequest st tag code payload fun _ u => (u, ⟨.unknown, []⟩)

/-- REPLY_SEND (R191): the next reply of a station's queue is sent, in UP and TEST (R187). -/
def execReplySend (st : Station) (s : State) : Host.Outcome State Fault Refusal :=
  awake s fun t =>
    if t.linkState st = .up ∨ t.linkState st = .test then t.modLink st Link.sendReply else t

/-- REPORT_FRAME_SEND (R191, R195): the next frame of a station's state report is sent, in UP (R187). -/
def execReportFrameSend (st : Station) (s : State) : Host.Outcome State Fault Refusal :=
  awake s fun t => if t.linkState st = .up then t.modLink st Link.sendReport else t

/-- TEST (R192, R198). -/
def execTest (st : Station) (payload : List Byte) (s : State) : Host.Outcome State Fault Refusal :=
  awake s fun t => t.onStream st payload testPayload true (fun _ u => u) fun ws u => u.takeTest st ws

/-- TEST_START (R197). -/
def execTestStart (st : Station) (tag : Byte) (payload : List Byte) (s : State) : Host.Outcome State Fault Refusal :=
  request st tag 42 payload noArgs (fun _ t => judged (t.testStartVerdict st) t (t.testStartTaken st) []) s

/-- TEST_END (R188, R197). -/
def execTestEnd (st : Station) (tag : Byte) (payload : List Byte) (s : State) : Host.Outcome State Fault Refusal :=
  request st tag 43 payload noArgs (fun _ t => t.testEnd st) s

end Sys2Proof.Machine
end

