-- ==== Sys2Proof/Machine/Stops.lean ====
section
/-! DEFINITION. The Stop Controller (chapter 6): the emergency-stop chain, the local reset, the halt timer, release and
the stop record list. Commands CHAIN_SAMPLE, CHAIN_SPLIT_FAULT, HALT_TIMEOUT, STOP_REQUEST, RELEASE_STOP, READ_STOPS and
CLEAR_STOPS. -/

namespace Sys2Proof.Machine

/-! ### The chain (R114) -/

/-- The readings of a chain sample. -/
inductive ChainReading where
  | bothClosed | bothOpen | split
  deriving DecidableEq, Repr

/-- The reading of two channels, each yes for open. -/
def chainReading (aOpen bOpen : Bool) : ChainReading :=
  if aOpen ≠ bOpen then .split else if aOpen then .bothOpen else .bothClosed

/-- The chain state after a sample (R114). -/
def StopController.chainNext (k : StopController) (r : ChainReading) : ChainState :=
  match r with
  | .bothClosed => .closed
  | .bothOpen => .isOpen
  | .split => if 21 ≤ k.chainSplit + 1 ∨ k.chain = .fault then .fault else .split

/-- The Stop Controller with the chain judged; a chain that leaves CLOSED clears local-reset-seen (R114, R116). -/
def StopController.judgeChain (k : StopController) (r : ChainReading) : StopController :=
  { k with
    chain := k.chainNext r
    chainSplit := if r = .split then min 21 (k.chainSplit + 1) else 0
    localResetSeen := if k.chain = .closed ∧ k.chainNext r ≠ .closed then false else k.localResetSeen }

/-- Whether a sample raises ESTOP_CHAIN (R114). -/
def StopController.chainRaises (k : StopController) (r : ChainReading) : Bool :=
  (decide (r = .bothOpen) && decide (k.chain ≠ .isOpen)) ||
    (decide (r = .split) && decide (k.chainNext r = .fault) && decide (k.chain ≠ .fault))

/-- The chain part of a chain sample (R114). -/
def State.sampleChain (s : State) (r : ChainReading) : State :=
  if s.stop.chainRaises r then ({ s with stop := s.stop.judgeChain r }).raise .estopChain 3
  else { s with stop := s.stop.judgeChain r }

/-- The LOCAL_RESET part of a chain sample (R116): a press at level 3 with the chain CLOSED sets local-reset-seen. -/
def StopController.press (k : StopController) (pressed : Bool) : StopController :=
  { k with
    localReset := pressed
    localResetSeen :=
      if pressed ∧ k.localReset = false ∧ k.level = 3 ∧ k.chain = .closed then true else k.localResetSeen }

/-- A chain sample: the chain first, then the press (R114, R116; log entry 16). The chain part is left where
CHAIN_SPLIT_FAULT already took the SPLIT reading of this sample (log entry 2); an agreeing reading is judged all the
same. -/
def State.chainSample (s : State) (r : ChainReading) (pressed : Bool) : State :=
  let u := { s with taken := { s.taken with chain := false } }
  let t := if s.taken.chain ∧ r = .split then u else u.sampleChain r
  { t with stop := t.stop.press pressed }

/-! ### The halt timer (R113) -/

/-- Whether a drive is WAKING, ACTIVE or PARKING. -/
def State.anyPowered (s : State) : Bool := allAxes.any fun j => (s.driveState j).powered

/-- The halt timer runs out: IDLE, and HALT_TIMEOUT where a drive is not parked (R113). -/
def State.haltRunsOut (s : State) : State :=
  if s.anyPowered then ({ s with stop := { s.stop with haltTimer := none } }).raise .haltTimeout 3
  else { s with stop := { s.stop with haltTimer := none } }

/-- The halt timer at an update that begins while it is RUNNING (R113). -/
def State.countHalt (s : State) : State :=
  match s.stop.haltTimer with
  | none => s
  | some n => if 2000 ≤ n + 1 then s.haltRunsOut else { s with stop := { s.stop with haltTimer := some (n + 1) } }

/-! ### STOP_REQUEST and RELEASE_STOP (R112, R118 to R120) -/

/-- STOP_REQUEST is refused (R112). -/
def stopRequestVerdict (n : Nat) : Option Answer := if n < 1 ∨ 3 < n then refuse .badArg else none

/-- Whether a station owns an axis, in any mode. -/
def State.ownsAny (s : State) (st : Station) : Bool := allAxes.any fun j => decide ((s.auth.get j).owner = some st)

/-- The authority for a release at the level in force (R118). -/
def State.mayRelease (s : State) (st : Station) : Bool :=
  if s.stop.level = 1 then s.ownsAny st || s.holds st .play || s.holds st .release2
  else if s.stop.level = 2 then s.holds st .release2
  else s.holds st .release2 && s.stop.localResetSeen

/-- A zone named in one byte: the table in the high bit, the index below (section 10.6). -/
def ZoneId.byte (z : ZoneId) : Nat :=
  match z.table with
  | .set => z.index.val
  | .crew => 128 + z.index.val

/-- Whether an active HARD entry has its occupied flag set. -/
def State.standsOccupied (s : State) (z : ZoneId) : Bool :=
  (s.zone z).active && decide ((s.zone z).entry.kind = .hard) && (s.zone z).occupied

/-- The first standing condition that refuses a release, with its number and subject (R119, section 10.6). -/
def State.standing (s : State) : Option (Nat × Nat) :=
  if s.stop.chain ≠ .closed then some (0, 0)
  else
    match allChannels.find? fun c => decide ((s.zones.channels.get c).state = .fault) with
    | some c => some (1, c.val)
    | none =>
      match allZones.find? s.standsOccupied with
      | some z => some (2, z.byte)
      | none =>
        match allAxes.find? fun j => decide (s.driveState j = .fault) with
        | some j => some (3, j.val)
        | none => none

/-- RELEASE_STOP is refused (R118, R119). -/
def State.releaseStopVerdict (s : State) (st : Station) : Option Answer :=
  if s.stop.level = 0 then refuse .state
  else if s.mayRelease st = false then
    some ⟨.noRight, byte s.stop.level ++ flagByte s.stop.localResetSeen⟩
  else
    match s.standing with
    | some (k, x) => some ⟨.condition, byte k ++ byte x⟩
    | none => none

/-- The Stop Controller after a release (R120). -/
def StopController.released (k : StopController) : StopController :=
  { k with
    level := 0, primaryCause := none, primaryRecord := none, localResetSeen := false, haltTimer := none, memory := [],
    cut := false }

/-- RELEASE_STOP is taken (R20, R76, R120). -/
def State.releaseStopTaken (s : State) : State :=
  { s with
    stop := s.stop.released
    generator := { s.generator with held := false }
    auth := s.auth.map fun a => if a.mode = .manual then { a with command := .vel 0 } else a
    channels := s.channels.imap fun j c => if s.mode j = .manual then c.zeroTarget else c }

/-! ### The stop record list (R124, R125) -/

/-- The number of a cause: its place in the table of section 6.2 (R193). -/
def Cause.code (c : Cause) : Nat :=
  match c with
  | .start => 0
  | .estopChain => 1
  | .haltTimeout => 2
  | .driveFault _ => 3
  | .driveSilent _ => 4
  | .followingError _ => 5
  | .zoneOccupied _ => 6
  | .zoneOverrun _ _ => 7
  | .zoneBlock _ _ => 8
  | .zoneSpeed _ _ => 9
  | .presenceFault _ => 10
  | .linkLost _ => 11
  | .stopRequest _ => 12

/-- The zone of a cause. -/
def Cause.zone? (c : Cause) : Option ZoneId :=
  match c with
  | .zoneOccupied z | .zoneOverrun z _ | .zoneBlock z _ | .zoneSpeed z _ => some z
  | _ => none

/-- The axis of a cause. -/
def Cause.axis? (c : Cause) : Option Axis :=
  match c with
  | .driveFault j | .driveSilent j | .followingError j | .zoneOverrun _ j | .zoneBlock _ j | .zoneSpeed _ j => some j
  | _ => none

/-- The station of a cause. -/
def Cause.station? (c : Cause) : Option Station :=
  match c with
  | .linkLost st | .stopRequest st => some st
  | _ => none

/-- The presence channel of a cause. -/
def Cause.channel? (c : Cause) : Option Channel :=
  match c with
  | .presenceFault k => some k
  | _ => none

/-- Part 0 of a stop record (section 10.6). -/
def recordPart0 (r : StopRecord) : List Byte :=
  beBytes 5 r.timebase.toNat ++ byte r.cause.code ++ byte r.level ++ flagByte r.secondary ++
    optBytes 1 (r.cause.zone?.map ZoneId.byte) ++ optBytes 1 (r.cause.axis?.map fun j => j.val) ++
    optBytes 1 (r.cause.station?.map fun st => st.val) ++ optBytes 1 (r.cause.channel?.map fun c => c.val) ++
    optBytes 1 (r.playback.map fun x => x.1.val) ++ optBytes 4 (r.playback.map fun x => x.2)

/-- The bits of the entries of a list for which a test holds, the first in bit 0. -/
def bitsOf (bs : List Bool) : Nat := ((bs.zipIdx).map fun x => if x.1 then 2 ^ x.2 else 0).sum

/-- A whole-count setpoint in 4 bytes, 0 for an inactive axis (section 10.6; log entry 17). -/
def setpointBytes (x : Option Int) : List Byte := beInt 4 (x.getD 0)

/-- The axes of a five-axis part: 0 to 4 for the first, 5 to 9 for the second. -/
def halfAxes (second : Bool) : List Axis := if second then [5, 6, 7, 8, 9] else [0, 1, 2, 3, 4]

/-- Parts 1 to 4 of a stop record (section 10.6): a flag byte, then five setpoints; an absent part has bit 7 set and
absent setpoints. -/
def recordSetpoints (x : Option (Tab 10 (Option Int))) (second : Bool) : List Byte :=
  match x with
  | some t =>
    byte (bitsOf ((halfAxes second).map fun j => (t.get j).isNone)) ++
      (halfAxes second).flatMap fun j => setpointBytes (t.get j)
  | none => byte 128 ++ ones 20

/-- A part of a stop record. -/
def recordPart (r : StopRecord) (part : Nat) : List Byte :=
  if part = 0 then recordPart0 r
  else if part < 3 then recordSetpoints (some r.setpoints) (decide (part = 2))
  else recordSetpoints r.standstill (decide (part = 4))

/-- The answer to READ_STOPS (R124). -/
def State.readStops (s : State) (index part : Nat) : Answer :=
  if 7 < index ∨ 4 < part then ⟨.badArg, []⟩
  else
    match s.stop.records[index]? with
    | none => ⟨.state, []⟩
    | some r => ⟨.ok, beBytes 2 r.sequence ++ byte s.stop.records.length ++ recordPart r part⟩

/-- CLEAR_STOPS is refused (R125). -/
def State.clearStopsVerdict (s : State) (st : Station) : Option Answer :=
  if s.holds st .release2 = false then refuse .noRight else if 0 < s.stop.level then refuse .state else none

/-! ### The commands -/

/-- CHAIN_SAMPLE (R114, R116): whether ESTOP_A and ESTOP_B are open and LOCAL_RESET is pressed. -/
def execChainSample (aOpen bOpen pressed : Bool) (s : State) : Host.Outcome State Fault Refusal :=
  awake s fun t => t.chainSample (chainReading aOpen bOpen) pressed

/-- CHAIN_SPLIT_FAULT (R114): the SPLIT chain sample that brings the chain into FAULT, where this sample is that one (log
entry 2). -/
def execChainSplitFault (s : State) : Host.Outcome State Fault Refusal :=
  awake s fun t =>
    if t.stop.chainNext .split = .fault ∧ t.stop.chain ≠ .fault then
      ({ t with taken := { t.taken with chain := true } }).sampleChain .split
    else t

/-- HALT_TIMEOUT (R113): the update under way brings the halt timer to 2,000 (log entry 2). -/
def execHaltTimeout (s : State) : Host.Outcome State Fault Refusal :=
  awake s fun t =>
    match t.stop.haltTimer with
    | some n => if 2000 ≤ n + 1 then t.haltRunsOut else t
    | none => t

/-- STOP_REQUEST (R112). -/
def execStopRequest (st : Station) (tag : Byte) (payload : List Byte) (s : State) : Host.Outcome State Fault Refusal :=
  request st tag 18 payload oneByte
    (fun n t => judged (stopRequestVerdict n) t (t.raise (.stopRequest st) n) []) s

/-- RELEASE_STOP (R118, R119, R120). -/
def execReleaseStop (st : Station) (tag : Byte) (payload : List Byte) (s : State) : Host.Outcome State Fault Refusal :=
  request st tag 19 payload noArgs (fun _ t => judged (t.releaseStopVerdict st) t t.releaseStopTaken []) s

/-- READ_STOPS (R124). -/
def execReadStops (st : Station) (tag : Byte) (payload : List Byte) (s : State) : Host.Outcome State Fault Refusal :=
  request st tag 20 payload twoBytes (fun a t => (t, t.readStops a.1 a.2)) s

/-- CLEAR_STOPS (R125). -/
def execClearStops (st : Station) (tag : Byte) (payload : List Byte) (s : State) : Host.Outcome State Fault Refusal :=
  request st tag 21 payload noArgs
    (fun _ t => judged (t.clearStopsVerdict st) t { t with stop := { t.stop with records := [] } } []) s

end Sys2Proof.Machine
end

