-- ==== Sys2Proof/Machine/Marks.lean ====
section
/-! DEFINITION. The Mark Latch (07, sections 7.3 and 7.4): the commands MARK_INPUT, MARK, MARK_READ, MARK_CLEAR and
MARK_READER_TIMEOUT. -/

namespace Sys2Proof.Machine

/-! ### The latch at an update (R136, R141) -/

/-- The input lockout at an update (R136). -/
def State.countLockout (s : State) : State := { s with marks := { s.marks with lockout := s.marks.lockout - 1 } }

/-- The reader timer of one station at an update (R141). -/
def State.countReader (s : State) (st : Station) : State :=
  match s.marks.readers.get st with
  | none => s
  | some n =>
    if 200 ≤ n + 1 then s.removeReader st
    else { s with marks := { s.marks with readers := s.marks.readers.set st (some (n + 1)) } }

/-- The Mark Latch at an update. -/
def State.countMarks (s : State) : State := allStations.foldl State.countReader s.countLockout

/-! ### Reading the published mark (R139, R140, section 10.6) -/

/-- The source of a mark: 0 for INPUT, 1 to 4 for REQUEST from S0 to S3. -/
def MarkSource.code (m : MarkSource) : Nat :=
  match m with
  | .input => 0
  | .request st => st.val + 1

/-- A take position in 4 bytes: slot in the high 5 bits, count in the low 27. -/
def takePositionBytes (x : Option (TakeNo × Nat)) : List Byte :=
  optBytes 4 (x.map fun y => y.1.val * 134217728 + y.2)

/-- The two flag bytes of a mark: inactive axes, playing and recording present, user values present. -/
def markFlags (m : Mark) : Nat :=
  bitsOf (m.setpoints.list.map (fun x => x.isNone) ++ [m.playing.isSome, m.recording.isSome] ++
    m.userValues.list.map fun x => x.isSome)

/-- The three user values of a mark, 20 bits each, an absent one all ones; the last 4 bits are 0. -/
def userValueBytes (m : Mark) : List Byte :=
  beBytes 8 ((m.userValues.list.foldl (fun acc x => acc * 1048576 + x.getD 1048575) 0) * 16)

/-- Part 0 of a mark. -/
def markPart0 (m : Mark) : List Byte :=
  byte m.source.code ++ beBytes 5 m.timebase.toNat ++ beBytes 2 (markFlags m) ++ takePositionBytes m.playing ++
    takePositionBytes m.recording ++ userValueBytes m

/-- Parts 1 and 2 of a mark: five setpoints, 0 for an inactive axis. -/
def markSetpoints (m : Mark) (second : Bool) : List Byte :=
  (halfAxes second).flatMap fun j => setpointBytes (m.setpoints.get j)

/-- The reader timer of a station set to 0, the station being in the open-readers set. -/
def State.openReader (s : State) (st : Station) : State :=
  { s with marks := { s.marks with readers := s.marks.readers.set st (some 0) } }

/-- MARK_READ judged and taken (R139, R140). An open reader has a published mark to read. -/
def State.markRead (s : State) (st : Station) (part : Nat) : State × Answer :=
  if 2 < part then (s, ⟨.badArg, []⟩)
  else if part = 0 then
    match s.marks.published with
    | none => (s, ⟨.noTake, []⟩)
    | some m => (s.openReader st, ⟨.ok, markPart0 m⟩)
  else
    match s.marks.readers.get st, s.marks.published with
    | some _, some m =>
      if part = 1 then (s.openReader st, ⟨.ok, markSetpoints m false⟩)
      else (s.removeReader st, ⟨.ok, markSetpoints m true⟩)
    | _, _ => (s, ⟨.state, []⟩)

/-- MARK_CLEAR is refused (R142). -/
def State.markClearVerdict (s : State) (st : Station) : Option Answer :=
  if s.holds st .take = false then refuse .noRight else none

/-! ### The commands -/

/-- MARK_INPUT (R136, R137, R138): an edge of the MARK input from open to closed. -/
def execMarkInput (s : State) : Host.Outcome State Fault Refusal :=
  awake s fun t =>
    if t.marks.lockout = 0 then
      let u := t.latchMark .input
      { u with marks := { u.marks with lockout := 20 } }
    else t

/-- MARK (R137, R138). -/
def execMark (st : Station) (tag : Byte) (payload : List Byte) (s : State) : Host.Outcome State Fault Refusal :=
  request st tag 24 payload noArgs (fun _ t => (t.latchMark (.request st), ⟨.ok, []⟩)) s

/-- MARK_READ (R139, R140). -/
def execMarkRead (st : Station) (tag : Byte) (payload : List Byte) (s : State) : Host.Outcome State Fault Refusal :=
  request st tag 25 payload oneByte (fun n t => t.markRead st n) s

/-- MARK_CLEAR (R142). -/
def execMarkClear (st : Station) (tag : Byte) (payload : List Byte) (s : State) : Host.Outcome State Fault Refusal :=
  request st tag 26 payload noArgs
    (fun _ t => judged (t.markClearVerdict st) t { t with marks := { t.marks with count := 0 } } []) s

/-- MARK_READER_TIMEOUT (R141): the update under way brings a reader's timer to 200 (log entry 2). -/
def execMarkReaderTimeout (st : Station) (s : State) : Host.Outcome State Fault Refusal :=
  awake s fun t =>
    match t.marks.readers.get st with
    | some n => if 200 ≤ n + 1 then t.removeReader st else t
    | none => t

end Sys2Proof.Machine
end

