-- ==== Sys2Proof/Machine/Setpoint.lean ====
section
/-! DEFINITION. The setpoint step of an update: trim, candidates, the Zone Monitor's answer, boundaries, finished values and
standstill (01, R6 to R21; 05, R90 to R93). -/

namespace Sys2Proof.Machine

/-- Step 1 of an update: the trim offset of every axis in SEEK, PLAYBACK or PAUSED moves toward its demand (R19). -/
def State.moveTrims (s : State) : State :=
  { s with channels := s.channels.imap fun j c =>
      match c.limits with
      | some lim =>
        if (s.mode j).underTake then { c with trimOffset := trimToward c.trimOffset c.trimDemand lim.trimStep } else c
      | none => c }

/-- The lead of an axis, from its limits record (R171). -/
def State.lead (s : State) (j : Axis) : Nat :=
  match s.limits j with
  | some lim => lim.lead
  | none => 0

/-- The path position the engine supplies to an axis: at the running-start elapsed while SEEKING or READY (R172), at the
elapsed count while RUNNING (R178), each with the axis's lead. -/
def State.supplied (s : State) (j : Axis) : Option Int :=
  match s.play.state with
  | .seeking c => (s.takes.closedTake c.hold.slot).map fun t => s.takes.pathPosition t j (c.runStart + s.lead j)
  | .ready c => (s.takes.closedTake c.hold.slot).map fun t => s.takes.pathPosition t j (c.runStart + s.lead j)
  | .running h e => (s.takes.closedTake h.slot).map fun t => s.takes.pathPosition t j (e + s.lead j)
  | .idle => none
  | .paused _ _ => none

/-- The seek target of an axis: the path position supplied plus the trim offset (R9, R172). -/
def State.seekTarget (s : State) (j : Axis) : Option Int :=
  (s.supplied j).map fun x => x + ofCount (s.channels.get j).trimOffset

/-- The targets the engine supplies: a position target at the seek target in SEEK, clamped when it is set, and the path
position in PLAYBACK (R5, R172, R178). -/
def State.supplyTargets (s : State) : State :=
  { s with channels := s.channels.imap fun j c =>
      match c.moving, s.supplied j with
      | some m, some x =>
        if s.mode j = .seek then
          { c with moving := some { m with target := .position (clampTarget c.limits (x + ofCount c.trimOffset)) none } }
        else if s.mode j = .playback then { c with moving := some { m with target := .path x } }
        else c
      | _, _ => c }

/-- Whether the demanded velocity of an axis is 0 whatever its target (R10). -/
def zeroDemand (a : AuthEntry) (held : Bool) : Bool :=
  held || decide (a.mode = .idle) || decide (a.mode = .paused) || (decide (a.mode = .manual) && a.stale)

/-- The cap of R11 in percent. -/
def capOf (j : Axis) (a : AuthEntry) (c : AxisChannel) (lim : Limits) : Nat :=
  min (if j.val < 7 then min 100 c.slowCap else 100) (if a.mode = .seek then lim.seekPercent else 100)

/-- Whether the landing case of R9 applies to a position target. -/
def lands (t p v : Int) (lim : Limits) (limit : Nat) : Bool :=
  decide ((t - p).natAbs ≤ lim.aAccel) && decide (v.natAbs ≤ lim.aAccel) && decide ((t - p).natAbs ≤ limit)

/-- The demanded velocity of a target in force, before the cap (R8, R9). A path position demands nothing outside
PLAYBACK. -/
def targetDemand (m : Moving) (lim : Limits) : Int :=
  match m.target with
  | .velocity n => velocityDemand n lim.vmax
  | .position t _ => positionDemand t m.p lim.aAccel
  | .path _ => 0

/-- The candidate velocity of the demand, cap and acceleration stages (R8 to R12). -/
def demandCandidate (j : Axis) (a : AuthEntry) (c : AxisChannel) (m : Moving) (lim : Limits) (held : Bool) : Int :=
  let limit := cappedSpeed lim.vmax (capOf j a c lim)
  let zero := zeroDemand a held
  let dem := if zero then 0 else clamp (-(limit : Int)) limit (targetDemand m lim)
  let braking := zero || decide (limit < m.v.natAbs)
  match m.target with
  | .position t _ =>
    if !zero && lands t m.p m.v lim limit then t - m.p else accelerate m.v dem lim.aAccel lim.aStop braking
  | _ => accelerate m.v dem lim.aAccel lim.aStop braking

/-- The candidate velocity of a PLAYBACK step: the path position plus the trim offset, clamped to the soft limits, less
the setpoint (R17). -/
def pathCandidate (c : AxisChannel) (m : Moving) (lim : Limits) (x : Int) : Int :=
  clamp (ofCount lim.low) (ofCount lim.high) (x + ofCount c.trimOffset) - m.p

/-- Whether an axis takes its step from the path: PLAYBACK with the stop flag CLEAR (R17). -/
def followsPath (a : AuthEntry) (held : Bool) : Bool := decide (a.mode = .playback) && !held

/-- The candidate velocity of an ACTIVE axis at step 2 of an update (R6). -/
def State.candidate (s : State) (j : Axis) : Option Int :=
  match (s.channels.get j).moving, (s.channels.get j).limits with
  | some m, some lim =>
    match m.target with
    | .path x =>
      if followsPath (s.auth.get j) s.generator.held then some (pathCandidate (s.channels.get j) m lim x)
      else some (demandCandidate j (s.auth.get j) (s.channels.get j) m lim s.generator.held)
    | _ => some (demandCandidate j (s.auth.get j) (s.channels.get j) m lim s.generator.held)
  | _, _ => none

/-! ### The Zone Monitor's answer (R90 to R93) -/

/-- The reach interval of a motion axis: that of R90 for an axis offered with a candidate, the point of its zone position
for another, none for an axis without a zone position. -/
def State.reachOf (s : State) (cands : Tab 10 (Option Int)) (m : Motion) : Option (Int × Int) :=
  match (s.channels.get (motionAxis m)).moving, (s.channels.get (motionAxis m)).limits, cands.get (motionAxis m) with
  | some mo, some lim, some vc => some (reachInterval mo.p vc lim.aStop)
  | _, _, _ => (s.zonePosition m).map fun p => (p, p)

/-- Whether a reach interval meets a range; an axis without a zone position counts as meeting every range (R89, R91). -/
def meets (reach : Option (Int × Int)) (range : Int × Int) : Bool :=
  match reach with
  | none => true
  | some (a, b) => decide (a ≤ ofCount range.2) && decide (ofCount range.1 ≤ b)

/-- Whether the reach of every axis ranged in an entry meets its range (R91, R93). -/
def ZoneEntry.metBy (e : ZoneEntry) (reach : Tab 7 (Option (Int × Int))) : Bool :=
  allMotion.all fun m =>
    match e.ranges.get m with
    | none => true
    | some r => meets (reach.get m) r

/-- The boundary that an active HARD entry puts before a motion axis at setpoint `p`, where it blocks the axis: the gap
from `p` to one count short of the near edge (R14, R91). -/
def State.zoneBoundary (s : State) (reach : Tab 7 (Option (Int × Int))) (m : Motion) (p : Int) (z : ZoneId) :
    Option Boundary :=
  let y := s.zone z
  match y.entry.ranges.get m with
  | none => none
  | some (lo, hi) =>
    if y.active ∧ y.entry.kind = .hard ∧ y.entry.metBy reach then
      if p < ofCount lo then some ⟨ofCount (lo - 1) - p, some z⟩
      else if ofCount hi < p then some ⟨p - ofCount (hi + 1), some z⟩
      else none
    else none

/-- The boundaries of the zones that block a motion axis, SET 0 to 7 first and CREW 0 to 7 after (R91). -/
def State.zoneBoundaries (s : State) (reach : Tab 7 (Option (Int × Int))) (m : Motion) (p : Int) : List Boundary :=
  allZones.filterMap (s.zoneBoundary reach m p)

/-- The SLOW entries that apply to the update and range a motion axis, in the order of the tables (R93). -/
def State.slowZones (s : State) (reach : Tab 7 (Option (Int × Int))) (m : Motion) : List (ZoneId × Nat) :=
  (allZones.filter fun z =>
    (s.zone z).active && decide ((s.zone z).entry.kind = .slow) && ((s.zone z).entry.ranges.get m).isSome &&
      (s.zone z).entry.metBy reach).map fun z => (z, (s.zone z).entry.cap)

/-- The entry with the smallest cap, the first of them among equal caps (R93). -/
def smallestCap : List (ZoneId × Nat) → Option (ZoneId × Nat)
  | [] => none
  | x :: rest =>
    match smallestCap rest with
    | none => some x
    | some y => if x.2 ≤ y.2 then some x else some y

/-- The SLOW answer for an axis: the applying entry with the smallest cap; none for a lens axis (R27, R93). -/
def State.slowAnswer (s : State) (reach : Tab 7 (Option (Int × Int))) (j : Axis) : Option (ZoneId × Nat) :=
  match motionOf j with
  | some m => smallestCap (s.slowZones reach m)
  | none => none

/-! ### Boundaries and finished values -/

/-- The soft limit ahead of a candidate (R14). -/
def softBoundary (p vc : Int) (lim : Limits) : List Boundary :=
  if 0 < vc then [⟨ofCount lim.high - p, none⟩] else if vc < 0 then [⟨p - ofCount lim.low, none⟩] else []

/-- The zone boundaries ahead of an axis: none for a lens axis (R27) and none for a candidate of 0 (R14). -/
def State.zonesAhead (s : State) (reach : Tab 7 (Option (Int × Int))) (j : Axis) (p vc : Int) : List Boundary :=
  match motionOf j with
  | some m => if vc = 0 then [] else s.zoneBoundaries reach m p
  | none => []

/-- ZONE_SPEED for a PLAYBACK motion axis whose candidate exceeds its capped speed (R18). The candidate is the path candidate
of R17, also where a HARD zone has reduced the step (log entry 41). -/
def speedCauses (j : Axis) (vc : Int) (lim : Limits) (slow : Option (ZoneId × Nat)) : List Cause :=
  match slow with
  | some (z, cap) => if cappedSpeed lim.vmax cap < vc.natAbs then [.zoneSpeed z j] else []
  | none => []

/-- The finished velocity of an ACTIVE axis and the causes its step raises: steps 3 and 4 of an update (R13 to R18). DEDUCED:
the speed check of a PLAYBACK axis takes the candidate as R17 forms it and not the step a HARD zone has left of it (log
entry 41). -/
def State.stepOf (s : State) (cands : Tab 10 (Option Int)) (reach : Tab 7 (Option (Int × Int))) (j : Axis) :
    Option StepOut :=
  match (s.channels.get j).moving, (s.channels.get j).limits, cands.get j with
  | some m, some lim, some vc =>
    if followsPath (s.auth.get j) s.generator.held then
      let out := playbackStage j m.v vc lim.aStop (s.zonesAhead reach j m.p vc)
      some ⟨insideLimits m.p lim out.v, out.causes ++ speedCauses j vc lim (s.slowAnswer reach j)⟩
    else
      let out := boundaryStage j m.v vc lim.aStop (softBoundary m.p vc lim ++ s.zonesAhead reach j m.p vc)
      some ⟨insideLimits m.p lim out.v, out.causes⟩
  | _, _, _ => none

/-- The SLOW caps in force from this update on: the answer's cap for every offered motion axis (R13, R93). -/
def State.takeCaps (s : State) (reach : Tab 7 (Option (Int × Int))) : State :=
  { s with channels := s.channels.imap fun j c =>
      match c.moving, motionOf j with
      | some _, some _ =>
        { c with slowCap := match s.slowAnswer reach j with
            | some (_, cap) => cap
            | none => 100 }
      | _, _ => c }

/-- Step 5 of an update: the finished setpoints and velocities (R16). -/
def State.finishSteps (s : State) (steps : Tab 10 (Option StepOut)) : State :=
  { s with channels := s.channels.imap fun j c =>
      match c.moving, steps.get j with
      | some m, some o => { c with moving := some { m with p := m.p + o.v, v := o.v } }
      | _, _ => c }

/-- The causes raised by the steps of all axes, in ascending order of axis. -/
def stepCauses (steps : Tab 10 (Option StepOut)) : List Cause :=
  allAxes.flatMap fun j =>
    match steps.get j with
    | some o => o.causes
    | none => []

/-- The causes the generator raises, each at level 1 (R15, R17, R18, R20). -/
def State.raiseSteps (s : State) (cs : List Cause) : State := cs.foldl (fun t c => t.raise c 1) s

/-- The candidates of an update (R6, step 2). -/
def State.candidates (s : State) : Tab 10 (Option Int) := Tab.ofFn s.candidate

/-- The reach intervals of an update (R90). -/
def State.reaches (s : State) : Tab 7 (Option (Int × Int)) := Tab.ofFn (s.reachOf s.candidates)

/-- The steps of all axes (R6, steps 3 and 4). -/
def State.steps (s : State) : Tab 10 (Option StepOut) := Tab.ofFn (s.stepOf s.candidates s.reaches)

/-- Steps 1 to 5 of an update (R6). The steps are computed from the state the update finds; a cause the generator raises
at step 4 takes effect at once, and the step is still finished as computed. -/
def State.generate (s : State) : State :=
  let t := s.moveTrims.supplyTargets
  ((t.takeCaps t.reaches).raiseSteps (stepCauses t.steps)).finishSteps t.steps

/-- Whether every ACTIVE axis has a finished velocity of 0 (R21). -/
def State.atRest (s : State) : Bool :=
  allAxes.all fun j =>
    match (s.channels.get j).moving with
    | some m => decide (m.v = 0)
    | none => true

/-- The Stop Controller takes a standstill report: the primary record's standstill part is filled at level 1 or 2, if the
record is still in the list and the part is absent (R117). -/
def StopController.standstill (k : StopController) (setpoints : Tab 10 (Option Int)) : StopController :=
  if k.level = 1 ∨ k.level = 2 then
    { k with records := k.records.map fun r =>
        if some r.sequence = k.primaryRecord ∧ r.standstill = none then { r with standstill := some setpoints } else r }
  else k

/-- The standstill test of step 6 (R21). -/
def State.standstillTest (s : State) : State :=
  if s.generator.held ∧ s.generator.standstillReported = false ∧ s.atRest then
    { s with
      generator := ⟨true, true⟩
      stop := s.stop.standstill s.setpointsNow }
  else s

end Sys2Proof.Machine
end

