-- ==== Sys2Proof/Machine/Playback.lean ====
section
/-! DEFINITION. The Playback Engine (chapter 9): its work at an update, and the commands TIMED_START, CUE, GO, RESUME,
STOP_PLAY, ABANDON, PLAY_SETUP and COUNTERS_CLEAR. -/

namespace Sys2Proof.Machine

/-- The state with another engine state. -/
def State.setEngine (s : State) (e : EngineState) : State := { s with play := { s.play with state := e } }

/-! ### Starting (R175 to R178) -/

/-- Running begins: the engine is RUNNING from the running-start elapsed, and the axes of the set pass to PLAYBACK
(R178). -/
def State.beginRunning (s : State) (c : Cue) : State :=
  (s.setEngine (.running c.hold c.runStart)).setModes (s.takeAxes c.hold.slot) .playback

/-- A timed start fails (R176). -/
def State.failCue (s : State) (c : Cue) (why : CueFail) : State :=
  ((s.dropTake c.hold).post c.hold.station fun n => { n with cueFailed := some (c.hold.slot, why) }).judgeZones

/-- Whether the timed start of a cue is due: the timebase is at or past its effective start (R175). -/
def State.startDue (s : State) (c : Cue) : Bool :=
  match c.start with
  | some x => decide (x.toNat ≤ s.time.now.toNat)
  | none => false

/-- The timed start judged, where it is due (R175, R176). -/
def State.judgeStart (s : State) : State :=
  match s.play.state with
  | .seeking c => if s.startDue c then s.failCue c .notAtStart else s
  | .ready c => if s.startDue c then (if c.go then s.beginRunning c else s.failCue c .noGo) else s
  | .idle => s
  | .running _ _ => s
  | .paused _ _ => s

/-- The engine as an update begins (R175, R177, R178): a timed start judged, an untimed start after GO, or the elapsed
count raised. Where TIMED_START already began the run of this update, the count stays (log entry 2). -/
def State.engineBegin (s : State) : State :=
  match s.play.state with
  | .running h e => if s.taken.running then s else s.setEngine (.running h (e + 1))
  | .ready c => if c.start = none ∧ c.go then s.beginRunning c else s.judgeStart
  | .seeking _ => s.judgeStart
  | .idle => s
  | .paused _ _ => s

/-- The mark of a run begun ahead of its update is dropped. -/
def State.dropTaken (s : State) : State := { s with taken := { s.taken with running := false } }

/-! ### Arrival and the end of the take (R25, R172, R179) -/

/-- Whether an axis has arrived: its setpoint equals its seek target and its velocity is 0 (R25). -/
def State.arrived (s : State) (j : Axis) : Bool :=
  match (s.channels.get j).moving, s.seekTarget j with
  | some m, some t => decide (m.p = t) && decide (m.v = 0)
  | _, _ => false

/-- The arrivals judged at the hand-off of an update (R172). -/
def State.judgeArrival (s : State) : State :=
  match s.play.state with
  | .seeking c =>
    if (axesOf (s.takeAxes c.hold.slot)).all s.arrived then s.setEngine (.ready c) else s
  | .ready c =>
    if (axesOf (s.takeAxes c.hold.slot)).all s.arrived then s else s.setEngine (.seeking c)
  | .idle => s
  | .running _ _ => s
  | .paused _ _ => s

/-- Whether every axis of the held take stands at its last sample at an elapsed count (R179). -/
def State.atEnd (s : State) (h : Hold) (e : Nat) : Bool :=
  match s.takes.closedTake h.slot with
  | some t => (axesOf t.axes).all fun j => decide ((t.count - 1) * t.divisor ≤ e + s.lead j)
  | none => false

/-- The velocities of the axes of a set become 0 (R179). -/
def State.haltAxes (s : State) (axes : AxisSet) : State :=
  { s with channels := s.channels.imap fun j c =>
      if axes.getLsbD j.val then { c with moving := c.moving.map fun m => { m with v := 0 } } else c }

/-- The end of a playback: the engine is IDLE, the axes return, and PLAY_ENDED is posted to the cueing station (R179,
R182, R184). -/
def State.endPlay (s : State) (h : Hold) (why : PlayEnd) (elapsed : Option Nat) : State :=
  ((s.dropTake h).post h.station fun n => { n with playEnded := some (h.slot, why, elapsed) }).judgeZones

/-- The end of the take judged at the hand-off of an update (R179). -/
def State.judgeEnd (s : State) : State :=
  match s.play.state with
  | .running h e =>
    if s.atEnd h e then (s.haltAxes (s.takeAxes h.slot)).endPlay h .atEnd (some e) else s
  | .idle => s
  | .seeking _ => s
  | .ready _ => s
  | .paused _ _ => s

/-! ### CUE (R168 to R170) -/

/-- Whether an envelope breaks the limits record in force (R169). -/
def State.breaksLimits (s : State) (t : Take) (j : Axis) : Bool :=
  match s.limits j, t.data with
  | some lim, some d =>
    decide ((d.envelope.get j).minimum < ofCount lim.low) || decide (ofCount lim.high < (d.envelope.get j).maximum) ||
      decide (lim.vmax < (d.envelope.get j).velocity + lim.trimStep * 256)
  | _, _ => true

/-- Whether a lens generation of a take differs from the current one (R169). A generation that is absent counts as
differing (log entry 38). -/
def State.lensChanged (s : State) (t : Take) : Bool :=
  allLenses.any fun l =>
    t.axes.getLsbD (lensAxis l).val &&
      decide ((t.data.bind fun d => d.lens.get l) ≠ some (.value (s.maps.get l).generation))

/-- The position of a motion axis for the occupancy question of a cue or a resume: on the path for an axis of the take,
with its trim where `trim` says so, and the zone position for another (R94, R169, R181). -/
def State.startPosition (s : State) (t : Take) (x : Nat) (trim : Bool) (m : Motion) : Option Int :=
  if t.axes.getLsbD (motionAxis m).val then
    some (s.takes.pathPosition t (motionAxis m) (x + s.lead (motionAxis m)) +
      if trim then ofCount (s.channels.get (motionAxis m)).trimOffset else 0)
  else s.zonePosition m

/-- Whether a set of positions lies inside an active HARD entry (R94). -/
def State.insideZone (s : State) (pos : Motion → Option Int) : Bool :=
  allZones.any fun z =>
    (s.zone z).active && decide ((s.zone z).entry.kind = .hard) && (s.zone z).entry.occupiedAt pos

/-- The effective start of a timed cue (R168). -/
def State.effectiveStart (s : State) (x : Time) : Time := x + BitVec.ofNat 40 s.play.cueOffset

/-- The missed-cue counter one higher (R185). -/
def State.countMissed (s : State) : State := { s with play := { s.play with missedCue := min 65535 (s.play.missedCue + 1) } }

/-- The late-cue counter one higher (R185). -/
def State.countLate (s : State) : State := { s with play := { s.play with lateCue := min 65535 (s.play.lateCue + 1) } }

/-- CUE is taken (R170). -/
def State.cueTaken (s : State) (st : Station) (i : TakeNo) (t : Take) (start : Option Time) (ignore : Bool) : State :=
  (((s.setEngine (.seeking ⟨⟨i, st, ignore⟩, start, false, 0⟩)).setModes t.axes .seek).supplyTargets).judgeZones

/-- Whether an axis of a take is not the requester's in MANUAL, or its drive is not ACTIVE (R168). -/
def State.cueBarred (s : State) (st : Station) (j : Axis) : Bool :=
  decide ((s.auth.get j).owner ≠ some st) || decide (s.mode j ≠ .manual) || decide (s.driveState j ≠ .active)

/-- The checks of a CUE from the seventh on (R168). -/
def State.cueClosed (s : State) (st : Station) (i : TakeNo) (t : Take) (start : Option Time) (ignore : Bool) :
    State × Answer :=
  if (axesOf t.axes).any (s.cueBarred st) then (s, ⟨.notOwner, []⟩)
  else if (axesOf t.axes).any (s.breaksLimits t) then (s, ⟨.outOfLimits, []⟩)
  else if ignore = false ∧ s.lensChanged t then (s, ⟨.lensChanged, []⟩)
  else if start.isSome ∧ s.time.drift then (s, ⟨.notSynced, []⟩)
  else if start.any fun x => decide (x.toNat ≤ s.time.now.toNat) then (s.countLate, ⟨.late, []⟩)
  else if s.insideZone (s.startPosition t 0 false) then (s, ⟨.occupied, []⟩)
  else (s.cueTaken st i t start ignore, ⟨.ok, []⟩)

/-- CUE judged and taken (R168, R170). -/
def State.cue (s : State) (st : Station) (n : Nat) (start : Option Time) (ignore : Bool) : State × Answer :=
  if s.holds st .play = false then (s, ⟨.noRight, []⟩)
  else
    match slotOf n with
    | none => (s, ⟨.badArg, []⟩)
    | some i =>
      if s.play.state ≠ .idle then (s.countMissed, ⟨.busy, []⟩)
      else if 0 < s.stop.level then (s, ⟨.stopped, []⟩)
      else
        match s.takes.slots.get i with
        | .empty => (s, ⟨.noTake, []⟩)
        | .recording _ => (s, ⟨.state, []⟩)
        | .loading _ _ => (s, ⟨.state, []⟩)
        | .closed t _ => s.cueClosed st i t (start.map s.effectiveStart) ignore

/-! ### GO (R173, R174) -/

/-- The beginning of the GO window of a timed cue (R173). -/
def State.windowStart (s : State) (x : Time) : Nat := x.toNat - s.play.goLead

/-- The cue held in SEEKING or READY. -/
def EngineState.cue? (e : EngineState) : Option Cue :=
  match e with
  | .seeking c => some c
  | .ready c => some c
  | .idle => none
  | .running _ _ => none
  | .paused _ _ => none

/-- Whether an engine state is SEEKING. -/
def EngineState.isSeeking (e : EngineState) : Bool :=
  match e with
  | .seeking _ => true
  | _ => false

/-- GO is refused (R173, R174). -/
def State.goVerdict (s : State) (st : Station) : Option Answer :=
  if s.holds st .go = false then refuse .noRight
  else
    match s.play.state.cue? with
    | none => refuse .state
    | some c =>
      match c.start with
      | some x =>
        if s.time.now.toNat < s.windowStart x then refuse .early
        else if x.toNat ≤ s.time.now.toNat then refuse .late
        else none
      | none => if s.play.state.isSeeking then refuse .early else none

/-- GO is taken: GO-received is set. -/
def State.goTaken (s : State) : State :=
  match s.play.state with
  | .seeking c => s.setEngine (.seeking { c with go := true })
  | .ready c => s.setEngine (.ready { c with go := true })
  | .idle => s
  | .running _ _ => s
  | .paused _ _ => s

/-! ### RESUME (R181) -/

/-- RESUME judged and taken (R181). -/
def State.resume (s : State) (st : Station) : State × Answer :=
  if s.holds st .play = false then (s, ⟨.noRight, []⟩)
  else
    match s.play.state with
    | .paused h e =>
      if 0 < s.stop.level then (s, ⟨.stopped, []⟩)
      else if s.linkState h.station ≠ .up ∨
          (axesOf (s.takeAxes h.slot)).any fun j => decide (s.driveState j ≠ .active) then (s, ⟨.state, []⟩)
      else if (s.takes.closedTake h.slot).any fun t => s.insideZone (s.startPosition t e true) then
        (s, ⟨.occupied, []⟩)
      else
        ((((s.setEngine (.seeking ⟨h, none, false, e⟩)).setModes (s.takeAxes h.slot) .seek).supplyTargets).judgeZones,
          ⟨.ok, []⟩)
    | .idle => (s, ⟨.state, []⟩)
    | .seeking _ => (s, ⟨.state, []⟩)
    | .ready _ => (s, ⟨.state, []⟩)
    | .running _ _ => (s, ⟨.state, []⟩)

/-! ### STOP_PLAY and ABANDON (R182, R184) -/

/-- STOP_PLAY judged and taken (R182). -/
def State.stopPlay (s : State) (st : Station) : State × Answer :=
  if s.holds st .play = false then (s, ⟨.noRight, []⟩)
  else
    match s.play.state with
    | .idle => (s, ⟨.state, []⟩)
    | .seeking c => (s.endPlay c.hold .stopped none, ⟨.ok, []⟩)
    | .ready c => (s.endPlay c.hold .stopped none, ⟨.ok, []⟩)
    | .running h e => (s.endPlay h .stopped (some e), ⟨.ok, []⟩)
    | .paused h e => (s.endPlay h .stopped (some e), ⟨.ok, []⟩)

/-- ABANDON judged and taken (R184). -/
def State.abandon (s : State) (st : Station) : State × Answer :=
  if s.holds st .play = false then (s, ⟨.noRight, []⟩)
  else
    match s.play.state with
    | .paused h e => (s.endPlay h .abandoned (some e), ⟨.ok, []⟩)
    | .idle => (s, ⟨.state, []⟩)
    | .seeking _ => (s, ⟨.state, []⟩)
    | .ready _ => (s, ⟨.state, []⟩)
    | .running _ _ => (s, ⟨.state, []⟩)

/-! ### PLAY_SETUP and COUNTERS_CLEAR (R167, R185) -/

/-- PLAY_SETUP is refused (R167). -/
def State.playSetupVerdict (s : State) (st : Station) (offset lead : Nat) : Option Answer :=
  if s.holds st .config = false then refuse .noRight
  else if 1000000 < offset ∨ 1000000 < lead then refuse .badArg
  else none

/-- COUNTERS_CLEAR is refused (R185). -/
def State.countersClearVerdict (s : State) (st : Station) : Option Answer :=
  if s.holds st .play = false then refuse .noRight else none

/-- COUNTERS_CLEAR is taken (R185). -/
def State.countersClearTaken (s : State) : State :=
  { s with
    play := { s.play with missedCue := 0, lateCue := 0 }
    links := s.links.map fun l => { l with crcErrors := 0 } }

/-! ### The commands -/

/-- Whether the state's engine runs a take that was not running in an earlier state. -/
def State.beganRun (s before : State) : Bool :=
  match before.play.state, s.play.state with
  | .ready _, .running _ _ => true
  | _, _ => false

/-- TIMED_START (R175, R176): the update under way judges a timed start that is due (log entry 2). -/
def execTimedStart (s : State) : Host.Outcome State Fault Refusal :=
  awake s fun t =>
    let u := t.judgeStart
    if u.beganRun t then { u with taken := { u.taken with running := true } } else u

/-- CUE (R168, R169, R170). -/
def execCue (st : Station) (tag : Byte) (payload : List Byte) (s : State) : Host.Outcome State Fault Refusal :=
  request st tag 34 payload cueArgs (fun a t => t.cue st a.1 a.2.1 a.2.2) s

/-- GO (R173, R174). -/
def execGo (st : Station) (tag : Byte) (payload : List Byte) (s : State) : Host.Outcome State Fault Refusal :=
  request st tag 35 payload noArgs (fun _ t => judged (t.goVerdict st) t t.goTaken []) s

/-- RESUME (R181). -/
def execResume (st : Station) (tag : Byte) (payload : List Byte) (s : State) : Host.Outcome State Fault Refusal :=
  request st tag 36 payload noArgs (fun _ t => t.resume st) s

/-- STOP_PLAY (R182). -/
def execStopPlay (st : Station) (tag : Byte) (payload : List Byte) (s : State) : Host.Outcome State Fault Refusal :=
  request st tag 37 payload noArgs (fun _ t => t.stopPlay st) s

/-- ABANDON (R184). -/
def execAbandon (st : Station) (tag : Byte) (payload : List Byte) (s : State) : Host.Outcome State Fault Refusal :=
  request st tag 38 payload noArgs (fun _ t => t.abandon st) s

/-- PLAY_SETUP (R167). -/
def execPlaySetup (st : Station) (tag : Byte) (payload : List Byte) (s : State) : Host.Outcome State Fault Refusal :=
  request st tag 39 payload playSetupArgs
    (fun a t => judged (t.playSetupVerdict st a.1 a.2) t
      { t with play := { t.play with cueOffset := a.1, goLead := a.2 } } []) s

/-- COUNTERS_CLEAR (R185). -/
def execCountersClear (st : Station) (tag : Byte) (payload : List Byte) (s : State) :
    Host.Outcome State Fault Refusal :=
  request st tag 40 payload noArgs (fun _ t => judged (t.countersClearVerdict st) t t.countersClearTaken []) s

end Sys2Proof.Machine
end

