-- ==== Sys2Proof/Machine/Start.lean ====
section
/-! DEFINITION. Start after power-on and system reset (11, section 11.3; 08, R146): the commands POWER_ON and SYSRESET. -/

namespace Sys2Proof.Machine

/-! ### A flash write abandoned (R146, R199, R201) -/

/-- Whether an operation is a write. -/
def FlashKind.writes (k : FlashKind) : Bool :=
  match k with
  | .saveTake => true
  | .saveConfig => true
  | .loadTake => false

/-- The flash as an abandoned write leaves it: in the sector it was in, erased, as many bytes of the image's body as had
been written, a free value (log entry 8), and no end record. A save of a take may not have reached its sector yet. -/
def abandoned (flash : List Host.Cell) (op : FlashOp) (n : Nat) : List Host.Cell :=
  let part := sectorPart op.body op.done
  if op.kind.writes ∧ op.done < op.reached then
    if op.kind = .saveTake ∧ n % (part.length + 2) = part.length + 1 then flash
    else writeSector flash (op.first + op.done) (part.take (n % (part.length + 2)))
  else flash

/-- The flash at a start. -/
def State.flashAtStart (s : State) : List Host.Cell :=
  match s.flashPort with
  | some op => abandoned s.flash op (Config.flashProgress s.freeCount)
  | none => s.flash

/-- The counter of free values once a start has used one for the write it abandons. -/
def State.freeNext (s : State) : Nat := if s.flashPort.isSome then s.freeCount + 1 else s.freeCount

/-! ### The Take Store at system reset (R146) -/

/-- A LOADING slot becomes EMPTY, its blocks at the tail of the free list. -/
def TakeStore.endLoading (ts : TakeStore) (i : TakeNo) : TakeStore :=
  match ts.slots.get i with
  | .loading _ blocks => { ts with slots := ts.slots.set i .empty, freeList := ts.freeList ++ blocks }
  | _ => ts

/-- The Take Store after a system reset: a RECORDING take closed INTERRUPTED, and every LOADING slot EMPTY. -/
def State.takesAtReset (s : State) : TakeStore := allSlots.foldl TakeStore.endLoading (s.closeTake .interrupted).takes

/-! ### The stored configuration restored (R202) -/

/-- The commissioning state of an axis at start (R1). -/
def ConfigImage.commissioning (c : ConfigImage) (j : Axis) : Commissioning :=
  match c.limits.get j with
  | none => .unset
  | some _ =>
    match lensOf j with
    | none => .ready
    | some l => if (c.maps.get l).map.isSome then .ready else .limited

/-- A state with a valid image restored (R1, R28, R61, R82, R86, R128, R166, R202). -/
def State.restored (s : State) (c : ConfigImage) : State :=
  { s with
    stations := c.stations.map fun x => ⟨x.1, x.2, 0, 0⟩
    channels := Tab.ofFn fun j => { AxisChannel.unset with limits := c.limits.get j, commissioning := c.commissioning j }
    maps := c.maps
    zones := { s.zones with
      debounce := c.debounce
      setTable := c.setTable.map fun e => ⟨e, false, false⟩
      crewTable := c.crewTable.map fun e => ⟨e, false, false⟩ }
    time := { s.time with settings := c.sync }
    play := { s.play with cueOffset := c.cueOffset, goLead := c.goLead }
    configDefaulted := false }

/-- Start (R203): every block at its reset values with START raised, the configuration image read and judged, and the
zones judged. The flash, the Take Store given, the counter of free values and the commands that wait are kept. -/
def State.start (s : State) (takes : TakeStore) : State :=
  let t : State :=
    { State.reset with
      flash := s.flashAtStart, takes := takes, freeCount := s.freeNext, pending := s.pending }
  match readConfig t.flash with
  | none => t
  | some c => (t.restored c).judgeZones

/-! ### The commands -/

/-- The part powered on while SYSRESET is asserted (R203): what the loss of power took is gone, CUT is held asserted, and
the start waits for the release (log entry 26). -/
def State.heldAtPowerOn (s : State) : State :=
  { State.reset with flash := s.flashAtStart, freeCount := s.freeNext, pending := s.pending, sysreset := true }

/-- POWER_ON (R203): start with an empty directory and every block free (R143, R145), once SYSRESET is not asserted. -/
def execPowerOn (s : State) : Host.Outcome State Fault Refusal :=
  .next (if s.sysreset then s.heldAtPowerOn else s.start TakeStore.atPowerOn)

/-- SYSRESET (R203): asserted, the part holds CUT asserted and does nothing else; released after being asserted, it
starts with the directory and the blocks kept (R146). -/
def execSysreset (asserted : Bool) (s : State) : Host.Outcome State Fault Refusal :=
  .next (if asserted then { s with sysreset := true, stop := { s.stop with cut := true } }
    else if s.sysreset then s.start s.takesAtReset else s)

end Sys2Proof.Machine
end

