-- ==== Sys2Proof/Machine/Time.lean ====
section
/-! DEFINITION. The Timebase Unit (07, sections 7.1 and 7.2): the commands TIMEBASE_TICK, SYNC, SYNC_SETUP,
SYNC_COUNT_RESET and RATE_PERIOD_COMPLETE. -/

namespace Sys2Proof.Machine

/-! ### SYNC frames (R130, R131) -/

/-- The station time of a SYNC value (R130). -/
def TimebaseUnit.stationTime (u : TimebaseUnit) (value : Time) : Time := value + BitVec.ofNat 40 u.settings.offset

/-- The difference of a station time and the timebase, the shorter way around the 40-bit circle (R130). -/
def TimebaseUnit.difference (u : TimebaseUnit) (value : Time) : Int := (u.stationTime value - u.now).toInt

/-- A difference as the last difference holds it (R130). -/
def saturate32 (d : Int) : Int := max (-2147483648) (min 2147483647 d)

/-- A SYNC frame acted on (R130, R131). -/
def TimebaseUnit.sync (u : TimebaseUnit) (value : Time) : TimebaseUnit :=
  match u.settings.mode with
  | .free => u
  | .adopt => { u with lastDifference := some (saturate32 (u.difference value)), now := u.stationTime value }
  | .check =>
    { u with
      lastDifference := some (saturate32 (u.difference value))
      tally := if u.settings.tolerance < (u.difference value).natAbs then min 4294967295 (u.tally + 1) else u.tally }

/-- A SYNC frame taken by the Timebase Unit: acted on when the station holds PLAY, ignored otherwise (R130). -/
def State.takeSync (s : State) (st : Station) (value : Time) : State :=
  if s.holds st .play then { s with time := s.time.sync value } else s

/-! ### Counting (R129, R132, R133) -/

/-- The settings that the arguments of a SYNC_SETUP give, where each lies in its range (R129). -/
def settingsOf (a : SyncSetupArgs) : Option SyncSettings :=
  syncSettingsOf a.mode a.offset a.tolerance a.counter a.period a.threshold

/-- SYNC_SETUP is refused (R129): the right first, then the ranges, the counter mode among them (log entry 34). -/
def State.syncSetupVerdict (s : State) (st : Station) (a : SyncSetupArgs) : Option Answer :=
  if s.holds st .config = false then refuse .noRight else if settingsOf a = none then refuse .badArg else none

/-- Whether new settings restart the counting (R129). -/
def TimebaseUnit.restarts (u : TimebaseUnit) (x : SyncSettings) : Bool :=
  decide (x.counter ≠ u.settings.counter) || decide (x.period ≠ u.settings.period) ||
    decide (x.threshold ≠ u.settings.threshold)

/-- New settings in force (R129). -/
def TimebaseUnit.setUp (u : TimebaseUnit) (x : SyncSettings) : TimebaseUnit :=
  { u with
    settings := x
    tally := if u.restarts x then 0 else u.tally
    periodCount := if u.restarts x then 0 else u.periodCount
    lastPeriod := if u.restarts x then 0 else u.lastPeriod
    drift := if x.counter = .accumulate ∧ u.settings.counter = .rate then false else u.drift }

/-- SYNC_SETUP is taken (R129). -/
def State.syncSetupTaken (s : State) (a : SyncSetupArgs) : State :=
  match settingsOf a with
  | some x => { s with time := s.time.setUp x }
  | none => s

/-- The counting zeroed by a SYNC_COUNT_RESET (R133). -/
def TimebaseUnit.resetCount (u : TimebaseUnit) : TimebaseUnit :=
  { u with tally := 0, lastPeriod := 0, periodCount := if u.settings.counter = .rate then 0 else u.periodCount }

/-- A rate period is complete (R132). -/
def TimebaseUnit.completePeriod (u : TimebaseUnit) : TimebaseUnit :=
  { u with lastPeriod := u.tally, drift := decide (u.settings.threshold ≤ u.tally), tally := 0, periodCount := 0 }

/-- Whether the update under way completes the rate period (R132). -/
def TimebaseUnit.periodDue (u : TimebaseUnit) : Bool :=
  decide (u.settings.counter = .rate) && decide (u.settings.period ≤ u.periodCount + 1)

/-- The period count at an update (R132). -/
def TimebaseUnit.countPeriod (u : TimebaseUnit) : TimebaseUnit :=
  if u.periodDue then u.completePeriod
  else if u.settings.counter = .rate then { u with periodCount := u.periodCount + 1 } else u

/-- The period count of the state at an update, left where RATE_PERIOD_COMPLETE already took it (log entry 2). -/
def State.countPeriod (s : State) : State :=
  if s.taken.period then { s with taken := { s.taken with period := false } }
  else { s with time := s.time.countPeriod }

/-! ### The commands -/

/-- TIMEBASE_TICK (R127). -/
def execTimebaseTick (s : State) : Host.Outcome State Fault Refusal :=
  awake s fun t => { t with time := { t.time with now := t.time.now + 1 } }

/-- SYNC (R130, R131, R192). -/
def execSync (st : Station) (payload : List Byte) (s : State) : Host.Outcome State Fault Refusal :=
  awake s fun t => t.onStream st payload syncPayload false (fun v u => u.takeSync st v) fun _ u => u

/-- SYNC_SETUP (R129). -/
def execSyncSetup (st : Station) (tag : Byte) (payload : List Byte) (s : State) : Host.Outcome State Fault Refusal :=
  request st tag 22 payload syncSetupArgs
    (fun a t => judged (t.syncSetupVerdict st a) t (t.syncSetupTaken a) []) s

/-- SYNC_COUNT_RESET is refused (R133). -/
def State.syncCountResetVerdict (s : State) (st : Station) : Option Answer :=
  if s.holds st .play = false then refuse .noRight else none

/-- SYNC_COUNT_RESET (R133). -/
def execSyncCountReset (st : Station) (tag : Byte) (payload : List Byte) (s : State) :
    Host.Outcome State Fault Refusal :=
  request st tag 23 payload noArgs
    (fun _ t => judged (t.syncCountResetVerdict st) t { t with time := t.time.resetCount } []) s

/-- RATE_PERIOD_COMPLETE (R132): the update under way completes the rate period (log entry 2). -/
def execRatePeriodComplete (s : State) : Host.Outcome State Fault Refusal :=
  awake s fun t =>
    if t.taken.period = false ∧ t.time.periodDue then
      { t with time := t.time.completePeriod, taken := { t.taken with period := true } }
    else t

end Sys2Proof.Machine
end

