-- ==== Sys2Proof/Machine/Flags.lean ====
section
/-! DEFINITION. The numbers of enumerated values and the packed flag fields of the state report (section 10.6). -/

namespace Sys2Proof.Machine

/-! ### Enumerated values, by their places in their tables (R193) -/

/-- Link states (section 10.1). -/
def LinkState.code (x : LinkState) : Nat :=
  match x with
  | .down => 0
  | .aligning => 1
  | .up => 2
  | .test => 3

/-- Modes (section 4.2). -/
def Mode.code (x : Mode) : Nat :=
  match x with
  | .idle => 0
  | .manual => 1
  | .seek => 2
  | .playback => 3
  | .paused => 4

/-- Drive states (section 3.2). -/
def DriveState.code (x : DriveState) : Nat :=
  match x with
  | .off => 0
  | .waking => 1
  | .active => 2
  | .parking => 3
  | .parked => 4
  | .fault => 5

/-- Report codes (section 3.1). -/
def ReportCode.code (x : ReportCode) : Nat :=
  match x with
  | .braked => 0
  | .powering => 1
  | .ready => 2
  | .fault => 3

/-- Chain states (section 6.1). -/
def ChainState.code (x : ChainState) : Nat :=
  match x with
  | .closed => 0
  | .isOpen => 1
  | .split => 2
  | .fault => 3

/-- Commissioning states (section 10.6). -/
def Commissioning.code (x : Commissioning) : Nat :=
  match x with
  | .unset => 0
  | .limited => 1
  | .ready => 2

/-- Presence states (section 10.6). -/
def PresenceState.code (x : PresenceState) : Nat :=
  match x with
  | .clear => 0
  | .present => 1
  | .fault => 2

/-- Slot states (section 10.6). -/
def TakeSlot.code (x : TakeSlot) : Nat :=
  match x with
  | .empty => 0
  | .recording _ => 1
  | .closed _ _ => 2
  | .loading _ _ => 3

/-- Engine states (section 9.1). -/
def EngineState.code (x : EngineState) : Nat :=
  match x with
  | .idle => 0
  | .seeking _ => 1
  | .ready _ => 2
  | .running _ _ => 3
  | .paused _ _ => 4

/-- Reasons of CUE_FAILED (R196). -/
def CueFail.code (x : CueFail) : Nat :=
  match x with
  | .notAtStart => 0
  | .noGo => 1
  | .stopped => 2

/-- Reasons of PLAY_ENDED (R196). -/
def PlayEnd.code (x : PlayEnd) : Nat :=
  match x with
  | .atEnd => 0
  | .stopped => 1
  | .abandoned => 2

/-- Reasons of RECORD_CLOSED, DISCARDED last (R196). -/
def closeNoteCode (x : Option CloseReason) : Nat :=
  match x with
  | some .stopped => 0
  | some .interrupted => 1
  | some .full => 2
  | some .loaded => 3
  | none => 3

/-- Operations of the Flash Port in notices (R196). -/
def FlashKind.code (x : FlashKind) : Nat :=
  match x with
  | .saveTake => 0
  | .loadTake => 1
  | .saveConfig => 2

/-- Reasons of FLASH_FAILED (R196). -/
def FlashFail.code (x : FlashFail) : Nat :=
  match x with
  | .full => 0
  | .noEnd => 1
  | .checksum => 2
  | .verify => 3

/-- The kind of a command in force (section 10.6). -/
def Command.kindCode (x : Command) : Nat :=
  match x with
  | .vel _ => 0
  | .pos _ => 1
  | .user _ => 2
  | .delta _ => 3

/-- The value of a command in force. -/
def Command.value (x : Command) : Int :=
  match x with
  | .vel n => n
  | .pos c => c
  | .user u => u
  | .delta d => d

/-! ### Packed fields of the state report (section 10.6) -/

/-- The flag byte of section 0. -/
def State.stopFlags (s : State) : Nat := bitsOf [s.stop.cut, s.stop.localResetSeen, s.configDefaulted]

/-- The flag byte of sections 1 to 10. -/
def State.axisFlags (s : State) (j : Axis) : Nat :=
  bitsOf [(s.auth.get j).stale, decide (s.driveState j ≠ .active), (s.port.drives.get j).followingError] +
    8 * (s.channels.get j).commissioning.code

/-- The zone staging byte of section 12. -/
def stagingByte (g : Option ZoneStaging) : Nat :=
  match g with
  | none => 0
  | some x => 128 + (if x.zone.table = .crew then 8 else 0) + x.zone.index.val

/-- The test flags of section 12. -/
def testFlags (t : TestState) : Nat := bitsOf [t.live, t.sticky]

/-- The presence states of section 13, two bits a channel. -/
def State.presenceField (s : State) : Nat :=
  ((allChannels.map fun c => (s.zones.channels.get c).state.code * 4 ^ c.val)).sum

/-- One of the three entry fields of section 13. -/
def State.entryField (s : State) (f : Zone → Bool) : Nat := bitsOf (allZones.map fun z => f (s.zone z))

/-- The flag byte of section 14. -/
def TimebaseUnit.flags (u : TimebaseUnit) : Nat := bitsOf [u.drift, u.lastDifference.isNone]

/-- The slot states of section 16, two bits a slot. -/
def TakeStore.slotField (ts : TakeStore) : Nat :=
  ((List.finRange 32).map fun i => (ts.slots.get i).code * 4 ^ i.val).sum

/-- Whether a slot's protect flag is set. A slot without a flag is sent as 0 (log entry 40). -/
def TakeSlot.protectBit (k : TakeSlot) : Bool :=
  match k with
  | .recording t => t.isProtected
  | .closed t _ => t.isProtected
  | .empty => false
  | .loading _ _ => false

/-- The protect flags of section 16. -/
def TakeStore.protectField (ts : TakeStore) : Nat := bitsOf (ts.slots.list.map TakeSlot.protectBit)

/-- The flag byte of section 17: timed, GO-received, ignore-lens. A flag that the engine state does not hold is sent as 0
(log entry 40). -/
def EngineState.flags (e : EngineState) : Nat :=
  match e with
  | .idle => 0
  | .seeking c => bitsOf [c.start.isSome, c.go, c.hold.ignoreLens]
  | .ready c => bitsOf [c.start.isSome, c.go, c.hold.ignoreLens]
  | .running h _ => bitsOf [false, false, h.ignoreLens]
  | .paused h _ => bitsOf [false, false, h.ignoreLens]

end Sys2Proof.Machine
end

