-- ==== Sys2Proof/Machine/Reports.lean ====
section
/-! DEFINITION. The state report (R26, R104, R126, R165, R186, R195, R196): its sections as section 10.6 lays them out, and
its building at a report update. -/

namespace Sys2Proof.Machine

/-- Section 0: timebase, stop level, primary cause and sequence, chain, flags, halt timer, records (R126). -/
def State.section0 (s : State) : List Byte :=
  beBytes 5 s.time.now.toNat ++ byte s.stop.level ++ optBytes 1 (s.stop.primaryCause.map Cause.code) ++
    optBytes 2 s.stop.primaryRecord ++ byte s.stop.chain.code ++ byte s.stopFlags ++ optBytes 2 s.stop.haltTimer ++
    byte s.stop.records.length ++ optBytes 2 (s.stop.records.head?.map fun r => r.sequence)

/-- The velocity of an axis rounded toward zero to whole counts, absent for an inactive axis (R26; log entry 17). -/
def velocityBytes (m : Option Moving) : List Byte :=
  match m with
  | some x => beInt 3 (x.v.tdiv 256)
  | none => ones 3

/-- The last report of a drive: position, then code. -/
def lastReportBytes (r : Option (ReportCode × Int)) : List Byte :=
  match r with
  | some (c, p) => beInt 4 p ++ byte c.code
  | none => ones 5

/-- Sections 1 to 10: one axis (R26). -/
def State.axisSection (s : State) (j : Axis) : List Byte :=
  optBytes 1 ((s.auth.get j).owner.map fun st => st.val) ++ byte (s.mode j).code ++
    optBytes 1 ((s.auth.get j).trimStation.map fun st => st.val) ++ byte (s.auth.get j).command.kindCode ++
    beInt 4 (s.auth.get j).command.value ++ setpointBytes (s.setpointsNow.get j) ++
    velocityBytes (s.channels.get j).moving ++ lastReportBytes (s.port.drives.get j).lastReport ++
    byte (s.driveState j).code ++ byte (s.axisFlags j)

/-- Section 11: user value, generation and map validity of the lens axes (R39). -/
def State.section11 (s : State) : List Byte :=
  allLenses.flatMap fun l =>
    optBytes 3 (s.userValue l) ++ beBytes 2 (s.maps.get l).generation ++ flagByte (s.maps.get l).map.isSome

/-- Section 12: the station table with the link states, then the receiving station's own items. -/
def State.section12 (s : State) (st : Station) : List Byte :=
  (allStations.flatMap fun o =>
    byte (s.stations.get o).rank ++ beBytes 2 (s.stations.get o).rights.toNat ++ byte (s.linkState o).code) ++
    byte (s.stations.get st).lastMove ++ beBytes 2 (s.links.get st).crcErrors ++
    byte (stagingByte (s.zones.staging.get st)) ++ optBytes 1 (s.marks.readers.get st) ++
    byte (testFlags (s.links.get st).test) ++ byte (s.links.get st).test.errors

/-- Section 13: presence states, debounce time, crane mode and entry flags (R104). The crane mode is 0 for MANUAL and 1 for
PLAYBACK (log entry 31). -/
def State.section13 (s : State) : List Byte :=
  beBytes 2 s.presenceField ++ byte s.zones.debounce ++ flagByte s.playbackMode ++
    beBytes 2 (s.entryField fun z => z.entry.enabled) ++ beBytes 2 (s.entryField fun z => z.active) ++
    beBytes 2 (s.entryField fun z => z.occupied)

/-- The reported mismatch value (R132). -/
def TimebaseUnit.reported (u : TimebaseUnit) : Nat := if u.settings.counter = .rate then u.lastPeriod else u.tally

/-- The last difference in 4 bytes. -/
def differenceBytes (d : Option Int) : List Byte :=
  match d with
  | some x => beInt 4 x
  | none => ones 4

/-- Section 14: sync settings, mismatch counting and last difference (R134). -/
def State.section14 (s : State) : List Byte :=
  byte s.time.settings.mode.code ++ beBytes 2 s.time.settings.offset ++ beBytes 2 s.time.settings.tolerance ++
    byte s.time.settings.counter.code ++ beBytes 4 s.time.reported ++ beBytes 2 s.time.periodCount ++
    byte s.time.flags ++ differenceBytes s.time.lastDifference

/-- The number of open readers. -/
def MarkLatch.openCount (m : MarkLatch) : Nat := (allStations.filter fun st => (m.readers.get st).isSome).length

/-- Section 15: the Mark Latch (R142). -/
def State.section15 (s : State) : List Byte :=
  beBytes 2 s.marks.count ++ optBytes 1 (s.marks.published.map fun m => m.source.code) ++
    optBytes 5 (s.marks.published.map fun m => m.timebase.toNat) ++ flagByte s.marks.pending ++
    byte s.marks.openCount

/-- Section 16: the Take Store (R165). -/
def State.section16 (s : State) : List Byte :=
  optBytes 1 (s.takes.recordingTake.map fun x => x.1.slot.val) ++
    optBytes 4 (s.takes.recordingTake.map fun x => x.2.count) ++ beBytes 2 s.takes.freeList.length ++
    beBytes 8 s.takes.slotField ++ beBytes 4 s.takes.protectField

/-- The hold of an engine state. -/
def EngineState.hold? (e : EngineState) : Option Hold :=
  match e with
  | .idle => none
  | .seeking c => some c.hold
  | .ready c => some c.hold
  | .running h _ => some h
  | .paused h _ => some h

/-- The effective start held by an engine state. -/
def EngineState.start? (e : EngineState) : Option Time :=
  match e with
  | .seeking c => c.start
  | .ready c => c.start
  | _ => none

/-- The running-start elapsed, elapsed count or pause elapsed, as the state gives. -/
def EngineState.elapsed? (e : EngineState) : Option Nat :=
  match e with
  | .idle => none
  | .seeking c => some c.runStart
  | .ready c => some c.runStart
  | .running _ n => some n
  | .paused _ n => some n

/-- Section 17: the Playback Engine (R186). -/
def State.section17 (s : State) : List Byte :=
  byte s.play.state.code ++ optBytes 1 (s.play.state.hold?.map fun h => h.slot.val) ++
    optBytes 1 (s.play.state.hold?.map fun h => h.station.val) ++ byte s.play.state.flags ++
    optBytes 5 (s.play.state.start?.map fun x => x.toNat) ++ optBytes 4 s.play.state.elapsed? ++
    beBytes 2 s.play.missedCue ++ beBytes 2 s.play.lateCue ++ beBytes 3 s.play.cueOffset ++ beBytes 3 s.play.goLead

/-- Section 18: the flash operation, its kind in the order of the table of section 11.1 (R199). -/
def State.section18 (s : State) : List Byte :=
  match s.flashPort with
  | none => byte 0 ++ ones 6
  | some op => byte (op.kind.code + 1) ++ beBytes 2 op.first ++ beBytes 2 op.last ++ beBytes 2 op.done

/-- A section present only where its notice is. -/
def noticeSection {α : Type} (sect : Nat) (x : Option α) (f : α → List Byte) : List (Nat × List Byte) :=
  match x with
  | some a => [(sect, f a)]
  | none => []

/-- Sections 19 to 26: one for each notice kind present, in the order of the table of R196. -/
def noticeSections (n : Notices) : List (Nat × List Byte) :=
  noticeSection 19 n.lostAxes (fun x => axisSetBytes x.1 ++ byte x.2.val) ++
    noticeSection 20 n.cueFailed (fun x => byte x.1.val ++ byte x.2.code) ++
    noticeSection 21 n.playEnded (fun x => byte x.1.val ++ byte x.2.1.code ++ optBytes 4 x.2.2) ++
    noticeSection 22 n.recordClosed (fun x => byte x.1.val ++ beBytes 4 x.2.1 ++ byte (closeNoteCode x.2.2)) ++
    noticeSection 23 n.stopRaised
      (fun x => beBytes 2 x.sequence ++ byte x.cause.code ++ byte x.level ++ flagByte x.secondary) ++
    noticeSection 24 n.markPublished (fun x => byte x.1.code ++ beBytes 5 x.2.toNat) ++
    noticeSection 25 n.flashDone
      (fun x => byte x.1.code ++ optBytes 1 (x.2.1.map fun i => i.val) ++ beBytes 4 x.2.2) ++
    noticeSection 26 n.flashFailed
      (fun x => byte x.1.code ++ optBytes 1 (x.2.1.map fun i => i.val) ++ byte x.2.2.code)

/-- All sections of the report of a station, in ascending order (R195). -/
def State.sections (s : State) (st : Station) : List (Nat × List Byte) :=
  [(0, s.section0)] ++ (allAxes.map fun j => (j.val + 1, s.axisSection j)) ++
    [(11, s.section11), (12, s.section12 st), (13, s.section13), (14, s.section14), (15, s.section15),
      (16, s.section16), (17, s.section17), (18, s.section18)] ++
    noticeSections (s.links.get st).notices

/-- A link with a report built for it from the sections given (R195, R196). -/
def Link.buildReport (l : Link) (secs : List (Nat × List Byte)) : Link :=
  { l with
    reportFrames := secs.map fun x => ⟨l.reportNumber, x.1, x.2⟩
    reportNumber := l.reportNumber + 1
    notices := Notices.empty }

/-- Whether a report is built for a link at a report update (R195). -/
def Link.takesReport (l : Link) : Bool := decide (l.state = .up) && decide (l.reportFrames = [])

/-- The reports of a report update, each read from the state as it stands (R195). -/
def State.buildReports (s : State) : State :=
  { s with links := s.links.imap fun st l => if l.takesReport then l.buildReport (s.sections st) else l }

/-- The report count at an update, and the reports where it returns to 0 (R195). -/
def State.countReport (s : State) : State :=
  if 9 ≤ s.reportCount then ({ s with reportCount := 0 }).buildReports else { s with reportCount := s.reportCount + 1 }

end Sys2Proof.Machine
end

