-- ==== Sys2Proof/Machine/Update.lean ====
section
/-! DEFINITION. The update (R6, R24): what every block does once every 1 ms, in the order of log entry 3. -/

namespace Sys2Proof.Machine

/-- As the update begins: the halt timer (R113) and the Playback Engine (R175, R177, R178). -/
def State.beginUpdate (s : State) : State := s.countHalt.engineBegin.dropTaken

/-- The counts of the stations (R72, R73), of the Mark Latch (R136, R141) and of the rate period (R132). -/
def State.countUpdate (s : State) : State :=
  ((allStations.foldl State.countFrame (allStations.foldl State.countMove s)).countMarks).countPeriod

/-- The hand-off (R24): standstill (R21), the Drive Port and its frame (R41), occupancy (R96), the recorder (R148), and the
Playback Engine's arrivals (R172) and end of take (R179). -/
def State.handOff (s : State) : State :=
  ((((((s.standstillTest).portWork).sendFrame).testAllZones).recordUpdate).judgeArrival).judgeEnd

/-- One update (R6). -/
def State.updateOnce (s : State) : State := s.beginUpdate.generate.countUpdate.handOff.countReport

/-- UPDATE (R6). -/
def execUpdate (s : State) : Host.Outcome State Fault Refusal := awake s State.updateOnce

end Sys2Proof.Machine
end

