-- ==== Sys2Proof/Machine/Zones.lean ====
section
/-! DEFINITION. Presence channels and zone tables (chapter 5): the commands PRESENCE_SAMPLE, PRESENCE_STATE_CHANGE,
PRESENCE_FAULT, PRESENCE_DEBOUNCE, ZONE_OPEN, ZONE_RANGE, LOAD_ZONE and ZONE_ENABLE. -/

namespace Sys2Proof.Machine

/-! ### The presence filter (R83, R84) -/

/-- The reading of two lines, each yes for present (section 5.1). -/
def readingOf (a b : Bool) : Reading := if a ≠ b then .split else if a then .bothPresent else .bothClear

/-- The state an agreeing reading leads to (R83). -/
def agreedState (r : Reading) : PresenceState := if r = .bothPresent then .present else .clear

/-- The agree count after an agreeing reading (R83). -/
def Presence.agreeNext (p : Presence) (r : Reading) : Nat := if p.last = some r then min 50 (p.agree + 1) else 1

/-- A channel after one sample (R83, R84). -/
def Presence.filtered (p : Presence) (debounce : Nat) (r : Reading) : Presence :=
  if r = .split then
    { state := if 21 ≤ p.split + 1 then .fault else p.state, last := some .split, agree := 0, split := min 21 (p.split + 1) }
  else if debounce ≤ p.agreeNext r then
    { state := agreedState r, last := some r, agree := p.agreeNext r, split := 0 }
  else { p with last := some r, agree := p.agreeNext r }

/-- Whether a sample brings a channel into FAULT (R84). -/
def Presence.faults (p : Presence) (r : Reading) : Bool :=
  decide (r = .split) && decide (21 ≤ p.split + 1) && decide (p.state ≠ .fault)

/-- The reading of a channel in a presence sample; a line reads present when its bit is set. -/
def readingAt (lineA lineB : ChannelSet) (c : Channel) : Reading :=
  readingOf (lineA.getLsbD c.val) (lineB.getLsbD c.val)

/-- Whether a channel's part of a presence sample was already taken by a row of its own: its reading is the one that the
row took (log entry 2). -/
def State.readingTaken (s : State) (c : Channel) (r : Reading) : Bool :=
  s.taken.presence.get c && decide ((s.zones.channels.get c).last = some r)

/-- The channels after a presence sample; a channel whose part of the sample was already taken is left. -/
def State.filterChannels (s : State) (lineA lineB : ChannelSet) : State :=
  let f (c : Channel) (p : Presence) : Presence :=
    if s.readingTaken c (readingAt lineA lineB c) then p else p.filtered s.zones.debounce (readingAt lineA lineB c)
  { s with
    zones := { s.zones with channels := s.zones.channels.imap f }
    taken := { s.taken with presence := Tab.const 8 false } }

/-- The channels that a presence sample brings into FAULT, in ascending order. -/
def State.newFaults (s : State) (lineA lineB : ChannelSet) : List Channel :=
  allChannels.filter fun c =>
    !(s.readingTaken c (readingAt lineA lineB c)) && (s.zones.channels.get c).faults (readingAt lineA lineB c)

/-- PRESENCE_FAULT raised for the channels of a list in turn (R84). -/
def State.raiseFaults (s : State) (cs : List Channel) : State := cs.foldl (fun t c => t.raise (.presenceFault c) 1) s

/-- A presence sample of all eight channels (R83, R84, R88; log entry 15). -/
def State.presenceSample (s : State) (lineA lineB : ChannelSet) : State :=
  (s.filterChannels lineA lineB).judgeZones.raiseFaults (s.newFaults lineA lineB)

/-- One channel's part of the presence sample under way (log entry 2). -/
def State.takeReading (s : State) (c : Channel) (r : Reading) : State :=
  ({ s with
    zones := { s.zones with channels := s.zones.channels.modify c fun p => p.filtered s.zones.debounce r }
    taken := { s.taken with presence := s.taken.presence.set c true } }).judgeZones

/-- PRESENCE_DEBOUNCE is refused (R85). -/
def State.debounceVerdict (s : State) (st : Station) (n : Nat) : Option Answer :=
  if s.holds st .config = false then refuse .noRight else if n < 1 ∨ 50 < n then refuse .badArg else none

/-! ### Building an entry (R97, R98) -/

/-- A zone table by its number: SET 0, CREW 1 (R193). -/
def tableOf (n : Nat) : Option ZoneTable := if n = 0 then some .set else if n = 1 then some .crew else none

/-- A zone entry by table and index numbers. -/
def zoneIdOf (table index : Nat) : Option ZoneId :=
  match tableOf table with
  | some t => if h : index < 8 then some ⟨t, ⟨index, h⟩⟩ else none
  | none => none

/-- The staging record that the arguments of a ZONE_OPEN make, where they are valid (R97). -/
def openedStaging (a : ZoneOpenArgs) : Option ZoneStaging :=
  match zoneIdOf a.table a.index, zoneKindOf a.kind, modeMatchOf a.modeMatch with
  | some z, some k, some m =>
    if openFieldsValid z.table k a.cap a.mask then
      some ⟨z, ⟨a.enabled, k, heldCap k a.cap, m, a.mask, Tab.const 7 none⟩⟩
    else none
  | _, _, _ => none

/-- The zone staging record of a station with new contents. -/
def State.setStaging (s : State) (st : Station) (g : Option ZoneStaging) : State :=
  { s with zones := { s.zones with staging := s.zones.staging.set st g } }

/-- ZONE_OPEN is refused (R97). -/
def State.zoneOpenVerdict (s : State) (st : Station) (a : ZoneOpenArgs) : Option Answer :=
  if s.holds st .config = false then refuse .noRight else if openedStaging a = none then refuse .badArg else none

/-- A motion axis by its number, none outside 0 to 6. -/
def motionNumber (n : Nat) : Option Motion := if h : n < 7 then some ⟨n, h⟩ else none

/-- ZONE_RANGE is refused (R98). -/
def State.zoneRangeVerdict (s : State) (st : Station) (items : List (Nat × Option (Int × Int))) : Option Answer :=
  if s.holds st .config = false then refuse .noRight
  else if s.zones.staging.get st = none then refuse .state
  else if items.any fun x => decide (motionNumber x.1 = none) || !rangeValid x.2 then refuse .badArg
  else none

/-- Items set in an entry in the order carried (R98). -/
def ZoneEntry.putRanges (e : ZoneEntry) (items : List (Nat × Option (Int × Int))) : ZoneEntry :=
  items.foldl (fun x item =>
    match motionNumber item.1 with
    | some m => { x with ranges := x.ranges.set m item.2 }
    | none => x) e

/-- ZONE_RANGE is taken (R98). -/
def State.zoneRangeTaken (s : State) (st : Station) (items : List (Nat × Option (Int × Int))) : State :=
  s.setStaging st ((s.zones.staging.get st).map fun g => ⟨g.zone, g.entry.putRanges items⟩)

/-! ### Changing the tables (R100 to R103) -/

/-- The crane is at rest for zone changes (R100). -/
def State.restForZones (s : State) : Bool :=
  allMotion.all fun m => !(s.mode (motionAxis m)).underTake && !s.moves (motionAxis m)

/-- An entry of a table would be occupied now (R100). -/
def State.wouldBeOccupied (s : State) (t : ZoneTable) (e : ZoneEntry) : Bool :=
  decide (e.kind = .hard) && s.entryActive t e && e.occupiedAt s.zonePosition

/-- LOAD_ZONE is refused (R102). -/
def State.loadZoneVerdict (s : State) (st : Station) : Option Answer :=
  if s.holds st .config = false then refuse .noRight
  else
    match s.zones.staging.get st with
    | none => refuse .state
    | some g =>
      if g.entry.hasRange = false ∨ (g.entry.enabled ∧ g.entry.complete g.zone.table = false) then refuse .badArg
      else if s.restForZones = false then refuse .state
      else if s.wouldBeOccupied g.zone.table g.entry then refuse .occupied
      else none

/-- LOAD_ZONE is taken (R102). -/
def State.loadZoneTaken (s : State) (st : Station) : State :=
  match s.zones.staging.get st with
  | none => s
  | some g => ((s.modZone g.zone fun y => ⟨g.entry, y.active, false⟩).setStaging st none).judgeZones

/-- ZONE_ENABLE is refused (R103). -/
def State.zoneEnableVerdict (s : State) (st : Station) (table index : Nat) (v : Bool) : Option Answer :=
  if s.holds st .config = false then refuse .noRight
  else
    match zoneIdOf table index with
    | none => refuse .badArg
    | some z =>
      if v ∧ (s.zone z).entry.complete z.table = false then refuse .badArg
      else if s.restForZones = false then refuse .state
      else if v ∧ s.wouldBeOccupied z.table { (s.zone z).entry with enabled := true } then refuse .occupied
      else none

/-- ZONE_ENABLE is taken (R103). -/
def State.zoneEnableTaken (s : State) (table index : Nat) (v : Bool) : State :=
  match zoneIdOf table index with
  | none => s
  | some z => (s.modZone z fun y => { y with entry := { y.entry with enabled := v } }).judgeZones

/-! ### The commands -/

/-- PRESENCE_SAMPLE (R83, R84, R88): both lines of every channel, a set bit for a line that reads present. -/
def execPresenceSample (lineA lineB : ChannelSet) (s : State) : Host.Outcome State Fault Refusal :=
  awake s fun t => t.presenceSample lineA lineB

/-- PRESENCE_STATE_CHANGE (R83, R88): the agreeing reading that brings a channel into the other state, where this sample
is that one (log entry 2). -/
def execPresenceStateChange (c : Channel) (present : Bool) (s : State) : Host.Outcome State Fault Refusal :=
  awake s fun t =>
    let p := t.zones.channels.get c
    if (p.filtered t.zones.debounce (readingOf present present)).state ≠ p.state then
      t.takeReading c (readingOf present present)
    else t

/-- PRESENCE_FAULT (R84): the SPLIT reading that brings a channel into FAULT, where this sample is that one (log
entry 2). -/
def execPresenceFault (c : Channel) (s : State) : Host.Outcome State Fault Refusal :=
  awake s fun t =>
    if (t.zones.channels.get c).faults .split then (t.takeReading c .split).raise (.presenceFault c) 1 else t

/-- PRESENCE_DEBOUNCE (R85). -/
def execPresenceDebounce (st : Station) (tag : Byte) (payload : List Byte) (s : State) :
    Host.Outcome State Fault Refusal :=
  request st tag 13 payload wordArg
    (fun n t => judged (t.debounceVerdict st n) t { t with zones := { t.zones with debounce := n } } []) s

/-- ZONE_OPEN (R97). -/
def execZoneOpen (st : Station) (tag : Byte) (payload : List Byte) (s : State) : Host.Outcome State Fault Refusal :=
  request st tag 14 payload zoneOpenArgs
    (fun a t => judged (t.zoneOpenVerdict st a) t (t.setStaging st (openedStaging a)) []) s

/-- ZONE_RANGE (R98). -/
def execZoneRange (st : Station) (tag : Byte) (payload : List Byte) (s : State) : Host.Outcome State Fault Refusal :=
  request st tag 15 payload zoneRangeArgs
    (fun items t => judged (t.zoneRangeVerdict st items) t (t.zoneRangeTaken st items) []) s

/-- LOAD_ZONE (R99, R101, R102). -/
def execLoadZone (st : Station) (tag : Byte) (payload : List Byte) (s : State) : Host.Outcome State Fault Refusal :=
  request st tag 16 payload noArgs (fun _ t => judged (t.loadZoneVerdict st) t (t.loadZoneTaken st) []) s

/-- ZONE_ENABLE (R101, R103). -/
def execZoneEnable (st : Station) (tag : Byte) (payload : List Byte) (s : State) : Host.Outcome State Fault Refusal :=
  request st tag 17 payload zoneEnableArgs
    (fun a t => judged (t.zoneEnableVerdict st a.1 a.2.1 a.2.2) t (t.zoneEnableTaken a.1 a.2.1 a.2.2) []) s

end Sys2Proof.Machine
end

