-- ==== Sys2Proof/Machine/Dispatch.lean ====
section
/-! DEFINITION. The dispatch: each command to its meaning. -/

namespace Sys2Proof.Machine

/-- What a command does to everything but the queue. -/
def exec (i : Instr) (s : State) : Host.Outcome State Fault Refusal :=
  match i with
  | .powerOn => Sys2Proof.Machine.execPowerOn s
  | .sysreset asserted => Sys2Proof.Machine.execSysreset asserted s
  | .timebaseTick => Sys2Proof.Machine.execTimebaseTick s
  | .update => Sys2Proof.Machine.execUpdate s
  | .timedStart => Sys2Proof.Machine.execTimedStart s
  | .wakeTimeout j => Sys2Proof.Machine.execWakeTimeout j s
  | .parkTimeout j => Sys2Proof.Machine.execParkTimeout j s
  | .driveSilent j => Sys2Proof.Machine.execDriveSilent j s
  | .haltTimeout => Sys2Proof.Machine.execHaltTimeout s
  | .staleMark st => Sys2Proof.Machine.execStaleMark st s
  | .stationLost st => Sys2Proof.Machine.execStationLost st s
  | .markReaderTimeout st => Sys2Proof.Machine.execMarkReaderTimeout st s
  | .ratePeriodComplete => Sys2Proof.Machine.execRatePeriodComplete s
  | .driveReport bytes => Sys2Proof.Machine.execDriveReport bytes s
  | .presenceSample lineA lineB => Sys2Proof.Machine.execPresenceSample lineA lineB s
  | .presenceStateChange c present => Sys2Proof.Machine.execPresenceStateChange c present s
  | .presenceFault c => Sys2Proof.Machine.execPresenceFault c s
  | .chainSample aOpen bOpen pressed => Sys2Proof.Machine.execChainSample aOpen bOpen pressed s
  | .chainSplitFault => Sys2Proof.Machine.execChainSplitFault s
  | .markInput => Sys2Proof.Machine.execMarkInput s
  | .linkCharacter st ch => Sys2Proof.Machine.execLinkCharacter st ch s
  | .linkUp st => Sys2Proof.Machine.execLinkUp st s
  | .badFrame st chars => Sys2Proof.Machine.execBadFrame st chars s
  | .badRunLimit st => Sys2Proof.Machine.execBadRunLimit st s
  | .requestMore st tag code payload => Sys2Proof.Machine.execRequestMore st tag code payload s
  | .unknownRequest st tag code payload => Sys2Proof.Machine.execUnknownRequest st tag code payload s
  | .replySend st => Sys2Proof.Machine.execReplySend st s
  | .reportFrameSend st => Sys2Proof.Machine.execReportFrameSend st s
  | .move st payload => Sys2Proof.Machine.execMove st payload s
  | .trim st payload => Sys2Proof.Machine.execTrim st payload s
  | .sync st payload => Sys2Proof.Machine.execSync st payload s
  | .test st payload => Sys2Proof.Machine.execTest st payload s
  | .claim st tag payload => Sys2Proof.Machine.execClaim st tag payload s
  | .release st tag payload => Sys2Proof.Machine.execRelease st tag payload s
  | .trimAttach st tag payload => Sys2Proof.Machine.execTrimAttach st tag payload s
  | .trimDetach st tag payload => Sys2Proof.Machine.execTrimDetach st tag payload s
  | .stationTable st tag payload => Sys2Proof.Machine.execStationTable st tag payload s
  | .loadLimits st tag payload => Sys2Proof.Machine.execLoadLimits st tag payload s
  | .mapOpen st tag payload => Sys2Proof.Machine.execMapOpen st tag payload s
  | .mapPoints st tag payload => Sys2Proof.Machine.execMapPoints st tag payload s
  | .loadMap st tag payload => Sys2Proof.Machine.execLoadMap st tag payload s
  | .enable st tag payload => Sys2Proof.Machine.execEnable st tag payload s
  | .park st tag payload => Sys2Proof.Machine.execPark st tag payload s
  | .clearFault st tag payload => Sys2Proof.Machine.execClearFault st tag payload s
  | .presenceDebounce st tag payload => Sys2Proof.Machine.execPresenceDebounce st tag payload s
  | .zoneOpen st tag payload => Sys2Proof.Machine.execZoneOpen st tag payload s
  | .zoneRange st tag payload => Sys2Proof.Machine.execZoneRange st tag payload s
  | .loadZone st tag payload => Sys2Proof.Machine.execLoadZone st tag payload s
  | .zoneEnable st tag payload => Sys2Proof.Machine.execZoneEnable st tag payload s
  | .stopRequest st tag payload => Sys2Proof.Machine.execStopRequest st tag payload s
  | .releaseStop st tag payload => Sys2Proof.Machine.execReleaseStop st tag payload s
  | .readStops st tag payload => Sys2Proof.Machine.execReadStops st tag payload s
  | .clearStops st tag payload => Sys2Proof.Machine.execClearStops st tag payload s
  | .syncSetup st tag payload => Sys2Proof.Machine.execSyncSetup st tag payload s
  | .syncCountReset st tag payload => Sys2Proof.Machine.execSyncCountReset st tag payload s
  | .mark st tag payload => Sys2Proof.Machine.execMark st tag payload s
  | .markRead st tag payload => Sys2Proof.Machine.execMarkRead st tag payload s
  | .markClear st tag payload => Sys2Proof.Machine.execMarkClear st tag payload s
  | .record st tag payload => Sys2Proof.Machine.execRecord st tag payload s
  | .recordStop st tag payload => Sys2Proof.Machine.execRecordStop st tag payload s
  | .delete st tag payload => Sys2Proof.Machine.execDelete st tag payload s
  | .protect st tag payload => Sys2Proof.Machine.execProtect st tag payload s
  | .takeInfo st tag payload => Sys2Proof.Machine.execTakeInfo st tag payload s
  | .saveTake st tag payload => Sys2Proof.Machine.execSaveTake st tag payload s
  | .saveTakeEnd => Sys2Proof.Machine.execSaveTakeEnd s
  | .loadTake st tag payload => Sys2Proof.Machine.execLoadTake st tag payload s
  | .loadTakeHeader => Sys2Proof.Machine.execLoadTakeHeader s
  | .loadTakeSample => Sys2Proof.Machine.execLoadTakeSample s
  | .loadTakeEnd => Sys2Proof.Machine.execLoadTakeEnd s
  | .flashSectorDone => Sys2Proof.Machine.execFlashSectorDone s
  | .cue st tag payload => Sys2Proof.Machine.execCue st tag payload s
  | .go st tag payload => Sys2Proof.Machine.execGo st tag payload s
  | .resume st tag payload => Sys2Proof.Machine.execResume st tag payload s
  | .stopPlay st tag payload => Sys2Proof.Machine.execStopPlay st tag payload s
  | .abandon st tag payload => Sys2Proof.Machine.execAbandon st tag payload s
  | .playSetup st tag payload => Sys2Proof.Machine.execPlaySetup st tag payload s
  | .countersClear st tag payload => Sys2Proof.Machine.execCountersClear st tag payload s
  | .saveConfig st tag payload => Sys2Proof.Machine.execSaveConfig st tag payload s
  | .saveConfigEnd back => Sys2Proof.Machine.execSaveConfigEnd back s
  | .testStart st tag payload => Sys2Proof.Machine.execTestStart st tag payload s
  | .testEnd st tag payload => Sys2Proof.Machine.execTestEnd st tag payload s

end Sys2Proof.Machine
end

