-- ==== Sys2Proof/WellFormed.lean ====
section
/-! DEFINITION. Well-formed commands: those that carry what their event or frame can carry. -/

namespace Sys2Proof

/-- A frame's payload: at most 24 bytes (R189). -/
def wfPayload (payload : List Byte) : Bool := decide (payload.length ≤ Machine.maxPayload)

/-- The check of each command. -/
def Instr.wf (i : Instr) : Bool :=
  match i with
  | .powerOn | .sysreset _ | .timebaseTick | .update | .timedStart | .wakeTimeout _ | .parkTimeout _ | .driveSilent _
  | .haltTimeout | .staleMark _ | .stationLost _ | .markReaderTimeout _ | .ratePeriodComplete | .presenceSample _ _
  | .presenceStateChange _ _ | .presenceFault _ | .chainSample _ _ _ | .chainSplitFault | .markInput
  | .linkCharacter _ _ | .linkUp _ | .badRunLimit _ | .replySend _ | .reportFrameSend _ | .saveTakeEnd
  | .loadTakeHeader | .loadTakeSample | .loadTakeEnd | .flashSectorDone => true
  | .driveReport bytes => decide (bytes.length = 9)
  | .badFrame _ chars => Machine.isBadFrame chars
  | .requestMore _ _ _ p => wfPayload p
  | .unknownRequest _ _ code p => !Machine.knownCode code && wfPayload p
  | .move _ p => wfPayload p && (Machine.movePayload p).isSome
  | .trim _ p => wfPayload p && (Machine.trimPayload p).isSome
  | .sync _ p => (Machine.syncPayload p).isSome
  | .test _ p => wfPayload p && (Machine.testPayload p).isSome
  | .claim _ _ p | .release _ _ p | .trimAttach _ _ p | .trimDetach _ _ p | .stationTable _ _ p | .loadLimits _ _ p
  | .mapOpen _ _ p | .mapPoints _ _ p | .loadMap _ _ p | .enable _ _ p | .park _ _ p | .clearFault _ _ p
  | .presenceDebounce _ _ p | .zoneOpen _ _ p | .zoneRange _ _ p | .loadZone _ _ p | .zoneEnable _ _ p
  | .stopRequest _ _ p | .releaseStop _ _ p | .readStops _ _ p | .clearStops _ _ p | .syncSetup _ _ p
  | .syncCountReset _ _ p | .mark _ _ p | .markRead _ _ p | .markClear _ _ p | .record _ _ p | .recordStop _ _ p
  | .delete _ _ p | .protect _ _ p | .takeInfo _ _ p | .saveTake _ _ p | .loadTake _ _ p | .cue _ _ p | .go _ _ p
  | .resume _ _ p | .stopPlay _ _ p | .abandon _ _ p | .playSetup _ _ p | .countersClear _ _ p | .saveConfig _ _ p
  | .testStart _ _ p | .testEnd _ _ p => wfPayload p
  | .saveConfigEnd back => decide (back.length = Machine.configLength)

end Sys2Proof
end

