-- ==== Sys2Proof/Safety.lean ====
section
/-! DEFINITION. The terms that statements about the part use: the frame of a request, a request that is decided under its own
rule, the state an answer leaves, what a stop may change, and the invariants of the part. -/

namespace Sys2Proof

/-- The station, tag, code (section 10.5) and payload of a request of the catalogue; none for another command. -/
def Instr.request? (c : Instr) : Option (Station × Byte × Byte × List Byte) :=
  match c with
  | .claim st tag p => some (st, tag, 1, p)
  | .release st tag p => some (st, tag, 2, p)
  | .trimAttach st tag p => some (st, tag, 3, p)
  | .trimDetach st tag p => some (st, tag, 4, p)
  | .stationTable st tag p => some (st, tag, 5, p)
  | .loadLimits st tag p => some (st, tag, 6, p)
  | .mapOpen st tag p => some (st, tag, 7, p)
  | .mapPoints st tag p => some (st, tag, 8, p)
  | .loadMap st tag p => some (st, tag, 9, p)
  | .enable st tag p => some (st, tag, 10, p)
  | .park st tag p => some (st, tag, 11, p)
  | .clearFault st tag p => some (st, tag, 12, p)
  | .presenceDebounce st tag p => some (st, tag, 13, p)
  | .zoneOpen st tag p => some (st, tag, 14, p)
  | .zoneRange st tag p => some (st, tag, 15, p)
  | .loadZone st tag p => some (st, tag, 16, p)
  | .zoneEnable st tag p => some (st, tag, 17, p)
  | .stopRequest st tag p => some (st, tag, 18, p)
  | .releaseStop st tag p => some (st, tag, 19, p)
  | .readStops st tag p => some (st, tag, 20, p)
  | .clearStops st tag p => some (st, tag, 21, p)
  | .syncSetup st tag p => some (st, tag, 22, p)
  | .syncCountReset st tag p => some (st, tag, 23, p)
  | .mark st tag p => some (st, tag, 24, p)
  | .markRead st tag p => some (st, tag, 25, p)
  | .markClear st tag p => some (st, tag, 26, p)
  | .record st tag p => some (st, tag, 27, p)
  | .recordStop st tag p => some (st, tag, 28, p)
  | .delete st tag p => some (st, tag, 29, p)
  | .protect st tag p => some (st, tag, 30, p)
  | .takeInfo st tag p => some (st, tag, 31, p)
  | .saveTake st tag p => some (st, tag, 32, p)
  | .loadTake st tag p => some (st, tag, 33, p)
  | .cue st tag p => some (st, tag, 34, p)
  | .go st tag p => some (st, tag, 35, p)
  | .resume st tag p => some (st, tag, 36, p)
  | .stopPlay st tag p => some (st, tag, 37, p)
  | .abandon st tag p => some (st, tag, 38, p)
  | .playSetup st tag p => some (st, tag, 39, p)
  | .countersClear st tag p => some (st, tag, 40, p)
  | .saveConfig st tag p => some (st, tag, 41, p)
  | .testStart st tag p => some (st, tag, 42, p)
  | .testEnd st tag p => some (st, tag, 43, p)
  | .powerOn | .sysreset _ | .timebaseTick | .update | .timedStart | .wakeTimeout _ | .parkTimeout _ |
    .driveSilent _ | .haltTimeout | .staleMark _ | .stationLost _ | .markReaderTimeout _ | .ratePeriodComplete |
    .driveReport _ | .presenceSample _ _ | .presenceStateChange _ _ | .presenceFault _ | .chainSample _ _ _ |
    .chainSplitFault | .markInput | .linkCharacter _ _ | .linkUp _ | .badFrame _ _ | .badRunLimit _ |
    .requestMore _ _ _ _ | .unknownRequest _ _ _ _ | .replySend _ | .reportFrameSend _ | .move _ _ | .trim _ _ |
    .sync _ _ | .test _ _ | .saveTakeEnd | .loadTakeHeader | .loadTakeSample | .loadTakeEnd | .flashSectorDone |
    .saveConfigEnd _ => none

end Sys2Proof

namespace Sys2Proof.Machine

/-! ### Requests and frames -/

/-- A frame of a station is taken as it comes: the part is not held in reset, the link is UP, and the payload is one a
frame can carry. -/
abbrev State.Hears (s : State) (st : Station) (payload : List Byte) : Prop :=
  s.sysreset = false ∧ s.linkState st = .up ∧ payload.length ≤ 24

/-- A REQUEST frame of a station is decided under the rule of its request: no request is held for it, and its reply queue
has room (R190, R191). -/
abbrev State.Serves (s : State) (st : Station) (payload : List Byte) : Prop :=
  s.Hears st payload ∧ (s.links.get st).assembly = none ∧ (s.links.get st).replies.length < 8 ∧
    (s.links.get st).overrun = none

/-- The state once a valid frame of a station has come: its bad run and last-frame count are 0 (R189). -/
def State.afterFrame (s : State) (st : Station) : State :=
  { s with
    stations := s.stations.modify st fun r => { r with lastFrame := 0 }
    links := s.links.modify st fun l => { l with badRun := 0 } }

/-- The state with a reply at the tail of a station's queue (R191). -/
def State.withReply (s : State) (st : Station) (r : Reply) : State :=
  { s with links := s.links.modify st fun l => { l with replies := l.replies ++ [r] } }

/-- The state that a request leaves which is answered and changes nothing else. -/
def State.answered (s : State) (st : Station) (tag code : Byte) (r : Result) (detail : List Byte) : State :=
  (s.afterFrame st).withReply st ⟨tag, code, r, detail⟩

/-! ### What a stop may change (R108, R110) -/

/-- Everything is as before but what a stop raise and the judgement of zones may change: notices of links, modes and
commands, channels, the generator, drives, the Zone Monitor, the Stop Controller, the Take Store and the engine. -/
def State.ChangedByAStop (s t : State) : Prop :=
  t = { s with
    links := t.links, auth := t.auth, channels := t.channels, generator := t.generator, port := t.port, zones := t.zones,
    stop := t.stop, takes := t.takes, play := t.play }

/-- A drive has entered FAULT with a cause raised at level 2 (R54). -/
def State.DriveFaulted (s t : State) (j : Axis) (c : Cause) : Prop :=
  t.driveState j = .fault ∧ (t.port.drives.get j).wait = 0 ∧ (t.port.drives.get j).silence = 0 ∧
    (t.port.drives.get j).followingError = false ∧ (s.driveState j = .active → (t.channels.get j).moving = none) ∧
    t.stop.level = max s.stop.level 2 ∧ c ∈ t.stop.memory ∧ t.generator = ⟨true, false⟩ ∧ s.ChangedByAStop t

/-! ### Updates at which nothing stops the crane -/

/-- The update under way raises no stop, loses no station and judges no timed start: the halt timer does not run out (R113),
no zone is active (R91, R93, R95), no station's last-frame count reaches 250 (R73), no drive falls silent and no wait count
runs out (R47, R50, R52), and no timed start is due (R175). -/
def State.Quiet (s : State) : Prop :=
  s.sysreset = false ∧ (∀ n, s.stop.haltTimer = some n → n < 1999) ∧ (∀ z, (s.zone z).active = false) ∧
    (∀ st, (s.stations.get st).lastFrame < 249) ∧
    (∀ j, s.fallsSilent j = false ∧ ∀ n, waitLimit (s.driveState j) = some n → (s.port.drives.get j).wait + 1 < n) ∧
    ∀ c, s.play.state = .seeking c ∨ s.play.state = .ready c → s.startDue c = false

/-- The update under way does not bring a take that runs to its end (R179). -/
def State.KeepsRunning (s : State) : Prop :=
  ∀ h e, s.engineBegin.play.state = .running h e → s.engineBegin.atEnd h e = false

/-- A zone that blocks a motion axis at setpoint `p`, with the gap from `p` to one count short of its near edge (R14, R91). -/
def State.Blocks (s : State) (m : Motion) (p : Int) (z : ZoneId) (gap : Int) : Prop :=
  (s.zone z).active = true ∧ (s.zone z).entry.kind = .hard ∧ (s.zone z).entry.metBy s.reaches = true ∧
    ∃ lo hi, (s.zone z).entry.ranges.get m = some (lo, hi) ∧
      ((p < lo * 256 ∧ gap = (lo - 1) * 256 - p) ∨ (lo * 256 ≤ p ∧ hi * 256 < p ∧ gap = p - (hi + 1) * 256))

/-! ### Zones judged afresh (R88, R95, R96) -/

/-- Every ranged axis of an entry has a zone position that lies in its range (R89, R95). -/
def State.Inside (s : State) (e : ZoneEntry) : Prop :=
  ∀ m lo hi, e.ranges.get m = some (lo, hi) → ∃ p, s.zonePosition m = some p ∧ lo * 256 ≤ p ∧ p ≤ hi * 256

/-- An entry of a table is active as R88 judges it: enabled, its mode match fits the crane mode, and for a CREW entry some
channel of its mask is PRESENT or in FAULT. -/
def State.ActiveBy88 (s : State) (table : ZoneTable) (e : ZoneEntry) : Prop :=
  e.enabled = true ∧
    (e.modeMatch = .both ∨ (e.modeMatch = .playback ∧ ∃ j, (s.mode j).underTake = true) ∨
      (e.modeMatch = .manual ∧ ∀ j, (s.mode j).underTake = false)) ∧
    (table = .set ∨ ∃ c : Channel, e.mask.getLsbD c.val = true ∧ (s.zones.channels.get c).state ≠ .clear)

/-- Every active flag is as R88 judges it, and an entry that is not active is not occupied (R95). -/
def State.ActivityHolds (s : State) : Prop :=
  ∀ z, ((s.zone z).active = true ↔ s.ActiveBy88 z.table (s.zone z).entry) ∧
    ((s.zone z).active = false → (s.zone z).occupied = false)

/-- Every HARD entry that has become active has been tested: its occupied flag is set exactly where the crane is inside it,
and ZONE_OCCUPIED has then been raised for it at level 2 (R95, R96). -/
def State.TestedWhenActive (s t : State) : Prop :=
  ∀ z, (s.zone z).active = false → (s.zone z).occupied = false → (t.zone z).active = true →
    (s.zone z).entry.kind = .hard →
    ((t.zone z).occupied = true ↔ s.Inside (s.zone z).entry) ∧
    (s.Inside (s.zone z).entry → .zoneOccupied z ∈ t.stop.memory ∧ 2 ≤ t.stop.level)

/-- Every HARD entry that an event made active, with its channels as the event left them and the crane mode as it found it,
has ZONE_OCCUPIED raised for it at level 2 where the crane was inside it, also where an earlier raise of the same test has
cancelled a cue and so made the entry inactive again (R95, R96). -/
def State.EachFoundIsRaised (s t : State) : Prop :=
  ∀ z, (s.zone z).active = false → (s.zone z).occupied = false → (s.zone z).entry.kind = .hard →
    { s with zones := { s.zones with channels := t.zones.channels } }.ActiveBy88 z.table (s.zone z).entry →
    s.Inside (s.zone z).entry → .zoneOccupied z ∈ t.stop.memory ∧ 2 ≤ t.stop.level

/-- An event has had every entry judged afresh. At level 3 the test can find positions that a raise has just changed, since
the drives of ACTIVE axes then give up their setpoints. -/
def State.ZonesJudged (s t : State) : Prop :=
  (∀ z, (t.zone z).entry = (s.zone z).entry) ∧ t.ActivityHolds ∧ (s.stop.level ≤ 2 → s.TestedWhenActive t) ∧
    s.EachFoundIsRaised t

/-! ### The state report (sections 10.6 and 10.7) -/

/-- Section 0 of a report (R126). -/
def State.StopSection (s : State) (p : List Byte) : Prop :=
  p.length = 16 ∧ natAt p 0 5 = s.time.now.toNat ∧ slice p 5 1 = beBytes 1 s.stop.level ∧
    slice p 6 1 = optBytes 1 (s.stop.primaryCause.map Cause.code) ∧ slice p 7 2 = optBytes 2 s.stop.primaryRecord ∧
    [ChainState.closed, .isOpen, .split, .fault][natAt p 9 1]? = some s.stop.chain ∧
    natAt p 10 1 = s.stop.cut.toNat + 2 * s.stop.localResetSeen.toNat + 4 * s.configDefaulted.toNat ∧
    slice p 11 2 = optBytes 2 s.stop.haltTimer ∧ slice p 13 1 = beBytes 1 s.stop.records.length ∧
    slice p 14 2 = optBytes 2 (s.stop.records.head?.map fun r => r.sequence)

/-- The section of an axis (R26, R60, R81). That the velocity of an axis that is not ACTIVE is absent is log entry 17. -/
def State.AxisSection (s : State) (j : Axis) (p : List Byte) : Prop :=
  p.length = 22 ∧ slice p 0 1 = optBytes 1 ((s.auth.get j).owner.map fun o => o.val) ∧
    [Mode.idle, .manual, .seek, .playback, .paused][natAt p 1 1]? = some (s.mode j) ∧
    slice p 2 1 = optBytes 1 ((s.auth.get j).trimStation.map fun o => o.val) ∧
    (match (s.auth.get j).command with
      | .vel n => natAt p 3 1 = 0 ∧ slice p 4 4 = beInt 4 n
      | .pos c => natAt p 3 1 = 1 ∧ slice p 4 4 = beInt 4 c
      | .user u => natAt p 3 1 = 2 ∧ slice p 4 4 = beInt 4 u
      | .delta d => natAt p 3 1 = 3 ∧ slice p 4 4 = beInt 4 d) ∧
    (match (s.channels.get j).moving with
      | some m => slice p 8 4 = beInt 4 (toCount m.p) ∧ slice p 12 3 = beInt 3 (m.v.tdiv 256)
      | none => slice p 8 4 = [0, 0, 0, 0] ∧ slice p 12 3 = ones 3) ∧
    (match (s.port.drives.get j).lastReport with
      | some (c, x) => slice p 15 4 = beInt 4 x ∧
        [ReportCode.braked, .powering, .ready, .fault][natAt p 19 1]? = some c
      | none => slice p 15 5 = ones 5) ∧
    [DriveState.off, .waking, .active, .parking, .parked, .fault][natAt p 20 1]? = some (s.driveState j) ∧
    natAt p 21 1 % 8 = (s.auth.get j).stale.toNat + (if s.driveState j = .active then 0 else 2) +
      4 * (s.port.drives.get j).followingError.toNat ∧
    [Commissioning.unset, .limited, .ready][natAt p 21 1 / 8]? = some (s.channels.get j).commissioning

/-- Section 11 of a report (R39). -/
def State.LensSection (s : State) (p : List Byte) : Prop :=
  p.length = 18 ∧ ∀ l : Lens, slice p (6 * l.val) 3 = optBytes 3 (s.userValue l) ∧
    slice p (6 * l.val + 3) 2 = beBytes 2 (s.maps.get l).generation ∧
    natAt p (6 * l.val + 5) 1 = (s.maps.get l).map.isSome.toNat

/-- Section 12 of the report of a station: the station table and the link states, then its own items (R81). -/
def State.StationSection (s : State) (st : Station) (p : List Byte) : Prop :=
  p.length = 23 ∧
    (∀ o : Station, slice p (4 * o.val) 1 = beBytes 1 (s.stations.get o).rank ∧
      natAt p (4 * o.val + 1) 2 = (s.stations.get o).rights.toNat ∧
      [LinkState.down, .aligning, .up, .test][natAt p (4 * o.val + 3) 1]? = some (s.linkState o)) ∧
    slice p 16 1 = beBytes 1 (s.stations.get st).lastMove ∧ slice p 17 2 = beBytes 2 (s.links.get st).crcErrors ∧
    natAt p 19 1 = (match s.zones.staging.get st with
      | some g => 128 + (if g.zone.table = .crew then 8 else 0) + g.zone.index.val
      | none => 0) ∧
    slice p 20 1 = optBytes 1 (s.marks.readers.get st) ∧
    natAt p 21 1 = (s.links.get st).test.live.toNat + 2 * (s.links.get st).test.sticky.toNat ∧
    slice p 22 1 = beBytes 1 (s.links.get st).test.errors

/-- Section 13 of a report (R104). That the crane mode is 0 for MANUAL is log entry 31. -/
def State.ZoneSection (s : State) (p : List Byte) : Prop :=
  p.length = 10 ∧
    (∀ c : Channel, [PresenceState.clear, .present, .fault][natAt p 0 2 / 4 ^ c.val % 4]? =
      some (s.zones.channels.get c).state) ∧
    slice p 2 1 = beBytes 1 s.zones.debounce ∧ (natAt p 3 1 = 1 ↔ ∃ j, (s.mode j).underTake = true) ∧
    ∀ (z : ZoneId) (i : Nat), i = (if z.table = .set then z.index.val else 8 + z.index.val) →
      (natAt p 4 2).testBit i = (s.zone z).entry.enabled ∧ (natAt p 6 2).testBit i = (s.zone z).active ∧
        (natAt p 8 2).testBit i = (s.zone z).occupied

/-- Section 14 of a report (R132, R134). -/
def State.TimeSection (s : State) (p : List Byte) : Prop :=
  p.length = 17 ∧ [SyncMode.free, .adopt, .check][natAt p 0 1]? = some s.time.settings.mode ∧
    slice p 1 2 = beBytes 2 s.time.settings.offset ∧ slice p 3 2 = beBytes 2 s.time.settings.tolerance ∧
    [CounterMode.accumulate, .rate][natAt p 5 1]? = some s.time.settings.counter ∧
    slice p 6 4 = beBytes 4 (if s.time.settings.counter = .rate then s.time.lastPeriod else s.time.tally) ∧
    slice p 10 2 = beBytes 2 s.time.periodCount ∧
    natAt p 12 1 = s.time.drift.toNat + (if s.time.lastDifference = none then 2 else 0) ∧
    match s.time.lastDifference with
    | some x => slice p 13 4 = beInt 4 x
    | none => slice p 13 4 = ones 4

/-- Section 15 of a report (R142). -/
def State.MarkSection (s : State) (p : List Byte) : Prop :=
  p.length = 10 ∧ slice p 0 2 = beBytes 2 s.marks.count ∧
    (match s.marks.published with
      | some m => natAt p 3 5 = m.timebase.toNat ∧ natAt p 2 1 = (match m.source with
        | .input => 0
        | .request o => o.val + 1)
      | none => slice p 2 6 = ones 6) ∧
    natAt p 8 1 = s.marks.pending.toNat ∧
    natAt p 9 1 = (allStations.filter fun o => (s.marks.readers.get o).isSome).length

/-- Section 16 of a report (R165). That an EMPTY or LOADING slot shows no protect flag is log entry 40. -/
def State.TakeSection (s : State) (p : List Byte) : Prop :=
  p.length = 19 ∧
    (match s.takes.recordingTake with
      | some (r, k) => natAt p 0 1 = r.slot.val ∧ slice p 1 4 = beBytes 4 k.count
      | none => slice p 0 5 = ones 5) ∧
    slice p 5 2 = beBytes 2 s.takes.freeList.length ∧
    ∀ i : TakeNo, match s.takes.slots.get i with
      | .empty => natAt p 7 8 / 4 ^ i.val % 4 = 0 ∧ (natAt p 15 4).testBit i.val = false
      | .recording k => natAt p 7 8 / 4 ^ i.val % 4 = 1 ∧ (natAt p 15 4).testBit i.val = k.isProtected
      | .closed k _ => natAt p 7 8 / 4 ^ i.val % 4 = 2 ∧ (natAt p 15 4).testBit i.val = k.isProtected
      | .loading _ _ => natAt p 7 8 / 4 ^ i.val % 4 = 3 ∧ (natAt p 15 4).testBit i.val = false

/-- The hold, the flags and the two values that section 17 carries for an engine that is not IDLE. -/
def engineFields (p : List Byte) (state : Nat) (h : Hold) (start : Option Time) (go : Bool) (elapsed : Nat) : Prop :=
  natAt p 0 1 = state ∧ natAt p 1 1 = h.slot.val ∧ natAt p 2 1 = h.station.val ∧
    natAt p 3 1 = start.isSome.toNat + 2 * go.toNat + 4 * h.ignoreLens.toNat ∧
    slice p 4 5 = optBytes 5 (start.map fun x => x.toNat) ∧ slice p 9 4 = beBytes 4 elapsed

/-- Section 17 of a report (R186). The flags that a state does not hold are 0 by log entry 40. -/
def State.EngineSection (s : State) (p : List Byte) : Prop :=
  p.length = 23 ∧
    (match s.play.state with
      | .idle => natAt p 0 1 = 0 ∧ slice p 1 2 = ones 2 ∧ natAt p 3 1 = 0 ∧ slice p 4 9 = ones 9
      | .seeking c => engineFields p 1 c.hold c.start c.go c.runStart
      | .ready c => engineFields p 2 c.hold c.start c.go c.runStart
      | .running h e => engineFields p 3 h none false e
      | .paused h e => engineFields p 4 h none false e) ∧
    slice p 13 2 = beBytes 2 s.play.missedCue ∧ slice p 15 2 = beBytes 2 s.play.lateCue ∧
    slice p 17 3 = beBytes 3 s.play.cueOffset ∧ slice p 20 3 = beBytes 3 s.play.goLead

/-- Section 18 of a report (R199). -/
def State.FlashSection (s : State) (p : List Byte) : Prop :=
  p.length = 7 ∧ match s.flashPort with
    | none => natAt p 0 1 = 0 ∧ slice p 1 6 = ones 6
    | some op => [FlashKind.saveTake, .loadTake, .saveConfig][natAt p 0 1 - 1]? = some op.kind ∧ natAt p 0 1 ≠ 0 ∧
      slice p 1 2 = beBytes 2 op.first ∧ slice p 3 2 = beBytes 2 op.last ∧ slice p 5 2 = beBytes 2 op.done

/-- A section 0 to 18 of the report of a station, read from a state. -/
def State.SectionHolds (s : State) (st : Station) (sect : Nat) (p : List Byte) : Prop :=
  (sect = 0 → s.StopSection p) ∧ (∀ j : Axis, sect = j.val + 1 → s.AxisSection j p) ∧ (sect = 11 → s.LensSection p) ∧
    (sect = 12 → s.StationSection st p) ∧ (sect = 13 → s.ZoneSection p) ∧ (sect = 14 → s.TimeSection p) ∧
    (sect = 15 → s.MarkSection p) ∧ (sect = 16 → s.TakeSection p) ∧ (sect = 17 → s.EngineSection p) ∧
    (sect = 18 → s.FlashSection p)

/-- The section numbers of the notice kinds present in a set, in the order of the table of R196. -/
def Notices.kinds (n : Notices) : List Nat :=
  (if n.lostAxes.isSome then [19] else []) ++ (if n.cueFailed.isSome then [20] else []) ++
    (if n.playEnded.isSome then [21] else []) ++ (if n.recordClosed.isSome then [22] else []) ++
    (if n.stopRaised.isSome then [23] else []) ++ (if n.markPublished.isSome then [24] else []) ++
    (if n.flashDone.isSome then [25] else []) ++ (if n.flashFailed.isSome then [26] else [])

/-! ### Replies of MARK_READ, READ_STOPS and TAKE_INFO (section 10.6) -/

/-- Part 0 of a mark (R139): source, timebase, two flag bytes, playing and recording take, and the lens user values. -/
def Mark.Part0Holds (m : Mark) (p : List Byte) : Prop :=
  p.length = 24 ∧ natAt p 0 1 = (match m.source with
    | .input => 0
    | .request o => o.val + 1) ∧
    natAt p 1 5 = m.timebase.toNat ∧ natAt p 6 2 < 32768 ∧
    (∀ j : Axis, (natAt p 6 2).testBit j.val = (m.setpoints.get j).isNone) ∧
    (natAt p 6 2).testBit 10 = m.playing.isSome ∧ (natAt p 6 2).testBit 11 = m.recording.isSome ∧
    (∀ l : Lens, (natAt p 6 2).testBit (12 + l.val) = (m.userValues.get l).isSome) ∧
    (∀ x place, (x = m.playing ∧ place = 8) ∨ (x = m.recording ∧ place = 12) →
      (x = none → slice p place 4 = ones 4) ∧
      ∀ (i : TakeNo) n, x = some (i, n) → n < 134217728 → natAt p place 4 = i.val * 134217728 + n) ∧
    ((∀ l u, m.userValues.get l = some u → u < 1048576) → natAt p 16 8 % 16 = 0 ∧
      ∀ l : Lens, natAt p 16 8 / 2 ^ (44 - 20 * l.val) % 1048576 = (m.userValues.get l).getD 1048575)

/-- Five setpoints of 4 bytes each, from an axis on, an inactive one 0 (R140). -/
def FiveSetpoints (x : Tab 10 (Option Int)) (first place : Nat) (p : List Byte) : Prop :=
  ∀ j : Axis, first ≤ j.val → j.val < first + 5 → slice p (place + 4 * (j.val - first)) 4 = beInt 4 ((x.get j).getD 0)

/-- A zone in one byte: the table in the high bit, the index below. -/
def zoneByte (z : ZoneId) : Byte := BitVec.ofNat 8 ((if z.table = .set then 0 else 128) + z.index.val)

/-- The four subject bytes of a cause: zone, axis, station and presence channel, all ones where it has none (R109). -/
def Cause.subject (c : Cause) : List Byte :=
  match c with
  | .start | .estopChain | .haltTimeout => [255, 255, 255, 255]
  | .driveFault j | .driveSilent j | .followingError j => [255, BitVec.ofNat 8 j.val, 255, 255]
  | .zoneOccupied z => [zoneByte z, 255, 255, 255]
  | .zoneOverrun z j | .zoneBlock z j | .zoneSpeed z j => [zoneByte z, BitVec.ofNat 8 j.val, 255, 255]
  | .presenceFault k => [255, 255, 255, BitVec.ofNat 8 k.val]
  | .linkLost o | .stopRequest o => [255, 255, BitVec.ofNat 8 o.val, 255]

/-- Parts 1 to 4 of a stop record: a flag byte, then five setpoints. What an absent part holds beside its mark is log entry
17. -/
def RecordHalf (x : Option (Tab 10 (Option Int))) (first : Nat) (p : List Byte) : Prop :=
  p.length = 21 ∧ match x with
    | none => natAt p 0 1 = 128 ∧ slice p 1 20 = ones 20
    | some t => natAt p 0 1 < 32 ∧ FiveSetpoints t first 1 p ∧
      ∀ j : Axis, first ≤ j.val → j.val < first + 5 → (natAt p 0 1).testBit (j.val - first) = (t.get j).isNone

/-- A part of a stop record (R124). -/
def StopRecord.PartHolds (r : StopRecord) (part : Nat) (p : List Byte) : Prop :=
  (part = 0 → p.length = 17 ∧ natAt p 0 5 = r.timebase.toNat ∧ slice p 5 1 = beBytes 1 r.cause.code ∧
    slice p 6 1 = beBytes 1 r.level ∧ natAt p 7 1 = r.secondary.toNat ∧ slice p 8 4 = r.cause.subject ∧
    match r.playback with
    | some (i, n) => natAt p 12 1 = i.val ∧ slice p 13 4 = beBytes 4 n
    | none => slice p 12 5 = ones 5) ∧
  (part = 1 → RecordHalf (some r.setpoints) 0 p) ∧ (part = 2 → RecordHalf (some r.setpoints) 5 p) ∧
  (part = 3 → RecordHalf r.standstill 0 p) ∧ (part = 4 → RecordHalf r.standstill 5 p)

/-- Part 1 of a take's entry: origin, recorded-at timebase and lens generations. The value bytes where a lens generation has
no number are log entry 35. -/
def Take.OriginPart (t : Take) (p : List Byte) : Prop :=
  p.length = 20 ∧
    (match t.origin with
    | .manual => natAt p 0 1 = 0 ∧ slice p 1 5 = ones 5
    | .layer i e => natAt p 0 1 = 1 ∧ slice p 1 1 = [i] ∧ slice p 2 4 = beBytes 4 e) ∧
    (match t.data with
    | some d => natAt p 6 5 = d.recordedAt.toNat
    | none => slice p 6 5 = ones 5) ∧
    ∀ l : Lens, match (if t.axes.getLsbD (lensAxis l).val then t.data.bind fun d => d.lens.get l else none) with
      | some (.value g) => natAt p (11 + 3 * l.val) 1 = 0 ∧ slice p (12 + 3 * l.val) 2 = beBytes 2 g
      | some .mixed => natAt p (11 + 3 * l.val) 1 = 1 ∧ slice p (12 + 3 * l.val) 2 = ones 2
      | none => natAt p (11 + 3 * l.val) 1 = 2 ∧ slice p (12 + 3 * l.val) 2 = ones 2

/-- Parts 2 to 11: the envelope of an axis of the set once a sample is stored, then the presence byte. -/
def Take.EnvelopePart (t : Take) (j : Axis) (p : List Byte) : Prop :=
  p.length = 21 ∧ match (if t.axes.getLsbD j.val then t.data else none) with
    | some d => slice p 0 5 = beInt 5 (d.envelope.get j).minimum ∧ slice p 5 5 = beInt 5 (d.envelope.get j).maximum ∧
      slice p 10 5 = beBytes 5 (d.envelope.get j).velocity ∧ slice p 15 5 = beBytes 5 (d.envelope.get j).stepChange ∧
      natAt p 20 1 = 1
    | none => slice p 0 20 = ones 20 ∧ natAt p 20 1 = 0

/-- Parts 12 and 13: five first-sample values in whole counts, then the presence byte. Its order of bits is log entry 36. -/
def Take.FirstPart (t : Take) (first : Nat) (p : List Byte) : Prop :=
  p.length = 21 ∧ natAt p 20 1 < 32 ∧ ∀ j : Axis, first ≤ j.val → j.val < first + 5 →
    match (if t.axes.getLsbD j.val then t.data else none) with
    | some d => slice p (4 * (j.val - first)) 4 = beInt 4 (toCount (d.first.get j)) ∧
      (natAt p 20 1).testBit (j.val - first) = true
    | none => slice p (4 * (j.val - first)) 4 = ones 4 ∧ (natAt p 20 1).testBit (j.val - first) = false

/-- A part of the entry of a RECORDING or CLOSED take (R157); `state` is the place of its state in the list of section 8.2. -/
def Take.PartHolds (t : Take) (state : Nat) (reason : Option CloseReason) (part : Nat) (p : List Byte) : Prop :=
  (part = 0 → p.length = 20 ∧ natAt p 0 1 = state ∧ slice p 1 8 = t.label.list ∧ natAt p 9 2 = t.axes.toNat ∧
    slice p 11 1 = beBytes 1 t.divisor ∧ slice p 12 4 = beBytes 4 t.count ∧ slice p 16 2 = beBytes 2 t.blocks.length ∧
    natAt p 18 1 = t.isProtected.toNat ∧
    match reason with
    | some c => [CloseReason.stopped, .interrupted, .full, .loaded][natAt p 19 1]? = some c
    | none => slice p 19 1 = ones 1) ∧
  (part = 1 → t.OriginPart p) ∧ (∀ j : Axis, part = j.val + 2 → t.EnvelopePart j p) ∧ (part = 12 → t.FirstPart 0 p) ∧
  (part = 13 → t.FirstPart 5 p)

/-! ### What an archive image can hold (section 10.6) -/

/-- A take whose values fit their fields in the header of an archive image, each axis of its set by itself. -/
def Take.fits (k : Take) (d : TakeData) : Prop :=
  k.data = some d ∧ k.axes ≠ 0 ∧ k.divisor ∈ [1, 2, 4, 8] ∧ 2 ≤ k.count ∧ k.count ≤ storeCapacity (setSize k.axes) ∧
    (∀ slot e, k.origin = .layer slot e → e < 4294967296) ∧ (∀ l g, d.lens.get l = some (.value g) → g < 65536) ∧
    ∀ j : Axis, k.axes.getLsbD j.val = true →
      (-549755813888 ≤ d.first.get j ∧ d.first.get j < 549755813888) ∧
      (-549755813888 ≤ (d.envelope.get j).minimum ∧ (d.envelope.get j).minimum < 549755813888) ∧
      (-549755813888 ≤ (d.envelope.get j).maximum ∧ (d.envelope.get j).maximum < 549755813888) ∧
      (d.envelope.get j).velocity < 1099511627776 ∧ (d.envelope.get j).stepChange < 1099511627776

/-! ### The stores -/

/-- The flash and the values of the take blocks are in canonical form. -/
def State.CanonicalStores (s : State) : Prop := Memory.wf erasedByte s.flash ∧ Memory.wf 0 s.takes.values

/-! ### The stop level, CUT and the stop flag (R20, R107) -/

/-- The level is 0 to 3, CUT is asserted exactly at level 3 and while SYSRESET is asserted, and the generator's stop flag
is HELD exactly above level 0. -/
def State.CutFollowsLevel (s : State) : Prop :=
  s.stop.level ≤ 3 ∧ (s.stop.cut = true ↔ s.stop.level = 3 ∨ s.sysreset = true) ∧
    (s.generator.held = true ↔ 0 < s.stop.level)

/-! ### The stop record list (R123) -/

/-- The sequence numbers of a list run downward, wrapping, from one below `n`. -/
def runsDown : Nat → List StopRecord → Prop
  | _, [] => True
  | n, r :: rest => r.sequence < 65536 ∧ (r.sequence + 1) % 65536 = n ∧ runsDown r.sequence rest

/-- The list holds at most 8 records, their sequences running down from the next sequence. -/
def State.RecordsInOrder (s : State) : Prop :=
  s.stop.nextSequence < 65536 ∧ s.stop.records.length ≤ 8 ∧ runsDown s.stop.nextSequence s.stop.records

/-! ### Drives and channels (R4, R22, R23, R27, R58) -/

/-- A channel holds a setpoint exactly while its drive is ACTIVE; a powered drive's axis is READY; an axis is UNSET exactly
while it has no limits record; a READY lens axis has a valid map; and at level 3 no drive is powered. -/
def State.DrivesAgree (s : State) : Prop :=
  (∀ j, (s.channels.get j).moving.isSome = true ↔ s.driveState j = .active) ∧
  (∀ j, (s.driveState j).powered = true → (s.channels.get j).commissioning = .ready) ∧
  (∀ j, (s.channels.get j).commissioning = .unset ↔ s.limits j = none) ∧
  (∀ l, (s.channels.get (lensAxis l)).commissioning = .ready → (s.maps.get l).map.isSome = true) ∧
  (s.stop.level = 3 → ∀ j, (s.driveState j).powered = false)

/-! ### Take blocks (R143) -/

/-- The blocks of a slot. -/
def TakeSlot.blocks (k : TakeSlot) : List Nat :=
  match k with
  | .empty => []
  | .recording t => t.blocks
  | .closed t _ => t.blocks
  | .loading _ bs => bs

/-- Every block is on the free list or in the block list of exactly one take. -/
def State.BlocksKept (s : State) : Prop :=
  (s.takes.freeList ++ s.takes.slots.list.flatMap TakeSlot.blocks).Perm (List.range 8192)

/-! ### Modes, the engine and the recorder (R65, R110, R158) -/

/-- The axes of a held take are in a mode under the cueing station, and no other axis is under a take. -/
def State.holdsAxes (s : State) (h : Hold) (m : Mode) : Prop :=
  ∃ t, s.takes.closedTake h.slot = some t ∧
    ∀ j : Axis, if t.axes.getLsbD j.val then s.mode j = m ∧ (s.auth.get j).owner = some h.station
      else (s.mode j).underTake = false

/-- The modes that the engine's state calls for. -/
def State.modesFit (s : State) : Prop :=
  match s.play.state with
  | .idle => ∀ j, (s.mode j).underTake = false
  | .seeking c => s.holdsAxes c.hold .seek
  | .ready c => s.holdsAxes c.hold .seek
  | .running h _ => s.holdsAxes h .playback
  | .paused h _ => s.holdsAxes h .paused

/-- Whether a slot is RECORDING. -/
def TakeSlot.isRecording (k : TakeSlot) : Bool :=
  match k with
  | .recording _ => true
  | _ => false

/-- The modes fit the engine, an IDLE axis alone has no owner, one slot is RECORDING exactly while the recorder records
into it, and above level 0 the engine is IDLE or PAUSED and the recorder IDLE. -/
def State.StopsHoldTakes (s : State) : Prop :=
  s.modesFit ∧ (∀ j, s.mode j = .idle ↔ (s.auth.get j).owner = none) ∧
  (∀ i, (s.takes.slots.get i).isRecording = true ↔ ∃ r, s.takes.recorder = some r ∧ r.slot = i) ∧
  (0 < s.stop.level → (s.play.state = .idle ∨ ∃ h e, s.play.state = .paused h e) ∧ s.takes.recorder = none)

/-! ### Counters (the ranges of the item tables) -/

/-- A link's counts within the ranges of section 10.1. -/
def Link.inRange (l : Link) : Prop :=
  l.idleRun ≤ 16 ∧ l.badRun ≤ 32 ∧ l.crcErrors ≤ 65535 ∧ l.replies.length ≤ 8 ∧ l.test.errors ≤ 255 ∧
    (∀ o, l.overrun = some o → 1 ≤ o.count ∧ o.count ≤ 255)

/-- The counts of links, stations, presence channels, the chain, the halt timer, the Mark Latch, the engine and the report
within their ranges. -/
def State.CountsInRange (s : State) : Prop :=
  (∀ st, (s.links.get st).inRange) ∧
  (∀ st, (s.stations.get st).lastFrame ≤ 250 ∧ (s.stations.get st).lastMove ≤ 20) ∧
  (∀ c, (s.zones.channels.get c).agree ≤ 50 ∧ (s.zones.channels.get c).split ≤ 21) ∧
  s.stop.chainSplit ≤ 21 ∧ (∀ n, s.stop.haltTimer = some n → n ≤ 2000) ∧
  (∀ st n, s.marks.readers.get st = some n → n ≤ 200) ∧ s.marks.count ≤ 65535 ∧ s.marks.lockout ≤ 20 ∧
  s.play.missedCue ≤ 65535 ∧ s.play.lateCue ≤ 65535 ∧ s.reportCount ≤ 9

/-! ### What a configuration image can hold (section 11.2, R202) -/

/-- A zone entry that is blank, or that ZONE_OPEN, ZONE_RANGE and LOAD_ZONE would take into a table. -/
def ZoneEntry.storable (e : ZoneEntry) (t : ZoneTable) : Prop :=
  e = ZoneEntry.blank ∨
    (openFieldsValid t e.kind e.cap e.mask = true ∧ heldCap e.kind e.cap = e.cap ∧ e.hasRange = true ∧
      ∀ m, rangeValid (e.ranges.get m) = true)

/-- A map record that is not valid, or whose map is valid against the limits record of its axis. -/
def LensMap.storable (m : LensMap) (l : Lens) (lim : Option Limits) : Prop :=
  m.generation < 65536 ∧
    match m.map with
    | none => True
    | some mp => ∃ r, lim = some r ∧ validMapIn l r mp.rising mp.points = true

/-- Settings each of which its own request would take. -/
def ConfigImage.storable (c : ConfigImage) : Prop :=
  ranksValid c.stations = true ∧ someConfig c.stations = true ∧
    (∀ j r, c.limits.get j = some r → validLimits j r = true) ∧
    (∀ l, (c.maps.get l).storable l (c.limits.get (lensAxis l))) ∧
    (∀ i, (c.setTable.get i).storable .set) ∧ (∀ i, (c.crewTable.get i).storable .crew) ∧
    1 ≤ c.debounce ∧ c.debounce ≤ 50 ∧ c.sync.offset ≤ 65535 ∧ c.sync.tolerance ≤ 1000 ∧
    1 ≤ c.sync.period ∧ c.sync.period ≤ 65535 ∧ 1 ≤ c.sync.threshold ∧ c.sync.threshold ≤ 65535 ∧
    c.cueOffset ≤ 1000000 ∧ c.goLead ≤ 1000000

end Sys2Proof.Machine
end

