-- ==== Sys2Proof/Certificates/Slice0/Obligations.lean ====
section
/-! DEFINITION. The statements about the part. -/

section Statements

open Sys2Proof Sys2Proof.Machine

/-! ### Steps, commands and requests in general -/

/-- The step takes the command at the front of the queue and runs it on the state with the rest; on an empty queue the part
idles, which is the model's choice (log entry 1). -/
def Obligations.StepTakesTheFrontCommand : Prop :=
  (∀ (c : Instr) (s : State) (rest : List Instr), s.pending = c :: rest → step s = exec c (s.withPending rest)) ∧
    ∀ s : State, s.pending = [] → step s = .next s

/-- While SYSRESET is asserted no command but power-on and the reset itself does anything (R203). -/
def Obligations.HeldInResetNothingHappens : Prop :=
  ∀ (c : Instr) (s : State), s.sysreset = true → c ≠ .powerOn → (∀ b, c ≠ .sysreset b) → exec c s = .next s

/-- Every command completes from every state, and leaves the queue of waiting commands alone. -/
def Obligations.EveryCommandCompletes : Prop :=
  ∀ (c : Instr) (s : State), ∃ t : State, exec c s = .next t ∧ t.pending = s.pending

/-- Every request of the catalogue that is decided is answered once, at the tail of its own station's reply queue, and a
request other than CUE that is refused changes nothing else (a refused CUE may be counted, R185). -/
def Obligations.EveryRequestIsAnsweredOnce : Prop :=
  ∀ (c : Instr) (s : State) (st : Station) (tag code : Byte) (p : List Byte),
    c.request? = some (st, tag, code, p) → s.Serves st p →
    ∃ t r d, exec c s = .next t ∧ (t.links.get st).replies = (s.links.get st).replies ++ [⟨tag, code, r, d⟩] ∧
      (∀ o, o ≠ st → (t.links.get o).replies = (s.links.get o).replies) ∧
      (r ≠ .ok → code ≠ 34 → t = s.answered st tag code r d)

/-! ### Invariants -/

/-- The state right after the start that follows power-on meets every invariant below. That the flash was never written is the
model's choice (log entry 6). -/
def Obligations.ResetMeetsTheInvariants : Prop :=
  State.reset.CanonicalStores ∧ State.reset.CutFollowsLevel ∧ State.reset.RecordsInOrder ∧ State.reset.DrivesAgree ∧
    State.reset.BlocksKept ∧ State.reset.StopsHoldTakes ∧ State.reset.CountsInRange

/-- Every step keeps the flash and the take values in canonical form. The form is the model's own, over what an unwritten byte
and value read as (log entries 7 and 9). -/
def Obligations.StepKeepsCanonicalStores : Prop :=
  ∀ s t : State, s.CanonicalStores → step s = .next t → t.CanonicalStores

/-- Every step keeps CUT and the stop flag in agreement with the stop level (R20, R107, R115). -/
def Obligations.StepKeepsCutWithTheLevel : Prop :=
  ∀ s t : State, s.CutFollowsLevel → step s = .next t → t.CutFollowsLevel

/-- Every step keeps the stop records at most eight, their sequences running down from the next (R109, R123). -/
def Obligations.StepKeepsRecordsInOrder : Prop :=
  ∀ s t : State, s.RecordsInOrder → step s = .next t → t.RecordsInOrder

/-- Every step keeps drives, channels, limits and maps in agreement (R4, R22, R23, R27, R46, R58). -/
def Obligations.StepKeepsDrivesAndChannels : Prop :=
  ∀ s t : State, s.DrivesAgree → step s = .next t → t.DrivesAgree

/-- Every step keeps each take block on the free list or in the block list of exactly one take (R143). -/
def Obligations.StepKeepsEveryBlock : Prop :=
  ∀ s t : State, s.BlocksKept → step s = .next t → t.BlocksKept

/-- Every step keeps modes, engine and recorder in agreement, with no take running or recording above level 0 (R65, R110,
R147, R168, R180). -/
def Obligations.StepKeepsModesWithTheTake : Prop :=
  ∀ s t : State, s.StopsHoldTakes → step s = .next t → t.StopsHoldTakes

/-- Every step keeps the counters within the ranges of their tables. -/
def Obligations.StepKeepsCountsInRange : Prop :=
  ∀ s t : State, s.CountsInRange → step s = .next t → t.CountsInRange

/-! ### Arithmetic, maps and images -/

/-- The permitted speed is the largest whole number that meets the test of R7, and it is 0 for a gap that is not positive.
After a step no longer than the permitted speed, the next gap permits that step less the deceleration (section 1.5). -/
def Obligations.PermittedSpeedIsTheLargest : Prop :=
  ∀ (g : Int) (a : Nat), 0 < a →
    (g ≤ 0 → permittedSpeed g a = 0) ∧
    (0 < g → (permittedSpeed g a : Int) * (permittedSpeed g a + a) ≤ 2 * a * g ∧
      ∀ w : Nat, (w : Int) * (w + a) ≤ 2 * a * g → w ≤ permittedSpeed g a) ∧
    ∀ step : Nat, step ≤ permittedSpeed g a → step - a ≤ permittedSpeed (g - step) a

/-- A valid map converts each of its points both ways, and no forward conversion leaves the soft limits of the axis (R35,
R36). -/
def Obligations.MapConversionsMeetThePoints : Prop :=
  ∀ (l : Lens) (lim : Limits) (ps : List (Nat × Int)) (m : MapPoints), mapOf l lim ps = some m →
    (∀ q ∈ ps, m.forward q.1 = q.2 ∧ m.inverse q.2 = q.1) ∧
    ∀ u : Nat, lim.low ≤ m.forward u ∧ m.forward u ≤ lim.high

/-- A valid limits record is read back from its 30 bytes. -/
def Obligations.LimitsRecordsReadBack : Prop :=
  ∀ (j : Axis) (r : Limits), validLimits j r = true → (limitsBytes r).length = 30 ∧ limitsOf (limitsBytes r) = some r

/-- A configuration image built from settings that the part takes is read back whole from sector 0 (section 11.2, R202). How
the image codes what section 11.2 leaves open, the mask byte of a SET entry included, and what a stored zone entry may be, are
the model's choices (log entries 18, 19 and 47). -/
def Obligations.ConfigImageReadsBack : Prop :=
  ∀ (c : ConfigImage) (flash : List Host.Cell), c.storable → Memory.wf erasedByte flash →
    (configBytes c).length = 1963 ∧ readConfig (writeSector flash 0 (configBytes c)) = some c

/-! ### The update -/

/-- At each update the Drive Port sends one frame with the next frame number and no answer yet: RUN with the whole-count
setpoint for each ACTIVE drive, WAKE for a WAKING drive, PARK for a PARKING drive (WAKE where the raise of an occupied zone,
after the frame was built, has ended its wake), and REST for a drive that is OFF, in FAULT or was PARKED. Its bytes are the
number, ten entries, the position of RUN negated on an inverted axis, and the CRC-16 over the 51 bytes. And a HARD entry whose occupied flag an update sets has
ZONE_OCCUPIED raised for it at level 2; up to level 2 every active HARD entry is then occupied exactly where the crane is
inside it (R95, R96). An update changes no setting, no map, no byte of the flash and no timebase (R16, R41, R43, R194). -/
def Obligations.UpdateSendsOneFrame : Prop :=
  ∀ s : State, s.sysreset = false →
    ∃ t f, exec .update s = .next t ∧
      t.port.sent = some f ∧ f.number = s.port.nextFrame ∧ t.port.nextFrame = s.port.nextFrame + 1 ∧
      t.port.line.length = 53 ∧ (∀ j, f.answered.get j = false) ∧
      (∀ j m, t.driveState j = .active → (t.channels.get j).moving = some m → f.entries.get j = .run (toCount m.p)) ∧
      (∀ j, t.driveState j = .off ∨ t.driveState j = .fault → f.entries.get j = .rest) ∧
      (∀ j, t.driveState j = .waking → f.entries.get j = .wake) ∧
      (∀ j, t.driveState j = .parking → f.entries.get j = .park ∨ (s.driveState j = .waking ∧ f.entries.get j = .wake)) ∧
      (∀ j, s.driveState j = .parked → f.entries.get j = .rest) ∧
      t.port.line.take 1 = [f.number] ∧
      (∀ j : Axis, slice t.port.line (1 + 5 * j.val) 5 = match f.entries.get j with
        | .rest => [0, 0, 0, 0, 0]
        | .wake => [1, 0, 0, 0, 0]
        | .run c => 2 :: beInt 4 (if (s.limits j).map (fun r => r.invert) = some true then -c else c)
        | .park => [3, 0, 0, 0, 0]) ∧
      slice t.port.line 51 2 = beBytes 2 (crc16 (t.port.line.take 51)).toNat ∧
      (∀ z, (s.zone z).occupied = false → (t.zone z).occupied = true →
        .zoneOccupied z ∈ t.stop.memory ∧ 2 ≤ t.stop.level) ∧
      (s.stop.level ≤ 2 → ∀ z, (t.zone z).active = true → (t.zone z).entry.kind = .hard →
        ((t.zone z).occupied = true ↔ t.Inside (t.zone z).entry)) ∧
      t.config = s.config ∧ t.flash = s.flash ∧ t.flashPort = s.flashPort ∧ t.time.now = s.time.now ∧
      t.sysreset = s.sysreset ∧ t.configDefaulted = s.configDefaulted ∧ t.freeCount = s.freeCount

/-- At every tenth update a report is built for a station whose link is UP and whose last report has been sent: sections 0 to
18, each holding its values of every block as they stand after the update, and a section for each notice kind that the set
held, LOST_AXES with its detail; under the link's report number, which then rises by one; and the notices are emptied (R26,
R39, R60, R81, R104, R126, R134, R142, R165, R186, R195, R196). Where frames of the last report are unsent, and at every other
update, no report is built, and the report number, the frames and the notices stay. The station is one that this update does
not lose (R73). What a section holds for an absent velocity, for the crane mode and for flags that are not held is the model's
choice (log entries 17, 31 and 40). -/
def Obligations.TenthUpdateBuildsTheReports : Prop :=
  ∀ (s : State) (st : Station), s.sysreset = false → s.linkState st = .up → (s.stations.get st).lastFrame < 249 →
    (s.reportCount = 9 → (s.links.get st).reportFrames = [] → ∃ t : State, exec .update s = .next t ∧ t.reportCount = 0 ∧
      ((t.links.get st).reportFrames.map fun f => f.sect).take 19 = List.range 19 ∧
      (∀ f ∈ (t.links.get st).reportFrames, f.number = (s.links.get st).reportNumber ∧
        t.SectionHolds st f.sect f.payload) ∧
      (∀ n ∈ (s.links.get st).notices.kinds, ∃ f ∈ (t.links.get st).reportFrames, f.sect = n) ∧
      (∀ axes o, (s.links.get st).notices.lostAxes = some (axes, o) → ∃ f ∈ (t.links.get st).reportFrames,
        f.sect = 19 ∧ f.payload = beBytes 2 axes.toNat ++ [BitVec.ofNat 8 o.val]) ∧
      (t.links.get st).reportNumber = (s.links.get st).reportNumber + 1 ∧
      (t.links.get st).notices = Notices.empty) ∧
    ((s.reportCount = 9 ∧ (s.links.get st).reportFrames ≠ []) ∨ s.reportCount < 9 →
      ∃ t : State, exec .update s = .next t ∧ t.reportCount = (if s.reportCount = 9 then 0 else s.reportCount + 1) ∧
        (t.links.get st).reportFrames = (s.links.get st).reportFrames ∧
        (t.links.get st).reportNumber = (s.links.get st).reportNumber ∧
        (∀ n ∈ (s.links.get st).notices.kinds, n ∈ (t.links.get st).notices.kinds) ∧
        (t.links.get st).notices.lostAxes = (s.links.get st).notices.lostAxes)

/-- While the stop flag is HELD, an axis at rest stays where it is at every update (R10). At level 2, once every axis is at
rest, the update is the halt point where every ACTIVE drive's last report lies within fe_limit of its setpoint: every ACTIVE
drive is PARKING with its wait count at 0, its axis gives up its setpoint, and the frame carries PARK for it. A single ACTIVE
drive whose report lies beyond the limit keeps every ACTIVE drive ACTIVE (R23, R41, R57). -/
def Obligations.HeldAxisAtRestStays : Prop :=
  (∀ (s : State) (j : Axis) (m : Moving), s.sysreset = false → s.generator.held = true →
    (s.channels.get j).moving = some m → m.v = 0 →
    ∃ t : State, exec .update s = .next t ∧ ∀ m', (t.channels.get j).moving = some m' → m'.p = m.p ∧ m'.v = 0) ∧
  ∀ s : State, s.Quiet → s.stop.level = 2 → s.generator.held = true →
    (s.play.state = .idle ∨ ∃ h e, s.play.state = .paused h e) →
    (∀ j m, (s.channels.get j).moving = some m → m.v = 0) →
    ∃ t f, exec .update s = .next t ∧ t.port.sent = some f ∧
      ((∀ j, s.driveState j = .active → ∃ m lim code pos, (s.channels.get j).moving = some m ∧ s.limits j = some lim ∧
          (s.port.drives.get j).lastReport = some (code, pos) ∧ (pos - toCount m.p).natAbs ≤ lim.feLimit) →
        ∀ j, s.driveState j = .active → t.driveState j = .parking ∧ (t.port.drives.get j).wait = 0 ∧
          (t.channels.get j).moving = none ∧ f.entries.get j = .park) ∧
      ∀ i, s.driveState i = .active →
        ((s.port.drives.get i).lastReport = none ∨ ∃ m lim code pos, (s.channels.get i).moving = some m ∧
          s.limits i = some lim ∧ (s.port.drives.get i).lastReport = some (code, pos) ∧
          lim.feLimit < (pos - toCount m.p).natAbs) →
        ∀ j, s.driveState j = .active → t.driveState j = .active

/-- An update takes no setpoint across a soft limit: inside the limits it stays inside, and outside them it moves only toward
the inside; that a step which R14 alone would let pass a limit ends on it is read from the law (log entry 29). Outside a take
no axis moves by more than its vmax (R15, R16; the engine is IDLE and the axis is in IDLE or MANUAL). The update raises
ZONE_OVERRUN for a motion axis and the first zone, SET before CREW, that blocks it and cannot be honoured; and for an axis
that follows its path ZONE_BLOCK for the first zone that reduces its step, where each can be honoured, and ZONE_SPEED where
its candidate exceeds the smallest applying SLOW cap (R14, R15, R17, R18). That ZONE_BLOCK names the first zone in that order
that reduces the step, and that the speed check takes the candidate of the path also where a zone has reduced it, are read
from the rules (log entries 14 and 41). -/
def Obligations.NoUpdateExceedsVmax : Prop :=
  (∀ (s : State) (j : Axis) (m : Moving) (lim : Limits), s.sysreset = false →
    (s.channels.get j).moving = some m → (s.channels.get j).limits = some lim →
    ∃ t : State, exec .update s = .next t ∧ ∀ m', (t.channels.get j).moving = some m' →
      (lim.low * 256 ≤ m.p → m.p ≤ lim.high * 256 → lim.low * 256 ≤ m'.p ∧ m'.p ≤ lim.high * 256) ∧
      (lim.high * 256 ≤ m.p → m'.p ≤ m.p) ∧ (m.p ≤ lim.low * 256 → m.p ≤ m'.p) ∧
      (s.play.state = .idle → (s.mode j).underTake = false → m.v.natAbs ≤ lim.vmax →
        m'.v.natAbs ≤ lim.vmax ∧ (m'.p - m.p).natAbs ≤ lim.vmax)) ∧
  ∀ (s u : State) (k : Motion) (j : Axis) (m : Moving) (lim : Limits) (vc : Int), s.sysreset = false →
    u = s.beginUpdate.moveTrims.supplyTargets → j = motionAxis k → (u.channels.get j).moving = some m →
    (u.channels.get j).limits = some lim → u.candidate j = some vc → vc ≠ 0 →
    ∃ t : State, exec .update s = .next t ∧
      (∀ before z rest gap, allZones = before ++ z :: rest → u.Blocks k m.p z gap →
        (permittedSpeed gap lim.aStop : Int) < (m.v.natAbs : Int) - lim.aStop →
        (∀ y ∈ before, ∀ g, u.Blocks k m.p y g → (m.v.natAbs : Int) - lim.aStop ≤ permittedSpeed g lim.aStop) →
        .zoneOverrun z j ∈ t.stop.memory ∧ 1 ≤ t.stop.level) ∧
      ((u.auth.get j).mode = .playback → u.generator.held = false →
        (∀ y g, u.Blocks k m.p y g → (m.v.natAbs : Int) - lim.aStop ≤ permittedSpeed g lim.aStop) →
        ∀ before z rest gap, allZones = before ++ z :: rest → u.Blocks k m.p z gap →
          permittedSpeed gap lim.aStop < vc.natAbs →
          (∀ y ∈ before, ∀ g, u.Blocks k m.p y g → vc.natAbs ≤ permittedSpeed g lim.aStop) →
          .zoneBlock z j ∈ t.stop.memory ∧ 1 ≤ t.stop.level) ∧
      ((u.auth.get j).mode = .playback → u.generator.held = false →
        ∀ z cap, u.slowAnswer u.reaches j = some (z, cap) → lim.vmax * cap / 100 < vc.natAbs →
          .zoneSpeed z j ∈ t.stop.memory ∧ 1 ≤ t.stop.level)

/-! ### Events inside the part -/

/-- A timed start that is due: READY with GO-received, the take runs from its running-start elapsed and its axes pass to
PLAYBACK; READY without GO or still SEEKING, the cue fails with its reason and no axis of the take stays in SEEK (R175, R176,
R178). That a row of its own takes this part ahead of its update is the model's choice (log entry 2). At an update an untimed
cue in READY with GO-received runs in the same way, a take that runs has its elapsed count raised by one, and each ACTIVE axis
of the set stands at its path position with its trim, clamped to the soft limits (R17, R171, R177, R178). -/
def Obligations.TimedStartIsJudged : Prop :=
  (∀ (s : State) (c : Cue) (x : Time), s.sysreset = false → c.start = some x → x.toNat ≤ s.time.now.toNat →
    (s.play.state = .ready c → c.go = true → ∃ t : State, exec .timedStart s = .next t ∧
      t.play = { s.play with state := .running c.hold c.runStart } ∧
      (∀ j : Axis, t.auth.get j =
        if (s.takeAxes c.hold.slot).getLsbD j.val then { s.auth.get j with mode := .playback, stale := false }
        else s.auth.get j) ∧
      t = { s with play := t.play, auth := t.auth, taken := { s.taken with running := true } }) ∧
    ∀ why, (s.play.state = .ready c ∧ c.go = false ∧ why = .noGo) ∨ (s.play.state = .seeking c ∧ why = .notAtStart) →
      ∃ t : State, exec .timedStart s = .next t ∧ t.play = { s.play with state := .idle } ∧
        (s.linkState c.hold.station = .up →
          (t.links.get c.hold.station).notices.cueFailed = some (c.hold.slot, why)) ∧
        (∀ j : Axis, (s.takeAxes c.hold.slot).getLsbD j.val = true → (t.mode j).underTake = false) ∧ s.ChangedByAStop t) ∧
  ∀ (s : State) (h : Hold) (e : Nat) (k : Take), s.Quiet → s.stop.level = 0 → s.generator.held = false →
    s.takes.closedTake h.slot = some k →
    (∃ c, s.play.state = .ready c ∧ c.start = none ∧ c.go = true ∧ c.hold = h ∧ c.runStart = e) ∨
      (∃ n, s.play.state = .running h n ∧ s.taken.running = false ∧ e = n + 1 ∧
        ∀ j : Axis, k.axes.getLsbD j.val = true → s.mode j = .playback) →
    (∃ j : Axis, k.axes.getLsbD j.val = true ∧ e + s.lead j < (k.count - 1) * k.divisor) →
    ∃ t : State, exec .update s = .next t ∧ t.play = { s.play with state := .running h e } ∧
      ∀ j : Axis, k.axes.getLsbD j.val = true → t.mode j = .playback ∧ (t.auth.get j).owner = (s.auth.get j).owner ∧
        ∀ m lim, (s.channels.get j).moving = some m → s.limits j = some lim → lim.low ≤ lim.high →
          ∃ m', (t.channels.get j).moving = some m' ∧ m'.p = clamp (lim.low * 256) (lim.high * 256)
            (s.takes.pathPosition k j (e + s.lead j) + (t.channels.get j).trimOffset * 256)

/-- A WAKING drive whose wait reaches 500 updates, a PARKING drive whose wait reaches 200 and a powered drive that leaves a
third frame in a row unanswered enter FAULT with their causes (R47, R50, R52, R54). The silence judgement of the update comes
first: a drive that falls silent at it is not judged for its wait, and neither is a WAKING one while any drive does, whose
DRIVE_SILENT ends the wake (R52, R55). That a row of its own takes this part ahead of its update is the model's choice (log
entry 2). -/
def Obligations.DriveTimeoutsFault : Prop :=
  ∀ (s : State) (j : Axis), s.sysreset = false →
    (s.driveState j = .waking → 499 ≤ (s.port.drives.get j).wait → (∀ i, s.fallsSilent i = false) →
      ∃ t : State, exec (.wakeTimeout j) s = .next t ∧ s.DriveFaulted t j (.driveFault j)) ∧
    (s.driveState j = .parking → 199 ≤ (s.port.drives.get j).wait → s.fallsSilent j = false →
      ∃ t : State, exec (.parkTimeout j) s = .next t ∧ s.DriveFaulted t j (.driveFault j)) ∧
    ∀ f, s.port.sent = some f → f.entries.get j ≠ .rest → f.answered.get j = false → (s.driveState j).powered = true →
      2 ≤ (s.port.drives.get j).silence →
      exec (.parkTimeout j) s = .next s ∧ (∀ i, exec (.wakeTimeout i) s = .next s) ∧
        ∃ t : State, exec (.driveSilent j) s = .next t ∧ s.DriveFaulted t j (.driveSilent j)

/-- The halt timer at 2,000 updates: with a drive still WAKING, ACTIVE or PARKING the stop goes to level 3 with CUT and no
drive stays powered; with none, the timer is IDLE and nothing else changes (R58, R113, R115). That a row of its own takes this
part ahead of its update is the model's choice (log entry 2). -/
def Obligations.HaltTimerRunsOut : Prop :=
  ∀ (s : State) (n : Nat), s.sysreset = false → s.stop.level = 2 → s.stop.haltTimer = some n → 1999 ≤ n →
    (∀ i, (s.driveState i).powered = true → ∃ t : State, exec .haltTimeout s = .next t ∧ t.stop.level = 3 ∧ t.stop.cut = true ∧
      t.stop.haltTimer = none ∧ .haltTimeout ∈ t.stop.memory ∧ (∀ j, (t.driveState j).powered = false) ∧
      s.ChangedByAStop t) ∧
    ((∀ i, (s.driveState i).powered = false) →
      exec .haltTimeout s = .next { s with stop := { s.stop with haltTimer := none } })

/-- A station's last-MOVE count reaches 20: every MANUAL axis it owns whose mark is clear is marked stale with command VEL 0
and demands a velocity of 0, and nothing else changes (R5, R72). That a row of its own takes this part ahead of its update is
the model's choice (log entry 2). -/
def Obligations.StaleMarkStopsItsAxes : Prop :=
  ∀ (s : State) (st : Station), s.sysreset = false → s.linkState st = .up → 19 ≤ (s.stations.get st).lastMove →
    ∃ t : State, exec (.staleMark st) s = .next t ∧ (t.stations.get st) = { s.stations.get st with lastMove := 20 } ∧
      (∀ o, o ≠ st → t.stations.get o = s.stations.get o) ∧
      (∀ j, (s.auth.get j).owner = some st → s.mode j = .manual → (s.auth.get j).stale = false →
        t.auth.get j = { s.auth.get j with stale := true, command := .vel 0 } ∧
        t.channels.get j = (s.channels.get j).zeroTarget) ∧
      (∀ j, ¬((s.auth.get j).owner = some st ∧ s.mode j = .manual ∧ (s.auth.get j).stale = false) →
        t.auth.get j = s.auth.get j ∧ t.channels.get j = s.channels.get j) ∧
      t = { s with stations := t.stations, auth := t.auth, channels := t.channels }

/-- A station's last-frame count reaches 250: its link is DOWN with its queues empty, its MANUAL axes are IDLE with a velocity
demand of 0, it is trim station of no axis, its staging records and its mark read are gone. LINK_LOST is raised exactly where
it owns an axis under a take: a take that runs is then PAUSED and its axes with it, and a cue is cancelled and its axes are
IDLE (R32, R65, R73, R74, R75, R99, R141, R180, R188). That a row of its own takes this part ahead of its update is the
model's choice (log entry 2). -/
def Obligations.StationLostGivesUpItsAxes : Prop :=
  ∀ (s : State) (st : Station), s.sysreset = false → s.linkState st = .up ∨ s.linkState st = .test →
    249 ≤ (s.stations.get st).lastFrame →
    ∃ t : State, exec (.stationLost st) s = .next t ∧ t.linkState st = .down ∧ (t.links.get st).replies = [] ∧
      (t.links.get st).assembly = none ∧ (t.links.get st).notices = Notices.empty ∧
      (∀ j, (t.auth.get j).trimStation ≠ some st) ∧ t.zones.staging.get st = none ∧
      (∀ l g, t.mapStaging.get l = some g → g.station ≠ st) ∧ t.marks.readers.get st = none ∧
      (s.ownsUnderTake st = false →
        (∀ j, (s.auth.get j).owner = some st → s.mode j = .manual →
          t.auth.get j = AuthEntry.idle ∧ t.channels.get j = (s.channels.get j).zeroTarget) ∧
        (∀ j, (s.auth.get j).owner ≠ some st → t.mode j = s.mode j ∧ (t.auth.get j).owner = (s.auth.get j).owner ∧
          (t.auth.get j).command = (s.auth.get j).command ∧ t.channels.get j = s.channels.get j) ∧
        t = { s with
          stations := t.stations, links := t.links, auth := t.auth, channels := t.channels, mapStaging := t.mapStaging,
          zones := t.zones, marks := t.marks }) ∧
      (s.ownsUnderTake st = true → .linkLost st ∈ t.stop.memory ∧ max s.stop.level 1 ≤ t.stop.level ∧
        (t.play.state = .idle ∨ ∃ h e, t.play.state = .paused h e) ∧
        { s with stations := t.stations, mapStaging := t.mapStaging, marks := t.marks }.ChangedByAStop t) ∧
      (s.ownsUnderTake st = true → s.modesFit →
        (∀ j, (s.auth.get j).owner = some st → s.mode j = .manual → t.auth.get j = AuthEntry.idle ∧
          (s.stop.level ≤ 2 → t.channels.get j = (s.channels.get j).zeroTarget)) ∧
        (∀ h e, s.play.state = .running h e ∨ s.play.state = .paused h e → t.play = { s.play with state := .paused h e } ∧
          ∀ j, (s.auth.get j).owner = some st → (s.mode j).underTake = true →
            t.mode j = .paused ∧ (t.auth.get j).owner = some st) ∧
        ∀ c, s.play.state = .seeking c ∨ s.play.state = .ready c → t.play = { s.play with state := .idle } ∧
          ∀ j, (s.auth.get j).owner = some st → (s.mode j).underTake = true → t.auth.get j = AuthEntry.idle)

/-- A timebase tick raises the timebase by one, wrapping in 40 bits, and changes nothing else. The update that completes a rate
period judges it: the last period value becomes the tally, the drift flag is set where it is at or above the threshold, and
the tally and the period count become 0 (R127, R132). That the period's own row takes it ahead of its update is the model's
choice (log entry 2). -/
def Obligations.TicksAndRatePeriodsAreCounted : Prop :=
  ∀ s : State, s.sysreset = false →
    exec .timebaseTick s = .next { s with time := { s.time with now := s.time.now + 1 } } ∧
    (s.taken.period = false → s.time.settings.counter = .rate → s.time.settings.period ≤ s.time.periodCount + 1 →
      exec .ratePeriodComplete s = .next { s with
        time := { s.time with
          lastPeriod := s.time.tally, drift := decide (s.time.settings.threshold ≤ s.time.tally), tally := 0
          periodCount := 0 }
        taken := { s.taken with period := true } })

/-! ### Inputs from outside -/

/-- Reports of a drive that is not ACTIVE. An accepted READY report of a WAKING drive: the drive is ACTIVE, its axis holds the
reported position at rest with a velocity demand of 0 and a SLOW cap of 100 %, and its command is VEL 0. FAULT takes a WAKING,
PARKING or PARKED drive to FAULT with DRIVE_FAULT, BRAKED takes a PARKING drive to PARKED, and every other code is only
recorded. A report that is not accepted is dropped: one whose CRC-16 does not check or whose address is no axis, one that does
not carry the number of the frame sent last, and a second one for that frame (R22, R42, R43, R45, R48, R54). -/
def Obligations.ReadyReportWakesTheDrive : Prop :=
  (∀ (s : State) (bytes : List Byte), s.sysreset = false →
    (∀ r f (j : Axis), reportOf bytes = some r → s.port.sent = some f → r.address.toNat = j.val →
      r.number ≠ f.number ∨ f.answered.get j = true) →
    exec (.driveReport bytes) s = .next s) ∧
  ∀ (s : State) (j : Axis) (bytes : List Byte) (r : Report) (f : SentFrame) (pos : Int), s.sysreset = false →
    reportOf bytes = some r → r.address.toNat = j.val → s.port.sent = some f → r.number = f.number →
    f.answered.get j = false → pos = reportedPosition (s.inverted j) r.position →
    (r.code = .ready → s.driveState j = .waking → s.stop.level ≤ 2 →
      ∃ t : State, exec (.driveReport bytes) s = .next t ∧ t.driveState j = .active ∧
        (t.port.drives.get j).lastReport = some (.ready, pos) ∧ (t.port.drives.get j).silence = 0 ∧
        (t.channels.get j).moving = some ⟨pos * 256, 0, .velocity 0⟩ ∧ (t.channels.get j).slowCap = 100 ∧
        (t.auth.get j).command = .vel 0 ∧ s.ChangedByAStop t) ∧
    (r.code = .fault → s.driveState j = .waking ∨ s.driveState j = .parking ∨ s.driveState j = .parked →
      ∃ t : State, exec (.driveReport bytes) s = .next t ∧ s.DriveFaulted t j (.driveFault j) ∧
        (t.port.drives.get j).lastReport = some (.fault, pos)) ∧
    (r.code = .braked → s.driveState j = .parking →
      exec (.driveReport bytes) s = .next { s with port := { s.port with
        drives := s.port.drives.modify j fun d =>
          { d with state := .parked, lastReport := some (.braked, pos), silence := 0, wait := 0, followingError := false }
        sent := some { f with answered := f.answered.set j true } } }) ∧
    (s.driveState j = .off ∨ s.driveState j = .fault ∨ (s.driveState j = .parked ∧ r.code ≠ .fault) ∨
        (s.driveState j = .waking ∧ (r.code = .braked ∨ r.code = .powering)) ∨
        (s.driveState j = .parking ∧ (r.code = .powering ∨ r.code = .ready)) →
      exec (.driveReport bytes) s = .next { s with port := { s.port with
        drives := s.port.drives.modify j fun d => { d with lastReport := some (r.code, pos), silence := 0 }
        sent := some { f with answered := f.answered.set j true } } })

/-- An accepted report of an ACTIVE drive: BRAKED, POWERING or FAULT takes it to FAULT; READY further than fe_limit from the
setpoint it answers raises FOLLOWING_ERROR at level 2 and leaves it ACTIVE, or is only recorded where the flag is set already,
and READY within fe_limit clears the flag. READY that answers a frame without a RUN entry for the drive is only recorded (R42,
R45, R53, R54). -/
def Obligations.ReportsOfAnActiveDriveAreJudged : Prop :=
  ∀ (s : State) (j : Axis) (bytes : List Byte) (r : Report) (f : SentFrame) (c pos : Int) (lim : Limits),
    s.sysreset = false → reportOf bytes = some r → r.address.toNat = j.val → s.port.sent = some f →
    r.number = f.number → f.answered.get j = false → s.driveState j = .active →
    s.limits j = some lim → pos = reportedPosition (s.inverted j) r.position →
    (r.code ≠ .ready → ∃ t : State, exec (.driveReport bytes) s = .next t ∧ s.DriveFaulted t j (.driveFault j)) ∧
    (r.code = .ready → (∀ x, f.entries.get j ≠ .run x) ∨ (f.entries.get j = .run c ∧ lim.feLimit < (pos - c).natAbs ∧
        (s.port.drives.get j).followingError = true) →
      exec (.driveReport bytes) s = .next { s with port := { s.port with
        drives := s.port.drives.modify j fun d => { d with lastReport := some (.ready, pos), silence := 0 }
        sent := some { f with answered := f.answered.set j true } } }) ∧
    (r.code = .ready → f.entries.get j = .run c → lim.feLimit < (pos - c).natAbs → (s.port.drives.get j).followingError = false →
      s.stop.level ≤ 2 →
      ∃ t : State, exec (.driveReport bytes) s = .next t ∧ t.driveState j = .active ∧
        (t.port.drives.get j).followingError = true ∧ (t.port.drives.get j).lastReport = some (.ready, pos) ∧
        t.stop.level = 2 ∧ .followingError j ∈ t.stop.memory ∧ t.generator = ⟨true, false⟩ ∧ s.ChangedByAStop t) ∧
    (r.code = .ready → f.entries.get j = .run c → (pos - c).natAbs ≤ lim.feLimit →
      exec (.driveReport bytes) s = .next { s with port := { s.port with
        drives := s.port.drives.modify j fun d =>
          { d with lastReport := some (.ready, pos), silence := 0, followingError := false }
        sent := some { f with answered := f.answered.set j true } } })

/-- A presence sample judges each channel: an agreeing reading counts and, at the debounce time, gives the channel its state
with the split count 0; a SPLIT reading zeroes the agree count and counts, and the 21st in a row brings the channel into FAULT
with PRESENCE_FAULT raised (R83, R84). A channel whose reading of this sample a row of its own has taken ahead is left as that
row left it, which is the model's choice (log entry 2). Every zone entry is judged afresh by the sample: its active flag
follows R88, an entry that is not active is not occupied, and up to level 2 a HARD entry that becomes active has its occupied
flag set exactly where the crane is inside it, with ZONE_OCCUPIED raised at level 2; and each HARD entry that the test of the
sample finds occupied is raised, also one that an earlier raise makes inactive again (R88, R95, R96). -/
def Obligations.PresenceSampleJudgesChannels : Prop :=
  ∀ (s : State) (lineA lineB : ChannelSet) (c : Channel) (p : Presence), s.sysreset = false →
    s.zones.channels.get c = p →
    ∃ t q, exec (.presenceSample lineA lineB) s = .next t ∧ t.zones.channels.get c = q ∧
      (s.readingTaken c (readingAt lineA lineB c) = true → q = p) ∧
      (s.readingTaken c (readingAt lineA lineB c) = false → lineA.getLsbD c.val = lineB.getLsbD c.val → ∀ r,
        r = (if lineA.getLsbD c.val then Reading.bothPresent else .bothClear) →
        q.last = some r ∧ q.agree = (if p.last = some r then min 50 (p.agree + 1) else 1) ∧
        (s.zones.debounce ≤ q.agree → q.split = 0 ∧ q.state = if lineA.getLsbD c.val then .present else .clear) ∧
        (q.agree < s.zones.debounce → q.split = p.split ∧ q.state = p.state)) ∧
      (s.readingTaken c (readingAt lineA lineB c) = false → lineA.getLsbD c.val ≠ lineB.getLsbD c.val →
        q.last = some .split ∧ q.agree = 0 ∧ q.split = min 21 (p.split + 1) ∧
        (p.split < 20 → q.state = p.state) ∧ (20 ≤ p.split → q.state = .fault) ∧
        (20 ≤ p.split → p.state ≠ .fault → .presenceFault c ∈ t.stop.memory ∧ max s.stop.level 1 ≤ t.stop.level)) ∧
      s.ZonesJudged t ∧ { s with taken := t.taken }.ChangedByAStop t

/-- The two events of a presence channel as commands of their own: the reading that completes the debounce time for the other
state changes it, and the 21st SPLIT reading in a row brings the channel into FAULT and raises PRESENCE_FAULT (R83, R84). That
a row of its own takes this part ahead of its sample is the model's choice (log entry 2). Every zone entry is judged afresh by
the event: its active flag follows R88, an entry that is not active is not occupied, and up to level 2 a HARD entry that
becomes active has its occupied flag set exactly where the crane is inside it, with ZONE_OCCUPIED raised at level 2; and each
HARD entry that the test of the event finds occupied is raised, also one that an earlier raise makes inactive again (R88, R95,
R96). -/
def Obligations.PresenceEventsChangeTheChannel : Prop :=
  ∀ (s : State) (c : Channel) (p : Presence), s.sysreset = false → s.zones.channels.get c = p →
    (∀ (present : Bool) (r : Reading) (n : Nat), p.state ≠ (if present then .present else .clear) →
      r = (if present then .bothPresent else .bothClear) → n = (if p.last = some r then min 50 (p.agree + 1) else 1) →
      s.zones.debounce ≤ n →
      ∃ t : State, exec (.presenceStateChange c present) s = .next t ∧
        t.zones.channels.get c = ⟨if present then .present else .clear, some r, n, 0⟩ ∧
        (∀ k, k ≠ c → t.zones.channels.get k = s.zones.channels.get k) ∧ s.ZonesJudged t ∧
        { s with taken := t.taken }.ChangedByAStop t) ∧
    (p.state ≠ .fault → 20 ≤ p.split →
      ∃ t : State, exec (.presenceFault c) s = .next t ∧ t.zones.channels.get c = ⟨.fault, some .split, 0, 21⟩ ∧
        (∀ k, k ≠ c → t.zones.channels.get k = s.zones.channels.get k) ∧
        .presenceFault c ∈ t.stop.memory ∧ max s.stop.level 1 ≤ t.stop.level ∧ s.ZonesJudged t ∧
        { s with taken := t.taken }.ChangedByAStop t)

/-- A chain sample: both channels closed make the chain CLOSED, and a press is taken at level 3; both open make it OPEN and
raise ESTOP_CHAIN at level 3 where it was not OPEN; a SPLIT counts, and the 21st in a row makes it FAULT and raises
ESTOP_CHAIN, as a sample or as the event of its own (R114, R116). That the event of its own takes this part ahead of its
sample, whose SPLIT reading is then passed over, is the model's choice (log entry 2), and that a sample judges the chain before
the press is read from the rules (log entry 16). -/
def Obligations.ChainSamplesAreJudged : Prop :=
  ∀ (s : State) (pressed : Bool), s.sysreset = false →
    exec (.chainSample false false pressed) s = .next { s with
      taken := { s.taken with chain := false }
      stop := { s.stop with
        chain := .closed, chainSplit := 0, localReset := pressed
        localResetSeen :=
          if pressed = true ∧ s.stop.localReset = false ∧ s.stop.level = 3 then true else s.stop.localResetSeen } } ∧
    (s.stop.chain ≠ .isOpen → ∃ t : State, exec (.chainSample true true pressed) s = .next t ∧ t.stop.chain = .isOpen ∧
      t.stop.chainSplit = 0 ∧ t.stop.level = max s.stop.level 3 ∧ .estopChain ∈ t.stop.memory ∧
      t.stop.localResetSeen = false ∧ (s.stop.level < 3 → t.stop.cut = true) ∧
      (s.stop.level ≤ 3 → ∀ j, (t.driveState j).powered = false) ∧ { s with taken := t.taken }.ChangedByAStop t) ∧
    (s.taken.chain = true → ∀ a b : Bool, a ≠ b → s.stop.chain ≠ .closed →
      exec (.chainSample a b pressed) s = .next { s with
        taken := { s.taken with chain := false }, stop := { s.stop with localReset := pressed } }) ∧
    (s.taken.chain = false → s.stop.chainSplit < 20 → s.stop.chain ≠ .fault → ∀ a b : Bool, a ≠ b →
      ∃ t : State, exec (.chainSample a b pressed) s = .next t ∧ t.stop.chain = .split ∧
        t.stop.chainSplit = s.stop.chainSplit + 1 ∧ t.stop.level = s.stop.level ∧ t.stop.records = s.stop.records ∧
        t = { s with stop := t.stop }) ∧
    (s.taken.chain = false → 20 ≤ s.stop.chainSplit → s.stop.chain ≠ .fault → ∀ c, (c = .chainSplitFault ∨
        c = .chainSample true false pressed ∨ c = .chainSample false true pressed) →
      ∃ t : State, exec c s = .next t ∧ t.stop.chain = .fault ∧ t.stop.chainSplit = 21 ∧ t.stop.level = max s.stop.level 3 ∧
        .estopChain ∈ t.stop.memory ∧ { s with taken := t.taken }.ChangedByAStop t)

/-! ### Marks (R136 to R141) -/

/-- A mark is latched by an edge of the MARK input with no lockout, which then becomes 20, and by a MARK request; it holds its
source, the timebase and the whole-count setpoint of every ACTIVE axis. With no open reader it is published at once with its
notice; otherwise it waits, and the published mark stays. An edge during the lockout does nothing (R136, R137, R138). -/
def Obligations.MarksAreLatched : Prop :=
  ∀ s : State, s.sysreset = false →
    (0 < s.marks.lockout → exec .markInput s = .next s) ∧
    ∀ (c : Instr) (source : MarkSource) (st : Station) (tag : Byte),
      (c = .markInput ∧ source = .input ∧ s.marks.lockout = 0) ∨
        (c = .mark st tag [] ∧ source = .request st ∧ s.Serves st []) →
      ∃ t m, exec c s = .next t ∧ t.marks.newest = some m ∧ m.source = source ∧ m.timebase = s.time.now ∧
        (∀ j, m.setpoints.get j = (s.channels.get j).moving.map fun x => toCount x.p) ∧
        t.marks.count = min 65535 (s.marks.count + 1) ∧ t.marks.readers = s.marks.readers ∧
        t.marks.lockout = (if source = .input then 20 else s.marks.lockout) ∧
        ((∀ o, s.marks.readers.get o = none) → t.marks.published = some m ∧ t.marks.pending = false ∧
          ∀ o, s.linkState o = .up → (t.links.get o).notices.markPublished = some (source, s.time.now)) ∧
        (∀ o, s.marks.readers.get o ≠ none → t.marks.published = s.marks.published ∧ t.marks.pending = true) ∧
        t = { s with stations := t.stations, links := t.links, marks := t.marks }

/-- MARK_READ: part 0 answers the published mark and opens the station's reader, part 1 answers the first setpoints and
restarts its timer, and part 2 answers the rest and closes it; it is refused BAD_ARG for another part, NO_TAKE for part 0 with
no published mark, and STATE for parts 1 and 2 of a station that is no reader. Closing the last reader publishes a mark that
waits; a reader is closed in the same way when its timer reaches 200 updates (R138, R139, R140, R141). The parts hold the
fields of the mark in the layout of section 10.6. That the timeout of its
own takes this part ahead of its update is the model's choice (log entry 2). -/
def Obligations.MarkReadersOpenAndClose : Prop :=
  (∀ m : Mark, m.Part0Holds (markPart0 m) ∧
    ∀ second, (markSetpoints m second).length = 20 ∧
      FiveSetpoints m.setpoints (if second then 5 else 0) 0 (markSetpoints m second)) ∧
  ∀ (s : State) (st : Station), s.sysreset = false →
    (∀ tag k, 2 < k.toNat → s.Serves st [k] → exec (.markRead st tag [k]) s = .next (s.answered st tag 25 .badArg [])) ∧
    (∀ tag, s.marks.published = none → s.Serves st [0] →
      exec (.markRead st tag [0]) s = .next (s.answered st tag 25 .noTake [])) ∧
    (∀ tag k, k = 1 ∨ k = 2 → s.marks.readers.get st = none → s.Serves st [k] →
      exec (.markRead st tag [k]) s = .next (s.answered st tag 25 .state [])) ∧
    (∀ tag m, s.marks.published = some m → s.Serves st [0] →
      exec (.markRead st tag [0]) s = .next (({ s.afterFrame st with
        marks := { s.marks with readers := s.marks.readers.set st (some 0) } }).withReply st
          ⟨tag, 25, .ok, markPart0 m⟩)) ∧
    (∀ tag m n, s.marks.published = some m → s.marks.readers.get st = some n → s.Serves st [1] →
      exec (.markRead st tag [1]) s = .next (({ s.afterFrame st with
        marks := { s.marks with readers := s.marks.readers.set st (some 0) } }).withReply st
          ⟨tag, 25, .ok, markSetpoints m false⟩)) ∧
    ∀ (c : Instr) (n : Nat) (tag : Byte), s.marks.readers.get st = some n →
      (c = .markReaderTimeout st ∧ 199 ≤ n) ∨ (c = .markRead st tag [2] ∧ s.Serves st [2] ∧ s.marks.published.isSome) →
      ∃ t : State, exec c s = .next t ∧ t.marks.readers = s.marks.readers.set st none ∧
        t.marks.newest = s.marks.newest ∧ t.marks.count = s.marks.count ∧ t.marks.lockout = s.marks.lockout ∧
        (∀ m, c = .markRead st tag [2] → s.marks.published = some m →
          (t.links.get st).replies = (s.links.get st).replies ++ [⟨tag, 25, .ok, markSetpoints m true⟩]) ∧
        (∀ m, s.marks.pending = true → s.marks.newest = some m → (∀ o, o ≠ st → s.marks.readers.get o = none) →
          t.marks.published = some m ∧ t.marks.pending = false ∧
          ∀ o, s.linkState o = .up → (t.links.get o).notices.markPublished = some (m.source, m.timebase)) ∧
        (s.marks.pending = false ∨ (∃ o, o ≠ st ∧ s.marks.readers.get o ≠ none) →
          t.marks.published = s.marks.published ∧ t.marks.pending = s.marks.pending) ∧
        t = { s with stations := t.stations, links := t.links, marks := t.marks }

/-! ### Links (R187 to R192) -/

/-- Alignment: the first IDLE character makes a DOWN link ALIGNING with an idle run of 1, each further one counts, START and a
code error start the run afresh, and the sixteenth in a row makes the link UP with its queues, notices, bad run and report
number cleared and the station's counts 0 (R61, R188). That LINK_UP takes the place of the sixteenth character is the model's
choice (log entry 2). -/
def Obligations.AlignmentBringsALinkUp : Prop :=
  ∀ (s : State) (st : Station), s.sysreset = false →
    (s.linkState st = .down → exec (.linkCharacter st .idle) s = .next { s with
      links := s.links.modify st fun l => { l with state := .aligning, idleRun := 1 } }) ∧
    (s.linkState st = .aligning → (s.links.get st).idleRun < 15 → exec (.linkCharacter st .idle) s = .next { s with
      links := s.links.modify st fun l => { l with idleRun := l.idleRun + 1 } }) ∧
    (s.linkState st = .aligning → ∀ ch, ch = .start ∨ ch = .codeError → exec (.linkCharacter st ch) s = .next { s with
      links := s.links.modify st fun l => { l with idleRun := 0 } }) ∧
    (s.linkState st = .aligning → 15 ≤ (s.links.get st).idleRun →
      ∀ c, c = .linkCharacter st .idle ∨ c = .linkUp st → exec c s = .next { s with
        stations := s.stations.modify st fun r => { r with lastFrame := 0, lastMove := 0 }
        links := s.links.modify st fun l => { l with
          state := .up, idleRun := 16, badRun := 0, reportNumber := 0, notices := Notices.empty, assembly := none,
          replies := [], overrun := none, reportFrames := [] } })

/-- A bad frame on an UP or TEST link is counted in the CRC-error count and the bad run, and a bad TEST frame in TEST leaves
no previous word; the one that brings the bad run to 32, as a frame or as the event of its own, takes the link DOWN with its
queues empty (R188, R189, R198). That BAD_RUN_LIMIT takes the place of the bad frame, and that IDLE characters inside a frame
are passed over, are the model's choices (log entries 2 and 11). -/
def Obligations.BadFramesAreCounted : Prop :=
  ∀ (s : State) (st : Station) (chars : List LinkChar), s.sysreset = false →
    s.linkState st = .up ∨ s.linkState st = .test → isBadFrame chars = true →
    ((s.links.get st).badRun < 31 → exec (.badFrame st chars) s = .next { s with
      links := s.links.modify st fun l => { l with
        crcErrors := min 65535 (l.crcErrors + 1), badRun := l.badRun + 1
        test := if l.state = .test ∧ isTestFrame chars = true then { l.test with previous := none } else l.test } }) ∧
    (31 ≤ (s.links.get st).badRun → ∀ c, c = .badFrame st chars ∨ c = .badRunLimit st →
      ∃ t : State, exec c s = .next t ∧ t.linkState st = .down ∧
        (t.links.get st).crcErrors = min 65535 ((s.links.get st).crcErrors + 1) ∧ (t.links.get st).replies = [] ∧
        (t.links.get st).assembly = none ∧ (∀ j, (t.auth.get j).trimStation ≠ some st) ∧
        (∀ j, (s.auth.get j).owner = some st → s.mode j = .manual → s.ownsUnderTake st = false →
          t.auth.get j = AuthEntry.idle))

/-- Requests that do not reach their rule: a REQUEST_MORE frame is held, and one held already is ended with BAD_ARG; a code
that is not in the catalogue is answered UNKNOWN; arguments that do not decode are answered BAD_ARG; and a request that finds
eight replies waiting, or an overrun record, is only counted; and in TEST every request but TEST_END, also one with a code
that is not in the catalogue, is refused with STATE (R190, R191). CLAIM stands for the requests whose arguments do not decode
and for those that are counted. -/
def Obligations.RequestsThatReachNoRule : Prop :=
  (∀ (s : State) (st : Station) (tag code : Byte) (p : List Byte), s.Hears st p →
    ((s.links.get st).assembly = none → exec (.requestMore st tag code p) s = .next { s.afterFrame st with
      links := s.links.modify st fun l => { l with badRun := 0, assembly := some ⟨tag, code, p⟩ } }) ∧
    (∀ h, (s.links.get st).assembly = some h → (s.links.get st).replies.length < 8 → (s.links.get st).overrun = none →
      exec (.requestMore st tag code p) s = .next { s.afterFrame st with
        links := s.links.modify st fun l => { l with
          badRun := 0, assembly := some ⟨tag, code, p⟩
          replies := l.replies ++ [⟨h.tag, h.code, .badArg, []⟩] } }) ∧
    (s.Serves st p → code = 0 ∨ 43 < code.toNat →
      exec (.unknownRequest st tag code p) s = .next (s.answered st tag code .unknown [])) ∧
    (s.Serves st p → claimArgs p = none → exec (.claim st tag p) s = .next (s.answered st tag 1 .badArg [])) ∧
    ((s.links.get st).assembly = none → 8 ≤ (s.links.get st).replies.length → (s.links.get st).overrun = none →
      exec (.claim st tag p) s = .next { s.afterFrame st with
        links := s.links.modify st fun l => { l with badRun := 0, overrun := some ⟨tag, 1, 1⟩ } }) ∧
    (∀ o, (s.links.get st).assembly = none → (s.links.get st).overrun = some o →
      exec (.claim st tag p) s = .next { s.afterFrame st with
        links := s.links.modify st fun l => { l with
          badRun := 0, overrun := some { o with count := min 255 (o.count + 1) } } })) ∧
  ∀ (c : Instr) (s : State) (st : Station) (tag code : Byte) (p : List Byte), s.sysreset = false → s.linkState st = .test →
    p.length ≤ 24 → (s.links.get st).assembly = none → (s.links.get st).replies.length < 8 →
    (s.links.get st).overrun = none →
    (c.request? = some (st, tag, code, p) ∧ code ≠ 43) ∨
      (c = .unknownRequest st tag code p ∧ (code = 0 ∨ 43 < code.toNat)) →
    exec c s = .next (s.answered st tag code .state [])

/-- The reply at the head of a queue is sent first, then the overrun record as a reply OVERRUN with its count, and a report
frame only when neither waits; each is framed with its CRC-16 and leaves its queue (R187, R189, R191, R195). -/
def Obligations.RepliesAreSentBeforeReports : Prop :=
  ∀ (s : State) (st : Station), s.sysreset = false → s.linkState st = .up →
    (∀ r rest, (s.links.get st).replies = r :: rest → exec (.replySend st) s = .next { s with
      links := s.links.modify st fun l => { l with
        replies := rest
        line := framed ([3, r.tag, r.code, BitVec.ofNat 8 r.result.code, BitVec.ofNat 8 r.detail.length] ++ r.detail) } }) ∧
    (∀ o, (s.links.get st).replies = [] → (s.links.get st).overrun = some o → exec (.replySend st) s = .next { s with
      links := s.links.modify st fun l => { l with
        overrun := none, line := framed [3, o.tag, o.code, 20, 1, BitVec.ofNat 8 o.count] } }) ∧
    (∀ f rest, (s.links.get st).replies = [] → (s.links.get st).overrun = none →
      (s.links.get st).reportFrames = f :: rest → exec (.reportFrameSend st) s = .next { s with
        links := s.links.modify st fun l => { l with
          reportFrames := rest
          line := framed
            ([4, f.number, BitVec.ofNat 8 f.sect, BitVec.ofNat 8 f.payload.length] ++ f.payload) } }) ∧
    ((s.links.get st).replies ≠ [] ∨ (s.links.get st).overrun.isSome → exec (.reportFrameSend st) s = .next s)

/-! ### Stream frames (R192) -/

/-- A MOVE frame of a station whose link is UP: each entry for an axis the station owns in MANUAL sets its command, clears its
stale mark and, while the axis holds a setpoint, sets its target: a velocity demand; a position; the sum of a DELTA and the
previous position target, or the setpoint where the target was a velocity demand, without a user value; or the count that the
map gives for a user value, which is kept with it. Each position is clamped to the soft limits. A user value for a lens axis
without a valid map leaves the target. Every other entry is ignored, and the frame itself clears the stale marks of the
station's MANUAL axes and its last-MOVE count (R5, R37, R69, R70, R71). A value outside the ranges of section 4.4 is taken as
carried, and bits of the first word that section 10.6 has at 0 are ignored, which are the model's choices (log entries 23 and
30). -/
def Obligations.MoveFramesSetCommands : Prop :=
  ∀ (s : State) (st : Station) (p : List Byte) (es : List (Axis × Command)), s.Hears st p → movePayload p = some es →
    ∃ t : State, exec (.move st p) s = .next t ∧ (t.stations.get st).lastMove = 0 ∧ (t.stations.get st).lastFrame = 0 ∧
      (∀ j cmd, (j, cmd) ∈ es → (s.auth.get j).owner = some st → s.mode j = .manual → cmd.misplaced j = false →
        t.auth.get j = { s.auth.get j with command := cmd, stale := false } ∧
        t.channels.get j = { s.channels.get j with moving := (s.channels.get j).moving.map fun m =>
          { m with target := targetOf m (s.channels.get j).limits (s.mapFor j) cmd } } ∧
        ∀ m lim, (s.channels.get j).limits = some lim →
          (∀ n, cmd = .vel n → targetOf m (some lim) (s.mapFor j) cmd = .velocity n) ∧
          (∀ c, cmd = .pos c → targetOf m (some lim) (s.mapFor j) cmd =
            .position (max (lim.low * 256) (min (lim.high * 256) (c * 256))) none) ∧
          (∀ d x u, cmd = .delta d → m.target = .position x u → targetOf m (some lim) (s.mapFor j) cmd =
            .position (max (lim.low * 256) (min (lim.high * 256) (x + d * 256))) none) ∧
          (∀ d n, cmd = .delta d → m.target = .velocity n → targetOf m (some lim) (s.mapFor j) cmd =
            .position (max (lim.low * 256) (min (lim.high * 256) (m.p + d * 256))) none) ∧
          ∀ (l : Lens) u, cmd = .user u → lensAxis l = j →
            (∀ mp, (s.maps.get l).map = some mp → targetOf m (some lim) (s.mapFor j) cmd =
              .position (max (lim.low * 256) (min (lim.high * 256) (mp.forward u * 256))) (some u)) ∧
            ((s.maps.get l).map = none → targetOf m (some lim) (s.mapFor j) cmd = m.target)) ∧
      (∀ j, (∀ cmd, (j, cmd) ∈ es →
          ¬((s.auth.get j).owner = some st ∧ s.mode j = .manual ∧ cmd.misplaced j = false)) →
        t.channels.get j = s.channels.get j ∧ t.auth.get j = { s.auth.get j with
          stale := if (s.auth.get j).owner = some st ∧ s.mode j = .manual then false else (s.auth.get j).stale }) ∧
      t = { s with stations := t.stations, links := t.links, auth := t.auth, channels := t.channels }

/-- A TRIM frame sets the demand of an axis of which the station is trim station, clamped to its trim range, the last entry
for the axis standing; an axis of another trim station, or that no entry names, keeps its demand. TRIM_ATTACH makes the
station trim station of an axis under a take that has none and whose trim step is above 0. TRIM_DETACH by the trim station or
the owner ends it, and is refused BAD_ARG for no axis and NOT_OWNER for another station or an axis with no trim station (R77,
R78, R79). A demand outside the range of section 4.7 is clamped like any other, which is the model's choice (log entry 23). -/
def Obligations.TrimIsSetByItsStation : Prop :=
  ∀ (s : State) (st : Station) (j : Axis),
    (∀ p es d rest lim, s.Hears st p → trimPayload p = some (es ++ (j.val, d) :: rest) → (∀ e ∈ rest, e.1 ≠ j.val) →
      s.limits j = some lim → (s.auth.get j).trimStation = some st → ∃ t : State, exec (.trim st p) s = .next t ∧
        t.channels.get j =
          { s.channels.get j with trimDemand := max (-(lim.trimRange : Int)) (min (lim.trimRange : Int) d) } ∧
        (∀ i, (s.auth.get i).trimStation ≠ some st ∨ (∀ e ∈ es ++ (j.val, d) :: rest, e.1 ≠ i.val) →
          t.channels.get i = s.channels.get i) ∧
        t = { s.afterFrame st with channels := t.channels }) ∧
    (∀ tag lim, s.Serves st [BitVec.ofNat 8 j.val] → s.holds st .trim = true → (s.mode j).underTake = true →
      s.limits j = some lim → 0 < lim.trimStep → (s.auth.get j).trimStation = none →
      exec (.trimAttach st tag [BitVec.ofNat 8 j.val]) s = .next (({ s.afterFrame st with
        auth := s.auth.modify j fun a => { a with trimStation := some st } }).withReply st ⟨tag, 3, .ok, []⟩)) ∧
    (∀ tag k, 9 < k.toNat → s.Serves st [k] → exec (.trimDetach st tag [k]) s = .next (s.answered st tag 4 .badArg [])) ∧
    (∀ tag, s.Serves st [BitVec.ofNat 8 j.val] → (s.auth.get j).trimStation = none ∨
        ((s.auth.get j).trimStation ≠ some st ∧ (s.auth.get j).owner ≠ some st) →
      exec (.trimDetach st tag [BitVec.ofNat 8 j.val]) s = .next (s.answered st tag 4 .notOwner [])) ∧
    (∀ tag o, s.Serves st [BitVec.ofNat 8 j.val] → (s.auth.get j).trimStation = some o →
      o = st ∨ (s.auth.get j).owner = some st →
      exec (.trimDetach st tag [BitVec.ofNat 8 j.val]) s = .next (({ s.afterFrame st with
        auth := s.auth.modify j fun a => { a with trimStation := none } }).withReply st ⟨tag, 4, .ok, []⟩))

/-- A SYNC frame of a station that holds PLAY: ADOPT loads the station time, the value plus the sync offset in 40 bits, into
the timebase; CHECK counts a mismatch where the difference, taken the shorter way around, exceeds the tolerance; both keep the
difference, and FREE does nothing. Without PLAY the frame is ignored (R130, R131). -/
def Obligations.SyncFramesLoadOrCheckTheTimebase : Prop :=
  ∀ (s : State) (st : Station) (p : List Byte) (value station : Time) (d : Int), s.Hears st p →
    syncPayload p = some value → station = value + BitVec.ofNat 40 s.time.settings.offset →
    d = (station - s.time.now).toInt →
    (s.holds st .play = false ∨ s.time.settings.mode = .free → exec (.sync st p) s = .next (s.afterFrame st)) ∧
    (s.holds st .play = true → s.time.settings.mode = .adopt → exec (.sync st p) s = .next { s.afterFrame st with
      time := { s.time with now := station, lastDifference := some (max (-2147483648) (min 2147483647 d)) } }) ∧
    (s.holds st .play = true → s.time.settings.mode = .check → exec (.sync st p) s = .next { s.afterFrame st with
      time := { s.time with
        lastDifference := some (max (-2147483648) (min 2147483647 d))
        tally := if s.time.settings.tolerance < d.natAbs then min 4294967295 (s.time.tally + 1) else s.time.tally } })

/-- The link test: TEST_START by a station that owns no axis and is no trim station puts its link in TEST with a cleared test
state; each word of a TEST frame is compared with the one that continues the sequence after the word before it, each of whose
bits is the exclusive-or of the bits 14 and 15 places before it; and TEST_END
answers the fail flags and the error count and brings the link UP (R192, R197, R198). That report frames waiting to be sent are
kept through both is read from the rules (log entry 21). -/
def Obligations.LinkTestJudgesItsWords : Prop :=
  (∀ (w : BitVec 16) (i : Nat), i < 16 → (w ++ predictWord w).getLsbD i =
    ((w ++ predictWord w).getLsbD (i + 14) ^^ (w ++ predictWord w).getLsbD (i + 15))) ∧
  ∀ (s : State) (st : Station) (tag : Byte),
    (s.Serves st [] → (∀ j, (s.auth.get j).owner ≠ some st ∧ (s.auth.get j).trimStation ≠ some st) →
      exec (.testStart st tag []) s = .next (({ s.afterFrame st with
        links := s.links.modify st fun l =>
          { l with badRun := 0, state := .test, test := ⟨none, false, false, 0⟩ } }).withReply st ⟨tag, 42, .ok, []⟩)) ∧
    (∀ p ws, s.sysreset = false → s.linkState st = .test → p.length ≤ 24 → testPayload p = some ws →
      exec (.test st p) s = .next { s.afterFrame st with
        links := s.links.modify st fun l => { l with badRun := 0, test := ws.foldl TestState.judge l.test } }) ∧
    (∀ (t : TestState) (w : BitVec 16), t.judge w =
      if w.setWidth 15 = 0 then ⟨none, true, true, min 255 (t.errors + 1)⟩
      else if t.previous = none then { t with previous := some w }
      else if t.previous.map predictWord = some w then { t with previous := some w, live := false }
      else ⟨some w, true, true, min 255 (t.errors + 1)⟩) ∧
    (s.sysreset = false → s.linkState st = .test → (s.links.get st).assembly = none →
      (s.links.get st).replies.length < 8 → (s.links.get st).overrun = none →
      exec (.testEnd st tag []) s = .next (({ s with
        stations := s.stations.modify st fun r => { r with lastFrame := 0, lastMove := 0 }
        links := s.links.modify st fun l => { l with badRun := 0, state := .up } }).withReply st
          ⟨tag, 43, .ok, [BitVec.ofNat 8 ((s.links.get st).test.live.toNat + 2 * (s.links.get st).test.sticky.toNat),
            BitVec.ofNat 8 (s.links.get st).test.errors]⟩))

/-! ### Authority and settings -/

/-- CLAIM and RELEASE that nothing refuses: each claimed axis is MANUAL under the station with command VEL 0 and a velocity
demand of 0, the station's last-MOVE count is 0, and LOST_AXES tells each other owner what it lost; each released axis is IDLE
with no owner and a velocity demand of 0. No other axis changes (R66, R67, R68). -/
def Obligations.AxesAreClaimedAndReleased : Prop :=
  ∀ (s : State) (st : Station) (tag : Byte) (p : List Byte) (w : BitVec 16) (axes : AxisSet), s.Serves st p →
    axes = w.setWidth 10 → w ≠ 0 → w.toNat < 1024 →
    (∀ j : Axis, axes.getLsbD j.val = true → (s.mode j).underTake = false) →
    (∀ takeover, claimArgs p = some (w, takeover) →
      (∀ j : Axis, axes.getLsbD j.val = true → s.holds st (groupRight j) = true ∧
        ∀ o, (s.auth.get j).owner = some o → o ≠ st →
          takeover = true ∧ (s.stations.get o).rank < (s.stations.get st).rank ∧ s.mode j = .manual) →
      ∃ t : State, exec (.claim st tag p) s = .next t ∧
        (t.links.get st).replies = (s.links.get st).replies ++ [⟨tag, 1, .ok, []⟩] ∧
        (∀ j : Axis, t.auth.get j =
          if axes.getLsbD j.val then ⟨some st, .manual, none, .vel 0, false⟩ else s.auth.get j) ∧
        (∀ j : Axis, t.channels.get j =
          if axes.getLsbD j.val then (s.channels.get j).zeroTarget else s.channels.get j) ∧
        (t.stations.get st).lastMove = 0 ∧
        (∀ o, o ≠ st → s.linkState o = .up → s.ownedIn axes o ≠ 0 →
          (t.links.get o).notices.lostAxes = some (s.ownedIn axes o, st)) ∧
        t = { s with stations := t.stations, links := t.links, auth := t.auth, channels := t.channels }) ∧
    (axisSetArg p = some w → (∀ j : Axis, axes.getLsbD j.val = true → (s.auth.get j).owner = some st) →
      ∃ t : State, exec (.release st tag p) s = .next (t.withReply st ⟨tag, 2, .ok, []⟩) ∧
        (∀ j : Axis, t.auth.get j = if axes.getLsbD j.val then ⟨none, .idle, none, .vel 0, false⟩ else s.auth.get j) ∧
        (∀ j : Axis, t.channels.get j =
          if axes.getLsbD j.val then (s.channels.get j).zeroTarget else s.channels.get j) ∧
        t = { s.afterFrame st with auth := t.auth, channels := t.channels })

/-- The settings requests of a station that holds CONFIG replace what they carry and nothing else: STATION_TABLE ranks and
rights, PRESENCE_DEBOUNCE the debounce time, PLAY_SETUP the cue offset and go lead, and SYNC_SETUP the six sync settings; a
changed counter mode, rate period or threshold restarts the counting, and a change to ACCUMULATE clears the drift flag (R63,
R85, R129, R167). -/
def Obligations.SettingsAreReplaced : Prop :=
  ∀ (s : State) (st : Station) (tag : Byte) (p : List Byte), s.Serves st p → s.holds st .config = true →
    (∀ tab, stationTableArgs p = some tab → (∀ k, k ∈ [1, 2, 3, 4] → ∃ o, (tab.get o).1 = k) →
      (∃ o, hasRight (tab.get o).2 .config = true) →
      ∃ t : State, exec (.stationTable st tag p) s = .next (t.withReply st ⟨tag, 5, .ok, []⟩) ∧
        (∀ o, t.stations.get o =
          { (s.afterFrame st).stations.get o with rank := (tab.get o).1, rights := (tab.get o).2 }) ∧
        t = { s.afterFrame st with stations := t.stations }) ∧
    (∀ n, wordArg p = some n → 1 ≤ n → n ≤ 50 →
      exec (.presenceDebounce st tag p) s = .next (({ s.afterFrame st with
        zones := { s.zones with debounce := n } }).withReply st ⟨tag, 13, .ok, []⟩)) ∧
    (∀ offset lead, playSetupArgs p = some (offset, lead) → offset ≤ 1000000 → lead ≤ 1000000 →
      exec (.playSetup st tag p) s = .next (({ s.afterFrame st with
        play := { s.play with cueOffset := offset, goLead := lead } }).withReply st ⟨tag, 39, .ok, []⟩)) ∧
    (∀ a x, syncSetupArgs p = some a → settingsOf a = some x →
      ∃ t : TimebaseUnit, exec (.syncSetup st tag p) s = .next (({ s.afterFrame st with time := t }).withReply st ⟨tag, 22, .ok, []⟩) ∧
        t.settings = x ∧ t.now = s.time.now ∧ t.lastDifference = s.time.lastDifference ∧
        (x.counter = s.time.settings.counter ∧ x.period = s.time.settings.period ∧
            x.threshold = s.time.settings.threshold →
          t.tally = s.time.tally ∧ t.periodCount = s.time.periodCount ∧ t.lastPeriod = s.time.lastPeriod) ∧
        (x.counter ≠ s.time.settings.counter ∨ x.period ≠ s.time.settings.period ∨
            x.threshold ≠ s.time.settings.threshold →
          t.tally = 0 ∧ t.periodCount = 0 ∧ t.lastPeriod = 0) ∧
        t.drift = if x.counter = .accumulate ∧ s.time.settings.counter = .rate then false else s.time.drift)

/-- The requests that zero counts: SYNC_COUNT_RESET the mismatch tally and last period, and in RATE the period count;
MARK_CLEAR the mark count; COUNTERS_CLEAR the cue counters and the CRC-error counts of all links; and CLEAR_STOPS the stop
record list. Nothing else changes. Each is refused NO_RIGHT without its right, and CLEAR_STOPS with it is refused STATE above
level 0 (R125, R133, R142, R185). -/
def Obligations.CountsAreCleared : Prop :=
  ∀ (s : State) (st : Station) (tag : Byte), s.Serves st [] →
    (s.holds st .play = true → exec (.syncCountReset st tag []) s = .next (({ s.afterFrame st with
      time := { s.time with
        tally := 0, lastPeriod := 0
        periodCount := if s.time.settings.counter = CounterMode.rate then 0 else s.time.periodCount } }).withReply st
          ⟨tag, 23, .ok, []⟩)) ∧
    (s.holds st .take = true → exec (.markClear st tag []) s = .next (({ s.afterFrame st with
      marks := { s.marks with count := 0 } }).withReply st ⟨tag, 26, .ok, []⟩)) ∧
    (s.holds st .play = true → exec (.countersClear st tag []) s = .next (({ s.afterFrame st with
      play := { s.play with missedCue := 0, lateCue := 0 }
      links := (s.afterFrame st).links.map fun l : Link => ({ l with crcErrors := 0 } : Link) }).withReply st ⟨tag, 40, .ok, []⟩)) ∧
    (s.holds st .release2 = true → s.stop.level = 0 → exec (.clearStops st tag []) s = .next (({ s.afterFrame st with
      stop := { s.stop with records := [] } }).withReply st ⟨tag, 21, .ok, []⟩)) ∧
    (s.holds st .release2 = true → 0 < s.stop.level →
      exec (.clearStops st tag []) s = .next (s.answered st tag 21 .state [])) ∧
    (s.holds st .play = false → exec (.syncCountReset st tag []) s = .next (s.answered st tag 23 .noRight []) ∧
      exec (.countersClear st tag []) s = .next (s.answered st tag 40 .noRight [])) ∧
    (s.holds st .take = false → exec (.markClear st tag []) s = .next (s.answered st tag 26 .noRight [])) ∧
    (s.holds st .release2 = false → exec (.clearStops st tag []) s = .next (s.answered st tag 21 .noRight []))

/-! ### Limits, lens maps and drives -/

/-- LOAD_LIMITS, whose 31 bytes come in two frames: joined to the held bytes, a valid record for an axis at rest replaces the
old one whole; a motion axis is READY, a lens axis is LIMITED and its map is no longer valid, with its generation kept; and no
other axis changes (R3, R4, R190). -/
def Obligations.LimitsAreLoaded : Prop :=
  ∀ (s : State) (st : Station) (tag : Byte) (b p : List Byte) (j : Axis) (r : Limits), s.Hears st p →
    (s.links.get st).assembly = some ⟨tag, 6, b⟩ → (s.links.get st).replies.length < 8 →
    (s.links.get st).overrun = none → loadLimitsArgs (b ++ p) = some (j.val, r) → s.holds st .config = true →
    validLimits j r = true → s.driveState j = .off ∨ s.driveState j = .parked → (s.mode j).underTake = false →
    ∃ t : State, exec (.loadLimits st tag p) s = .next (t.withReply st ⟨tag, 6, .ok, []⟩) ∧
      t.channels.get j = { s.channels.get j with
        limits := some r, commissioning := if j.val < 7 then .ready else .limited } ∧
      (∀ i, i ≠ j → t.channels.get i = s.channels.get i) ∧
      (∀ l, t.maps.get l = if lensAxis l = j then { s.maps.get l with map := none } else s.maps.get l) ∧
      t = { s.afterFrame st with
        links := s.links.modify st fun l => { l with badRun := 0, assembly := none }
        channels := t.channels, maps := t.maps }

/-- Building a lens map: MAP_OPEN opens the staging record of the axis with empty slots, MAP_POINTS fills slots in order from
the one it names, and LOAD_MAP takes full slots that make a valid map: the generation rises by one, the record is EMPTY, the
axis is READY, a target kept in user units is converted afresh, and a take being recorded has its generation MIXED (R30, R31,
R32, R33, R34, R38, R150). That the point count comes in one byte is presumed (log entry 25); that the length alone tells one
point from two is the model's choice (log entry 45). -/
def Obligations.LensMapsAreBuiltAndLoaded : Prop :=
  ∀ (s : State) (st : Station) (tag : Byte) (p : List Byte) (l : Lens), s.Serves st p → s.holds st .config = true →
    (∀ count, twoBytes p = some (l.val + 7, count) → 2 ≤ count → count ≤ 24 →
      exec (.mapOpen st tag p) s = .next (({ s.afterFrame st with
        mapStaging := s.mapStaging.set l (some ⟨st, List.replicate count none⟩) }).withReply st ⟨tag, 7, .ok, []⟩)) ∧
    (∀ first ps slots, mapPointsArgs p = some (l.val + 7, first, ps) → s.mapStaging.get l = some ⟨st, slots⟩ →
      1 ≤ first → first ≤ 24 → first + ps.length ≤ slots.length + 1 →
      (∀ q ∈ ps, (userRange l).1 ≤ q.1 ∧ q.1 ≤ (userRange l).2) →
      ∃ new, exec (.mapPoints st tag p) s = .next (({ s.afterFrame st with
          mapStaging := s.mapStaging.set l (some ⟨st, new⟩) }).withReply st ⟨tag, 8, .ok, []⟩) ∧
        ∀ i : Nat, new[i]? =
          if first ≤ i + 1 ∧ i + 1 < first + ps.length then ps[i + 1 - first]?.map some else slots[i]?) ∧
    (∀ ps lim mp, oneByte p = some (l.val + 7) → s.mapStaging.get l = some ⟨st, ps.map some⟩ →
      s.limits (lensAxis l) = some lim → mapOf l lim ps = some mp →
      (s.channels.get (lensAxis l)).commissioning ≠ .unset →
      s.driveState (lensAxis l) = .off ∨ s.driveState (lensAxis l) = .parked ∨
        (s.mode (lensAxis l)).underTake = false →
      ∃ t : State, exec (.loadMap st tag p) s = .next (t.withReply st ⟨tag, 9, .ok, []⟩) ∧
        t.maps.get l = ⟨some mp, ((s.maps.get l).generation + 1) % 65536⟩ ∧
        (∀ k, k ≠ l → t.maps.get k = s.maps.get k) ∧ t.mapStaging = s.mapStaging.set l none ∧
        (t.channels.get (lensAxis l)).commissioning = .ready ∧
        (∀ m x u, (s.channels.get (lensAxis l)).moving = some m → m.target = .position x (some u) →
          (t.channels.get (lensAxis l)).moving = some { m with target := .position (mp.forward u * 256) (some u) }) ∧
        (∀ j, j ≠ lensAxis l → t.channels.get j = s.channels.get j) ∧
        (∀ i k d, s.takes.slots.get i = .recording k → k.axes.getLsbD (lensAxis l).val = true → k.data = some d →
          t.takes.slots.get i = .recording { k with data := some { d with lens := d.lens.set l (some .mixed) } }) ∧
        (∀ i k r, s.takes.slots.get i = .closed k r → t.takes.slots.get i = .closed k r) ∧
        t = { s.afterFrame st with
          channels := t.channels, maps := t.maps, mapStaging := t.mapStaging
          takes := { s.takes with slots := t.takes.slots } })

/-- The drive requests over a set of axes whose group rights the station holds: ENABLE, at level 0, takes READY axes that are
OFF or PARKED to WAKING; PARK takes ACTIVE axes at rest outside a take to PARKING, and they give up their setpoints;
CLEAR_FAULT takes axes in FAULT whose drives no longer report FAULT to PARKED. Counts become 0 (a PARK keeps the silence
count) and no other drive changes (R23, R46, R49, R51). -/
def Obligations.DriveRequestsMoveTheirDrives : Prop :=
  ∀ (s : State) (st : Station) (tag : Byte) (p : List Byte) (w : BitVec 16) (axes : AxisSet), s.Serves st p →
    axisSetArg p = some w → axes = w.setWidth 10 → w ≠ 0 → w.toNat < 1024 →
    (∀ j : Axis, axes.getLsbD j.val = true → s.holds st (groupRight j) = true) →
    (s.stop.level = 0 → (∀ j : Axis, axes.getLsbD j.val = true → (s.channels.get j).commissioning = .ready ∧
        (s.driveState j = .off ∨ s.driveState j = .parked)) →
      ∃ t : State, exec (.enable st tag p) s = .next (t.withReply st ⟨tag, 10, .ok, []⟩) ∧
        (∀ j : Axis, t.port.drives.get j = if axes.getLsbD j.val then
          { s.port.drives.get j with state := .waking, silence := 0, wait := 0, followingError := false }
          else s.port.drives.get j) ∧
        t = { s.afterFrame st with port := { s.port with drives := t.port.drives } }) ∧
    ((∀ j : Axis, axes.getLsbD j.val = true → s.driveState j = .active ∧ (s.mode j).underTake = false ∧
        ∀ m, (s.channels.get j).moving = some m → m.v = 0) →
      ∃ t : State, exec (.park st tag p) s = .next (t.withReply st ⟨tag, 11, .ok, []⟩) ∧
        (∀ j : Axis, t.port.drives.get j = if axes.getLsbD j.val then
          { s.port.drives.get j with state := .parking, wait := 0, followingError := false }
          else s.port.drives.get j) ∧
        (∀ j : Axis, t.channels.get j = if axes.getLsbD j.val then
          { s.channels.get j with moving := none, trimDemand := 0, trimOffset := 0 } else s.channels.get j) ∧
        (∀ r k, s.takes.recordingTake = some (r, k) →
          ((∃ j : Axis, axes.getLsbD j.val = true ∧ k.axes.getLsbD j.val = true) → t.takes.recorder = none) ∧
          ((∀ j : Axis, axes.getLsbD j.val = true → k.axes.getLsbD j.val = false) → t.takes = s.takes)) ∧
        (s.takes.recordingTake = none → t.takes = s.takes) ∧
        t = { s.afterFrame st with
          links := t.links, channels := t.channels, takes := t.takes
          port := { s.port with drives := t.port.drives } }) ∧
    ((∀ j : Axis, axes.getLsbD j.val = true → s.driveState j = .fault ∧
        ∀ x, (s.port.drives.get j).lastReport ≠ some (.fault, x)) →
      ∃ t : State, exec (.clearFault st tag p) s = .next (t.withReply st ⟨tag, 12, .ok, []⟩) ∧
        (∀ j : Axis, t.port.drives.get j = if axes.getLsbD j.val then
          { s.port.drives.get j with state := .parked, silence := 0, wait := 0, followingError := false }
          else s.port.drives.get j) ∧
        t = { s.afterFrame st with port := { s.port with drives := t.port.drives } })

/-! ### Zones and stops -/

/-- Building and changing zone entries: ZONE_OPEN opens the station's staging record with the table, the index and the fields
it carries, every range ANY and the cap of a HARD entry 100; ZONE_RANGE sets the range of each axis its items name, the last
item for an axis standing, and of no other; LOAD_ZONE puts the staged entry into its table and empties the record, and
ZONE_ENABLE sets the enabled field, each where its rule refuses nothing; no other entry changes, and LOAD_ZONE and ZONE_ENABLE
have every active flag judged afresh (R88, R97, R98, R99, R102, R103). That ZONE_OPEN carries a mask byte for either table is
read from R97 (log entry 33); that the length alone tells one item of ZONE_RANGE from two is the model's choice (log entry
45). -/
def Obligations.ZoneEntriesAreBuiltAndLoaded : Prop :=
  ∀ (s : State) (st : Station) (tag : Byte) (p : List Byte), s.Serves st p → s.holds st .config = true →
    (∀ (z : ZoneId) (kind : ZoneKind) (mode : ModeMatch) (on : Bool) (bt bi bk cap bm mask : Byte),
      p = [bt, bi, if on then 1 else 0, bk, cap, bm, mask] → [ZoneTable.set, .crew][bt.toNat]? = some z.table →
      bi.toNat = z.index.val → [ZoneKind.hard, .slow][bk.toNat]? = some kind →
      [ModeMatch.manual, .playback, .both][bm.toNat]? = some mode →
      (kind = .slow → 5 ≤ cap.toNat ∧ cap.toNat ≤ 100) → (z.table = .set ↔ mask = 0) →
      exec (.zoneOpen st tag p) s = .next (({ s.afterFrame st with
        zones := { s.zones with
          staging := s.zones.staging.set st
            (some ⟨z, ⟨on, kind, if kind = ZoneKind.hard then 100 else cap.toNat, mode, mask, Tab.const 7 none⟩⟩) } }).withReply st
              ⟨tag, 14, .ok, []⟩)) ∧
    (∀ items g, zoneRangeArgs p = some items → s.zones.staging.get st = some g →
      (∀ x ∈ items, x.1 < 7 ∧ rangeValid x.2 = true) →
      ∃ e, exec (.zoneRange st tag p) s = .next (({ s.afterFrame st with
          zones := { s.zones with staging := s.zones.staging.set st (some ⟨g.zone, e⟩) } }).withReply st
            ⟨tag, 15, .ok, []⟩) ∧
        (∀ (m : Motion) before r rest, items = before ++ (m.val, r) :: rest → (∀ x ∈ rest, x.1 ≠ m.val) →
          e.ranges.get m = r) ∧
        (∀ m : Motion, (∀ r, (m.val, r) ∉ items) → e.ranges.get m = g.entry.ranges.get m) ∧
        e = { g.entry with ranges := e.ranges }) ∧
    (∀ g, p = [] → s.zones.staging.get st = some g → g.entry.hasRange = true →
      (g.entry.enabled = true → g.entry.complete g.zone.table = true) → s.restForZones = true →
      s.wouldBeOccupied g.zone.table g.entry = false →
      ∃ t : State, exec (.loadZone st tag p) s = .next (t.withReply st ⟨tag, 16, .ok, []⟩) ∧
        (t.zone g.zone).entry = g.entry ∧ (∀ z, z ≠ g.zone → (t.zone z).entry = (s.zone z).entry) ∧
        t.zones.staging = s.zones.staging.set st none ∧ t.ActivityHolds ∧ (s.afterFrame st).ChangedByAStop t) ∧
    (∀ (z : ZoneId) table v, zoneEnableArgs p = some (table, z.index.val, v) → tableOf table = some z.table →
      (v = true → (s.zone z).entry.complete z.table = true ∧
        s.wouldBeOccupied z.table { (s.zone z).entry with enabled := true } = false) → s.restForZones = true →
      ∃ t : State, exec (.zoneEnable st tag p) s = .next (t.withReply st ⟨tag, 17, .ok, []⟩) ∧
        (t.zone z).entry = { (s.zone z).entry with enabled := v } ∧
        (∀ y, y ≠ z → (t.zone y).entry = (s.zone y).entry) ∧ t.zones.staging = s.zones.staging ∧
        t.ActivityHolds ∧ (s.afterFrame st).ChangedByAStop t)

/-- STOP_REQUEST with a level of 1 to 3, from any station: the level rises to it at least, the cause is remembered, the
generator is held, no take runs or records, and at level 3 CUT is asserted and no drive stays powered. A raise that lifts the
level makes the primary record of the moment (R20, R58, R108, R109, R110, R112, R115). -/
def Obligations.StopRequestsStopTheCrane : Prop :=
  ∀ (s : State) (st : Station) (tag : Byte) (p : List Byte) (n : Nat), s.Serves st p → oneByte p = some n → 1 ≤ n →
    n ≤ 3 → s.stop.level ≤ 3 →
    ∃ t : State, exec (.stopRequest st tag p) s = .next t ∧
      (t.links.get st).replies = (s.links.get st).replies ++ [⟨tag, 18, .ok, []⟩] ∧
      max s.stop.level n ≤ t.stop.level ∧ (2 ≤ n → t.stop.level = max s.stop.level n) ∧
      .stopRequest st ∈ t.stop.memory ∧ t.generator = ⟨true, false⟩ ∧ t.takes.recorder = none ∧
      (t.play.state = .idle ∨ ∃ h e, t.play.state = .paused h e) ∧
      (n = 3 → (s.stop.level < 3 → t.stop.cut = true) ∧ ∀ j, (t.driveState j).powered = false) ∧
      (s.stop.level < n → s.play.state = .idle →
        t.stop.primaryCause = some (.stopRequest st) ∧ t.stop.primaryRecord = some s.stop.nextSequence ∧
        t.stop.nextSequence = (s.stop.nextSequence + 1) % 65536 ∧
        ∃ r, t.stop.records = (r :: s.stop.records).take 8 ∧ r.sequence = s.stop.nextSequence ∧
          r.timebase = s.time.now ∧ r.cause = .stopRequest st ∧ r.level = n ∧ r.secondary = false ∧
          r.playback = none ∧ r.standstill = none ∧
          ∀ j, r.setpoints.get j = (s.channels.get j).moving.map fun m => toCount m.p) ∧
      { s with stations := t.stations }.ChangedByAStop t

/-- RELEASE_STOP: refused with STATE at level 0; with NO_RIGHT, the level and local-reset-seen, without the authority its level
asks for; and with CONDITION and the first that stands while the chain is not CLOSED, a presence channel is in FAULT, an
active HARD entry is occupied or a drive is in FAULT. With the authority and no condition standing, the level is 0, CUT is
released, the halt timer is IDLE, the memory is empty, the stop flag is CLEAR, and every MANUAL axis has command VEL 0; no
drive changes (R20, R59, R76, R118, R119, R120). -/
def Obligations.StopsAreReleased : Prop :=
  ∀ (s : State) (st : Station) (tag : Byte), s.Serves st [] →
    (s.stop.level = 0 → exec (.releaseStop st tag []) s = .next (s.answered st tag 19 .state [])) ∧
    ((s.stop.level = 1 ∧ (∀ j, (s.auth.get j).owner ≠ some st) ∧ s.holds st .play = false ∧ s.holds st .release2 = false) ∨
        (s.stop.level = 2 ∧ s.holds st .release2 = false) ∨
        (s.stop.level = 3 ∧ (s.holds st .release2 = false ∨ s.stop.localResetSeen = false)) →
      exec (.releaseStop st tag []) s = .next (s.answered st tag 19 .noRight
        [BitVec.ofNat 8 s.stop.level, if s.stop.localResetSeen then 1 else 0])) ∧
    ((s.stop.level = 1 ∧ ((∃ j, (s.auth.get j).owner = some st) ∨ s.holds st .play = true ∨ s.holds st .release2 = true)) ∨
        (s.stop.level = 2 ∧ s.holds st .release2 = true) ∨
        (s.stop.level = 3 ∧ s.holds st .release2 = true ∧ s.stop.localResetSeen = true) →
      (s.stop.chain ≠ .closed → exec (.releaseStop st tag []) s = .next (s.answered st tag 19 .condition [0, 0])) ∧
      (∀ c : Channel, s.stop.chain = .closed → (s.zones.channels.get c).state = .fault →
        (∀ i : Channel, i.val < c.val → (s.zones.channels.get i).state ≠ .fault) →
        exec (.releaseStop st tag []) s = .next (s.answered st tag 19 .condition [1, BitVec.ofNat 8 c.val])) ∧
      (∀ before z rest, s.stop.chain = .closed → (∀ c, (s.zones.channels.get c).state ≠ .fault) →
        allZones = before ++ z :: rest → (s.zone z).active = true → (s.zone z).entry.kind = .hard →
        (s.zone z).occupied = true →
        (∀ y ∈ before, (s.zone y).active = true → (s.zone y).entry.kind = .hard → (s.zone y).occupied = false) →
        exec (.releaseStop st tag []) s = .next (s.answered st tag 19 .condition
          [2, BitVec.ofNat 8 (if z.table = .set then z.index.val else 128 + z.index.val)])) ∧
      (∀ j : Axis, s.stop.chain = .closed → (∀ c, (s.zones.channels.get c).state ≠ .fault) →
        (∀ z, (s.zone z).active = true → (s.zone z).entry.kind = .hard → (s.zone z).occupied = false) →
        s.driveState j = .fault → (∀ i : Axis, i.val < j.val → s.driveState i ≠ .fault) →
        exec (.releaseStop st tag []) s = .next (s.answered st tag 19 .condition [3, BitVec.ofNat 8 j.val])) ∧
      (s.stop.chain = .closed → (∀ c, (s.zones.channels.get c).state ≠ .fault) →
        (∀ z, (s.zone z).active = true → (s.zone z).entry.kind = .hard → (s.zone z).occupied = false) →
        (∀ j, s.driveState j ≠ .fault) →
        ∃ t : State, exec (.releaseStop st tag []) s = .next (t.withReply st ⟨tag, 19, .ok, []⟩) ∧
          t.stop = { s.stop with
            level := 0, primaryCause := none, primaryRecord := none, localResetSeen := false, haltTimer := none,
            memory := [], cut := false } ∧
          t.generator = { s.generator with held := false } ∧
          (∀ j, t.auth.get j = if s.mode j = .manual then { s.auth.get j with command := .vel 0 } else s.auth.get j) ∧
          (∀ j, t.channels.get j = if s.mode j = .manual then (s.channels.get j).zeroTarget else s.channels.get j) ∧
          t = { s.afterFrame st with
            stop := t.stop, generator := t.generator, auth := t.auth, channels := t.channels }))

/-- READ_STOPS answers a part of a record that stands in the list, and TAKE_INFO a part of a take that is kept or being
recorded, and the part 0 alone of one being loaded. Another index, slot or part is refused BAD_ARG, an index beyond the list
and another part of a LOADING slot STATE, and an EMPTY slot NO_TAKE. Nothing changes (R124, R157). The parts hold the fields
of the record and of the take in the layouts of section 10.6. What the parts hold for an
absent value, for a lens generation without a number and in a presence byte are the model's choices where no layout gives it
(log entries 17, 35 and 36). -/
def Obligations.ReadsOnlyAnswer : Prop :=
  (∀ (r : StopRecord) part, r.PartHolds part (recordPart r part)) ∧
  (∀ (t : Take) state reason part, state = 1 ∨ state = 2 → t.PartHolds state reason part (infoPart state t reason part)) ∧
  ∀ (s : State) (st : Station) (tag : Byte) (p : List Byte) (index part : Nat), s.Serves st p →
    twoBytes p = some (index, part) →
    (∀ r, s.stop.records[index]? = some r → index ≤ 7 → part ≤ 4 → exec (.readStops st tag p) s =
      .next (s.answered st tag 20 .ok
        (beBytes 2 r.sequence ++ [BitVec.ofNat 8 s.stop.records.length] ++ recordPart r part))) ∧
    (s.stop.records[index]? = none → index ≤ 7 → part ≤ 4 →
      exec (.readStops st tag p) s = .next (s.answered st tag 20 .state [])) ∧
    (7 < index ∨ 4 < part → exec (.readStops st tag p) s = .next (s.answered st tag 20 .badArg [])) ∧
    (31 < index ∨ 13 < part → exec (.takeInfo st tag p) s = .next (s.answered st tag 31 .badArg [])) ∧
    (∀ (i : TakeNo) q bs, i.val = index → s.takes.slots.get i = .loading q bs → part ≤ 13 →
      exec (.takeInfo st tag p) s = .next (if part = 0 then
        s.answered st tag 31 .ok
          ([3] ++ List.replicate 11 255 ++ beBytes 4 q ++ List.replicate 4 255) else s.answered st tag 31 .state [])) ∧
    (∀ (i : TakeNo) t, i.val = index → s.takes.slots.get i = .recording t → part ≤ 13 →
      exec (.takeInfo st tag p) s = .next (s.answered st tag 31 .ok (infoPart 1 t none part))) ∧
    (∀ (i : TakeNo) t reason, i.val = index → s.takes.slots.get i = .closed t reason → part ≤ 13 →
      exec (.takeInfo st tag p) s = .next (s.answered st tag 31 .ok (infoPart 2 t (some reason) part))) ∧
    (∀ i : TakeNo, i.val = index → s.takes.slots.get i = .empty → part ≤ 13 →
      exec (.takeInfo st tag p) s = .next (s.answered st tag 31 .noTake []))

/-! ### Takes and the flash -/

/-- RECORD, with nothing to refuse it, starts a take in the lowest EMPTY slot; RECORD_STOP closes it STOPPED when it has two
samples or more and discards it otherwise; DELETE empties a CLOSED slot that is free to go and returns its blocks to the tail
of the free list; PROTECT sets the flag of a take (R145, R147, R151, R154, R155, R156). At an update the recorder counts down
to its next sample; a sample that is due is stored from the finished setpoints, with a block from the head of the free list
where it needs one, and the take's first sample, lens generations, timebase and envelope follow it; with no block left the
take closes FULL, or is discarded before its second sample (R144, R148, R149, R153, R154). -/
def Obligations.TakesAreRecordedAndKept : Prop :=
  (∀ (s : State) (st : Station) (tag : Byte) (p : List Byte), s.Serves st p → s.holds st .take = true →
    (∀ (w : BitVec 16) n (label : Tab 8 Byte) (i : TakeNo) (axes : AxisSet), recordArgs p = some (w, n, label) →
      axes = w.setWidth 10 → w ≠ 0 → w.toNat < 1024 → n ∈ [1, 2, 4, 8] →
      (∀ b ∈ label.list, 32 ≤ b.toNat ∧ b.toNat ≤ 126) → s.stop.level = 0 → s.takes.recorder = none →
      s.takes.slots.get i = .empty → (∀ k : TakeNo, k.val < i.val → s.takes.slots.get k ≠ .empty) →
      s.takes.freeList ≠ [] → (∀ j : Axis, axes.getLsbD j.val = true → s.driveState j = .active) →
      exec (.record st tag p) s = .next (({ s.afterFrame st with takes := { s.takes with
        slots := s.takes.slots.set i (.recording ⟨label, axes, n, 0, [], none,
          match s.play.state with
          | .running h e => .layer (BitVec.ofNat 8 h.slot.val) e
          | _ => .manual, false⟩)
        recorder := some ⟨i, st, 0⟩ } }).withReply st ⟨tag, 27, .ok, []⟩)) ∧
    (∀ r k, p = [] → s.takes.recorder = some r → s.takes.slots.get r.slot = .recording k →
      ∃ t : State, exec (.recordStop st tag p) s = .next (t.withReply st ⟨tag, 28, .ok, []⟩) ∧
        (2 ≤ k.count → t.takes = { s.takes with
          slots := s.takes.slots.set r.slot (.closed k .stopped), recorder := none }) ∧
        (k.count < 2 → t.takes = { s.takes with
          slots := s.takes.slots.set r.slot .empty, recorder := none, freeList := s.takes.freeList ++ k.blocks }) ∧
        (s.linkState r.station = .up → (t.links.get r.station).notices.recordClosed =
          some (r.slot, k.count, if 2 ≤ k.count then some .stopped else none)) ∧
        t = { s.afterFrame st with links := t.links, takes := t.takes }) ∧
    (∀ (i : TakeNo) k reason, oneByte p = some i.val → s.takes.slots.get i = .closed k reason →
      k.isProtected = false → s.play.state.heldSlot ≠ some i → s.saving i = false →
      exec (.delete st tag p) s = .next (({ s.afterFrame st with takes := { s.takes with
        slots := s.takes.slots.set i .empty, freeList := s.takes.freeList ++ k.blocks } }).withReply st
          ⟨tag, 29, .ok, []⟩)) ∧
    (∀ (i : TakeNo) k reason v, protectArgs p = some (i.val, v) → s.takes.slots.get i = .closed k reason →
      exec (.protect st tag p) s = .next (({ s.afterFrame st with takes := { s.takes with
        slots := s.takes.slots.set i (.closed { k with isProtected := v } reason) } }).withReply st ⟨tag, 30, .ok, []⟩))) ∧
  ∀ (s : State) (r : Recorder) (k : Take), s.Quiet → s.KeepsRunning → s.stop.level = 0 →
    s.takes.recordingTake = some (r, k) → ∃ t : State, exec .update s = .next t ∧
      (0 < r.toNext → t.takes = { s.takes with recorder := some { r with toNext := r.toNext - 1 } }) ∧
      (r.toNext = 0 → k.count % (1024 / setSize k.axes) = 0 → s.takes.freeList = [] →
        (2 ≤ k.count → t.takes = { s.takes with slots := s.takes.slots.set r.slot (.closed k .full), recorder := none }) ∧
        (k.count < 2 → t.takes = { s.takes with
          slots := s.takes.slots.set r.slot .empty, recorder := none, freeList := s.takes.freeList ++ k.blocks })) ∧
      ∀ blocks free, r.toNext = 0 →
        (k.count % (1024 / setSize k.axes) = 0 ∧ ∃ b, s.takes.freeList = b :: free ∧ blocks = k.blocks ++ [b]) ∨
          (k.count % (1024 / setSize k.axes) ≠ 0 ∧ blocks = k.blocks ∧ free = s.takes.freeList) →
        ∃ vals d, (∀ j m, (t.channels.get j).moving = some m → vals.get j = m.p) ∧
          t.takes =
            { values := writeSample s.takes.values k.axes blocks k.count vals
              freeList := free
              slots := s.takes.slots.set r.slot
                (.recording { k with count := k.count + 1, blocks := blocks, data := some d })
              recorder := some { r with toNext := k.divisor - 1 } } ∧
          (k.count = 0 → d.recordedAt = s.time.now ∧
            (∀ l : Lens, k.axes.getLsbD (lensAxis l).val = true →
              d.lens.get l = some (.value (s.maps.get l).generation)) ∧
            ∀ j : Axis, k.axes.getLsbD j.val = true →
              d.first.get j = vals.get j ∧ d.envelope.get j = ⟨vals.get j, vals.get j, 0, 0⟩) ∧
          ∀ old, 0 < k.count → k.data = some old →
            d = { old with envelope := d.envelope } ∧
            ∀ (j : Axis) x s1 s2, k.axes.getLsbD j.val = true → x = vals.get j →
              s1 = s.takes.sample k (k.count - 1) j → s2 = s.takes.sample k (k.count - 2) j →
              d.envelope.get j =
                ⟨min (old.envelope.get j).minimum x, max (old.envelope.get j).maximum x,
                  max (old.envelope.get j).velocity (((x - s1).natAbs + k.divisor - 1) / k.divisor),
                  if k.count < 2 then 0
                  else max (old.envelope.get j).stepChange
                    ((((x - s1) - (s1 - s2)).natAbs + k.divisor - 1) / k.divisor)⟩

/-- SAVE_TAKE of a CLOSED take puts its image in flight at a free Flash Port; each sector left has been erased and holds its
part of the image before the end record; and the end of the save leaves the whole image in its range and posts FLASH_DONE, or,
where the range is too small, posts FLASH_FAILED with FULL. No byte outside the range changes (R160, R161, R162, R199). That
SAVE_TAKE_END finishes what is left of the write is the model's choice (log entry 27). So are the bytes the image has for a
lens generation without a number and for the origin of a MANUAL take (log entries 35 and 43). The image of a take whose values
fit their fields has the length of R160, a valid header that is read back as the fields of the take and of its close reason,
samples that are read back in their order and places, and the end record of what comes before it. -/
def Obligations.TakesAreSaved : Prop :=
  (∀ (ts : TakeStore) (k : Take) (reason : CloseReason) (d : TakeData) (image : List Byte) (size : Nat), k.fits d →
    (∀ q (j : Axis), q < k.count → k.axes.getLsbD j.val = true →
      -549755813888 ≤ ts.sample k q j ∧ ts.sample k q j < 549755813888) →
    image = archiveImage ts k reason → size = setSize k.axes →
    ∃ h, headerOf (image.take 512) = h ∧ headerValid (image.take 512) = true ∧
      image.length = 512 + 5 * size * k.count + 8 ∧
      image.drop (512 + 5 * size * k.count) = endRecord (image.take (512 + 5 * size * k.count)) ∧
      (h.label = k.label ∧ h.axes = k.axes ∧ h.divisor = k.divisor ∧ h.count = k.count ∧ h.isProtected = k.isProtected ∧
        h.origin = k.origin ∧ h.data.recordedAt = d.recordedAt) ∧
      [CloseReason.stopped, .interrupted, .full, .loaded][natAt image 20 1]? = some reason ∧
      (∀ l : Lens, k.axes.getLsbD (lensAxis l).val = true → h.data.lens.get l = d.lens.get l) ∧
      ∀ j : Axis, k.axes.getLsbD j.val = true →
        h.data.first.get j = d.first.get j ∧ h.data.envelope.get j = d.envelope.get j ∧
        ∀ q, q < k.count →
          (sampleOf k.axes (slice image (512 + 5 * size * q) (5 * size))).get j = ts.sample k q j) ∧
  ∀ (s : State),
    (∀ (st : Station) (tag : Byte) (p : List Byte) (i : TakeNo) first last k reason, s.Serves st p →
      s.holds st .take = true → saveTakeArgs p = some (i.val, first, last) → 16 ≤ first → first ≤ last → last ≤ 8191 →
      s.flashPort = none → s.takes.slots.get i = .closed k reason →
      exec (.saveTake st tag p) s = .next (({ s.afterFrame st with
        flashPort := some ⟨.saveTake, first, last, 0, st, some i, archiveImage s.takes k reason, none⟩ }).withReply st
          ⟨tag, 32, .ok, []⟩)) ∧
    ∀ op, s.sysreset = false → s.flashPort = some op → op.kind = .saveTake → op.first ≤ op.last →
      Memory.wf erasedByte s.flash →
      (op.done < op.reached → ∃ t : State, exec .flashSectorDone s = .next t ∧
        t.flashPort = some { op with done := op.done + 1 } ∧
        (∀ a, Memory.read erasedByte t.flash a =
          if (op.first + op.done) * 4096 ≤ a ∧ a < (op.first + op.done + 1) * 4096 then
            op.body.getD (a - op.first * 4096) erasedByte
          else Memory.read erasedByte s.flash a) ∧
        t = { s with flash := t.flash, flashPort := t.flashPort }) ∧
      ∃ t : State, exec .saveTakeEnd s = .next t ∧ t.flashPort = none ∧
        flashBytes t.flash (op.first * 4096) (min op.image.length op.room) = op.image.take op.room ∧
        (∀ a, a < op.first * 4096 ∨ (op.last + 1) * 4096 ≤ a →
          Memory.read erasedByte t.flash a = Memory.read erasedByte s.flash a) ∧
        (s.linkState op.requester = .up →
          (op.image.length ≤ op.room → (t.links.get op.requester).notices.flashDone =
            some (.saveTake, op.slot, (op.image.length + 4095) / 4096)) ∧
          (op.room < op.image.length →
            (t.links.get op.requester).notices.flashFailed = some (.saveTake, op.slot, .full))) ∧
        t = { s with links := t.links, flash := t.flash, flashPort := t.flashPort }

/-- LOAD_TAKE puts a load in flight into the lowest EMPTY slot. A valid header is kept, each sample is stored at its place
under the block list, and an end record that matches closes the take LOADED. The load fails with NO_END on a header that is
not valid, a range that ends before the samples or the end record, or an end marker that is not in its place; with FULL on a
sample that needs a block where none is free; and with CHECKSUM on an end record whose CRC-32 differs. Its slot is then EMPTY
again with its blocks at the tail of the free list (R144, R163, R164, R199). How a header is read whose bytes do not fit their
fields or its set of axes is free or the model's choice (log entries 10, 37 and 46). -/
def Obligations.TakesAreLoaded : Prop :=
  ∀ (s : State),
    (∀ (st : Station) (tag : Byte) (p : List Byte) (i : TakeNo) first last, s.Serves st p →
      s.holds st .take = true → loadTakeArgs p = some (first, last) → 16 ≤ first → first ≤ last → last ≤ 8191 →
      s.flashPort = none → s.takes.slots.get i = .empty →
      (∀ k : TakeNo, k.val < i.val → s.takes.slots.get k ≠ .empty) →
      exec (.loadTake st tag p) s = .next (({ s.afterFrame st with
        takes := { s.takes with slots := s.takes.slots.set i (.loading 0 []) }
        flashPort := some ⟨.loadTake, first, last, 0, st, some i, [], none⟩ }).withReply st ⟨tag, 33, .ok, []⟩)) ∧
    ∀ op i q blocks, s.sysreset = false → s.flashPort = some op → op.kind = .loadTake → op.slot = some i →
      s.takes.slots.get i = .loading q blocks →
      (op.header = none → headerValid (flashBytes s.flash (op.first * 4096) 512) = true →
        exec .loadTakeHeader s = .next { s with flashPort := some { op with
          header := some (headerOf (flashBytes s.flash (op.first * 4096) 512)) } }) ∧
      (op.header = none → headerValid (flashBytes s.flash (op.first * 4096) 512) = false →
        ∃ t : State, exec .loadTakeHeader s = .next t ∧ t.flashPort = none ∧
          t.takes = { s.takes with
            slots := s.takes.slots.set i .empty, freeList := s.takes.freeList ++ blocks } ∧
          (s.linkState op.requester = .up →
            (t.links.get op.requester).notices.flashFailed = some (.loadTake, some i, .noEnd)) ∧
          t = { s with links := t.links, takes := t.takes, flashPort := t.flashPort }) ∧
      (∀ h, op.header = some h → q < h.count → s.sampleFails op h q blocks = none →
        ∃ bs free, drawBlock q (setSize h.axes) blocks s.takes.freeList = some (bs, free) ∧
          exec .loadTakeSample s = .next { s with takes := { s.takes with
            values := (writeSample s.takes.values h.axes bs q (sampleOf h.axes
              (flashBytes s.flash (op.first * 4096 + (512 + 5 * setSize h.axes * q)) (5 * setSize h.axes))))
            freeList := free
            slots := s.takes.slots.set i (.loading (q + 1) bs) } }) ∧
      (∀ h, op.header = some h → q = h.count → s.endRecordFails op h = none →
        ∃ t : State, exec .loadTakeEnd s = .next t ∧ t.flashPort = none ∧
          t.takes = { s.takes with
            slots := s.takes.slots.set i
              (.closed ⟨h.label, h.axes, h.divisor, q, blocks, some h.data, h.origin, h.isProtected⟩ .loaded) } ∧
          (s.linkState op.requester = .up →
            (t.links.get op.requester).notices.flashDone = some (.loadTake, some i, q)) ∧
          t = { s with links := t.links, takes := t.takes, flashPort := t.flashPort }) ∧
      (∀ h c why, op.header = some h →
        (q < h.count ∧ (c = .loadTakeSample ∨ c = .loadTakeEnd) ∧
          ((op.room < 512 + 5 * setSize h.axes * (q + 1) ∧ why = .noEnd) ∨
            (512 + 5 * setSize h.axes * (q + 1) ≤ op.room ∧ q % (1024 / setSize h.axes) = 0 ∧ s.takes.freeList = [] ∧
              why = .full))) ∨
        (q = h.count ∧ c = .loadTakeEnd ∧ ∃ n, n = 512 + 5 * setSize h.axes * h.count ∧
          ((op.room < n + 8 ∧ why = .noEnd) ∨
            (n + 8 ≤ op.room ∧ flashBytes s.flash (op.first * 4096 + n) 4 ≠ [0x5A, 0xE0, 0x0D, 0x01] ∧ why = .noEnd) ∨
            (n + 8 ≤ op.room ∧ flashBytes s.flash (op.first * 4096 + n) 4 = [0x5A, 0xE0, 0x0D, 0x01] ∧
              flashBytes s.flash (op.first * 4096 + n) 8 ≠ endRecord (flashBytes s.flash (op.first * 4096) n) ∧
              why = .checksum))) →
        ∃ t : State, exec c s = .next t ∧ t.flashPort = none ∧
          t.takes = { s.takes with
            slots := s.takes.slots.set i .empty, freeList := s.takes.freeList ++ blocks } ∧
          (s.linkState op.requester = .up →
            (t.links.get op.requester).notices.flashFailed = some (.loadTake, some i, why)) ∧
          t = { s with links := t.links, takes := t.takes, flashPort := t.flashPort }) ∧
      (op.done < op.sectors →
        exec .flashSectorDone s = .next { s with flashPort := some { op with done := op.done + 1 } })

/-- SAVE_CONFIG puts the image of the settings in force in flight at a free Flash Port. The port leaves sector 0 erased and
holding the image before its end record. The end judges the bytes read back: where their end record matches, sector 0 holds
the whole image, CONFIG_DEFAULTED is clear and FLASH_DONE is posted; any other posts FLASH_FAILED with VERIFY and leaves
CONFIG_DEFAULTED. Only sector 0 changes (R199, R200, R201). That sector 0 then holds the bytes read back, where they do not
match, is the model's choice (log entry 20). So are the bytes the image has for absent fields (log entries 18 and 47). That
FLASH_SECTOR_DONE leaves sector 0 without the end record, which comes with SAVE_CONFIG_END, is read from the rules (log entry
27). -/
def Obligations.ConfigurationIsSaved : Prop :=
  ∀ (s : State),
    (∀ (st : Station) (tag : Byte), s.Serves st [] → s.holds st .config = true → s.flashPort = none →
      exec (.saveConfig st tag []) s = .next (({ s.afterFrame st with
        flashPort := some ⟨.saveConfig, 0, 0, 0, st, none, configBytes s.config, none⟩ }).withReply st
          ⟨tag, 41, .ok, []⟩)) ∧
    (∀ op, s.sysreset = false → s.flashPort = some op → op.kind = .saveConfig → op.first = 0 → op.last = 0 →
      op.done = 0 → op.image.length = 1963 → Memory.wf erasedByte s.flash →
      ∃ t : State, exec .flashSectorDone s = .next t ∧ t.flashPort = some { op with done := 1 } ∧
        (∀ a, Memory.read erasedByte t.flash a =
          if a < 4096 then (op.image.take 1955).getD a erasedByte else Memory.read erasedByte s.flash a) ∧
        t = { s with flash := t.flash, flashPort := t.flashPort }) ∧
    ∀ op back, s.sysreset = false → s.flashPort = some op → op.kind = .saveConfig → op.image.length = 1963 →
      back.length = 1963 → Memory.wf erasedByte s.flash →
      ∃ t : State, exec (.saveConfigEnd back) s = .next t ∧ t.flashPort = none ∧
        (endMatches back = true → flashBytes t.flash 0 1963 = op.image) ∧
        (endMatches back = false → flashBytes t.flash 0 1963 = back) ∧
        (∀ a, 4096 ≤ a → Memory.read erasedByte t.flash a = Memory.read erasedByte s.flash a) ∧
        t.configDefaulted = (if endMatches back then false else s.configDefaulted) ∧
        (s.linkState op.requester = .up →
          (endMatches back = true →
            (t.links.get op.requester).notices.flashDone = some (.saveConfig, none, 1)) ∧
          (endMatches back = false →
            (t.links.get op.requester).notices.flashFailed = some (.saveConfig, none, .verify))) ∧
        t = { s with
          links := t.links, flash := t.flash, flashPort := t.flashPort, configDefaulted := t.configDefaulted }

/-! ### Playback -/

/-- CUE: refused BUSY while a take is held and counted as missed; refused LATE and counted where its effective start has come
and no check before refuses it; with nothing to refuse it, and the crane in no enabled HARD entry, the engine is SEEKING with
the cue, the axes of the take are in SEEK under the station with their stale marks clear, each seeks its first path position,
and the channels of axes outside the take stay as they are (R5, R168, R170, R172, R185). That the seek target is clamped to
the soft limits is read from the rules (log entry 13). That the start-time bytes of an untimed cue are ignored is the model's
choice (log entry 39). -/
def Obligations.CuesBeginASeek : Prop :=
  ∀ (s : State) (st : Station) (tag : Byte) (p : List Byte) (i : TakeNo) (given : Option Time) (ignore : Bool),
    s.Serves st p → cueArgs p = some (i.val, given, ignore) → s.holds st .play = true →
    (s.play.state ≠ .idle → exec (.cue st tag p) s = .next (({ s.afterFrame st with
      play := { s.play with missedCue := min 65535 (s.play.missedCue + 1) } }).withReply st ⟨tag, 34, .busy, []⟩)) ∧
    ∀ k reason, s.play.state = .idle → s.stop.level = 0 → s.takes.slots.get i = .closed k reason →
      (∀ j : Axis, k.axes.getLsbD j.val = true → (s.auth.get j).owner = some st ∧ s.mode j = .manual ∧
        s.driveState j = .active ∧ s.breaksLimits k j = false) →
      ignore = true ∨ s.lensChanged k = false → (∀ x, given = some x → s.time.drift = false) →
      (∀ x, given = some x → (s.effectiveStart x).toNat ≤ s.time.now.toNat →
        exec (.cue st tag p) s = .next (({ s.afterFrame st with
          play := { s.play with lateCue := min 65535 (s.play.lateCue + 1) } }).withReply st ⟨tag, 34, .late, []⟩)) ∧
      ((∀ x, given = some x → s.time.now.toNat < (s.effectiveStart x).toNat) →
        s.insideZone (s.startPosition k 0 false) = false →
        (∀ z, (s.zone z).entry.enabled = true → (s.zone z).entry.kind = .hard →
          (s.zone z).entry.occupiedAt s.zonePosition = false) →
        ∃ t : State, exec (.cue st tag p) s = .next (t.withReply st ⟨tag, 34, .ok, []⟩) ∧
          t.play = { s.play with state := .seeking ⟨⟨i, st, ignore⟩, given.map s.effectiveStart, false, 0⟩ } ∧
          (∀ j : Axis, t.auth.get j =
            if k.axes.getLsbD j.val then { s.auth.get j with mode := .seek, stale := false } else s.auth.get j) ∧
          (∀ (j : Axis) m, k.axes.getLsbD j.val = true → (s.channels.get j).moving = some m →
            t.channels.get j = { s.channels.get j with moving := some { m with target := .position (clampTarget (s.limits j)
              (s.takes.pathPosition k j (s.lead j) + (s.channels.get j).trimOffset * 256)) none } }) ∧
          (∀ j : Axis, k.axes.getLsbD j.val = false → (s.mode j).underTake = false → t.channels.get j = s.channels.get j) ∧
          (∀ z, (t.zone z).entry = (s.zone z).entry) ∧
          t.zones = { s.zones with setTable := t.zones.setTable, crewTable := t.zones.crewTable } ∧
          t = { s.afterFrame st with play := t.play, auth := t.auth, channels := t.channels, zones := t.zones })

/-- GO sets GO-received for a timed cue within its window and for an untimed cue that is READY. It is refused NO_RIGHT without
the right, STATE with no cue, EARLY before the window or while an untimed cue still seeks, and LATE from the effective start
on (R173, R174). -/
def Obligations.GoIsTakenInItsWindow : Prop :=
  ∀ (s : State) (st : Station) (tag : Byte) (c : Cue), s.Serves st [] →
    (s.holds st .go = false → exec (.go st tag []) s = .next (s.answered st tag 35 .noRight [])) ∧
    (s.holds st .go = true → s.play.state = .idle ∨ (∃ h e, s.play.state = .running h e ∨ s.play.state = .paused h e) →
      exec (.go st tag []) s = .next (s.answered st tag 35 .state [])) ∧
    (∀ x, s.holds st .go = true → c.start = some x → s.play.state = .seeking c ∨ s.play.state = .ready c →
      (s.time.now.toNat < x.toNat - s.play.goLead →
        exec (.go st tag []) s = .next (s.answered st tag 35 .early [])) ∧
      (x.toNat ≤ s.time.now.toNat → exec (.go st tag []) s = .next (s.answered st tag 35 .late [])) ∧
      (x.toNat - s.play.goLead ≤ s.time.now.toNat → s.time.now.toNat < x.toNat →
        exec (.go st tag []) s = .next (({ s.afterFrame st with play := { s.play with
          state := if s.play.state = EngineState.seeking c then EngineState.seeking { c with go := true }
            else EngineState.ready { c with go := true } } }).withReply st ⟨tag, 35, .ok, []⟩))) ∧
    (s.holds st .go = true → c.start = none → s.play.state = .seeking c →
      exec (.go st tag []) s = .next (s.answered st tag 35 .early [])) ∧
    (s.holds st .go = true → c.start = none → s.play.state = .ready c →
      exec (.go st tag []) s = .next (({ s.afterFrame st with play := { s.play with
        state := .ready { c with go := true } } }).withReply st ⟨tag, 35, .ok, []⟩))

/-- RESUME of a paused take at level 0, the cueing station's link UP, every drive of the set ACTIVE, and the crane in no
enabled HARD entry: the engine seeks back to the pause elapsed, untimed, the axes pass to SEEK, and each seeks its path
position at the pause elapsed plus its trim offset (R5, R65, R172, R181). That the seek target is clamped to the soft limits
is read from the rules (log entry 13). At an update a cue is READY where every axis of the set has arrived, at rest at its
seek target, and SEEKING otherwise (R25, R172). -/
def Obligations.PausedTakesAreResumed : Prop :=
  (∀ (s : State) (st : Station) (tag : Byte) (h : Hold) (e : Nat) (k : Take), s.Serves st [] →
    s.holds st .play = true → s.play.state = .paused h e → s.stop.level = 0 → s.linkState h.station = .up →
    s.takes.closedTake h.slot = some k →
    (∀ j : Axis, k.axes.getLsbD j.val = true → s.driveState j = .active) →
    s.insideZone (s.startPosition k e true) = false →
    (∀ z, (s.zone z).entry.enabled = true → (s.zone z).entry.kind = .hard →
      (s.zone z).entry.occupiedAt s.zonePosition = false) →
    ∃ t : State, exec (.resume st tag []) s = .next (t.withReply st ⟨tag, 36, .ok, []⟩) ∧
      t.play = { s.play with state := .seeking ⟨h, none, false, e⟩ } ∧
      (∀ j : Axis, t.auth.get j =
        if k.axes.getLsbD j.val then { s.auth.get j with mode := .seek, stale := false } else s.auth.get j) ∧
      (∀ (j : Axis) m, k.axes.getLsbD j.val = true → (s.channels.get j).moving = some m →
        t.channels.get j = { s.channels.get j with moving := some { m with target := .position (clampTarget (s.limits j)
          (s.takes.pathPosition k j (e + s.lead j) + (s.channels.get j).trimOffset * 256)) none } }) ∧
      (∀ j : Axis, k.axes.getLsbD j.val = false → (s.mode j).underTake = false → t.channels.get j = s.channels.get j) ∧
      (∀ z, (t.zone z).entry = (s.zone z).entry) ∧
      t.zones = { s.zones with setTable := t.zones.setTable, crewTable := t.zones.crewTable } ∧
      t = { s.afterFrame st with play := t.play, auth := t.auth, channels := t.channels, zones := t.zones }) ∧
  ∀ (s : State) (c : Cue) (k : Take), s.Quiet → s.stop.level = 0 → s.takes.closedTake c.hold.slot = some k →
    s.play.state = .seeking c ∨ (s.play.state = .ready c ∧ ¬(c.start = none ∧ c.go = true)) →
    ∃ t : State, exec .update s = .next t ∧ ∀ arrived : Prop,
      (arrived ↔ ∀ j : Axis, k.axes.getLsbD j.val = true → ∃ m, (t.channels.get j).moving = some m ∧ m.v = 0 ∧
        m.p = t.takes.pathPosition k j (c.runStart + s.lead j) + (t.channels.get j).trimOffset * 256) →
      (arrived → t.play = { s.play with state := .ready c }) ∧ (¬arrived → t.play = { s.play with state := .seeking c })

/-- STOP_PLAY of any held take and ABANDON of a paused one: the engine is IDLE, each axis of the take is MANUAL under its owner
where the owner's link is UP and IDLE otherwise, with command VEL 0, no trim station, its trim 0 and its setpoint left, and
PLAY_ENDED is posted to the cueing station (R19, R65, R80, R182, R184). The update that brings every axis of a running take to
its last sample ends it in the same way, with the velocities 0 and the reason END (R179). -/
def Obligations.TakesAreGivenUp : Prop :=
  (∀ (s : State) (st : Station) (tag : Byte) (h : Hold) (elapsed : Option Nat) (c : Instr) (code : Byte) (why : PlayEnd),
    s.Serves st [] → s.holds st .play = true →
    (c = .stopPlay st tag [] ∧ code = 37 ∧ why = .stopped ∧
        ((elapsed = none ∧ ∃ q, q.hold = h ∧ (s.play.state = .seeking q ∨ s.play.state = .ready q)) ∨
          ∃ e, elapsed = some e ∧ (s.play.state = .running h e ∨ s.play.state = .paused h e))) ∨
      (c = .abandon st tag [] ∧ code = 38 ∧ why = .abandoned ∧ ∃ e, elapsed = some e ∧ s.play.state = .paused h e) →
    ∃ t : State, exec c s = .next t ∧
      (t.links.get st).replies = (s.links.get st).replies ++ [⟨tag, code, .ok, []⟩] ∧
      t.play = { s.play with state := .idle } ∧
      (∀ j : Axis, (s.takeAxes h.slot).getLsbD j.val = true →
        (∀ o, (s.auth.get j).owner = some o → s.linkState o = .up → t.auth.get j = ⟨some o, .manual, none, .vel 0, false⟩) ∧
        ((∀ o, (s.auth.get j).owner = some o → s.linkState o ≠ .up) → t.auth.get j = ⟨none, .idle, none, .vel 0, false⟩) ∧
        (s.stop.level ≤ 2 → t.channels.get j = { (s.channels.get j).zeroTarget with trimDemand := 0, trimOffset := 0 })) ∧
      (∀ j : Axis, (s.takeAxes h.slot).getLsbD j.val = false → t.auth.get j = s.auth.get j) ∧
      (s.linkState h.station = .up →
        (t.links.get h.station).notices.playEnded = some (h.slot, why, elapsed)) ∧
      { s with stations := t.stations }.ChangedByAStop t) ∧
  ∀ (s : State) (h : Hold) (e : Nat) (k : Take), s.Quiet → s.stop.level = 0 → s.play.state = .running h e →
    s.taken.running = false → s.takes.closedTake h.slot = some k →
    (∀ j : Axis, k.axes.getLsbD j.val = true → (k.count - 1) * k.divisor ≤ e + 1 + s.lead j) →
    ∃ t : State, exec .update s = .next t ∧ t.play = { s.play with state := .idle } ∧
      (∀ j : Axis, k.axes.getLsbD j.val = true →
        (∀ o, (s.auth.get j).owner = some o → s.linkState o = .up → t.auth.get j = ⟨some o, .manual, none, .vel 0, false⟩) ∧
        ((∀ o, (s.auth.get j).owner = some o → s.linkState o ≠ .up) → t.auth.get j = ⟨none, .idle, none, .vel 0, false⟩) ∧
        (t.channels.get j).trimDemand = 0 ∧ (t.channels.get j).trimOffset = 0 ∧
        ∀ m, (t.channels.get j).moving = some m → m.v = 0 ∧ m.target = .velocity 0) ∧
      (s.reportCount < 9 → s.linkState h.station = .up →
        (t.links.get h.station).notices.playEnded = some (h.slot, .atEnd, some (e + 1)))

/-! ### Start (R203) -/

/-- POWER_ON and the release of SYSRESET start the part at its reset values, with the flash kept and START raised at level 3:
without a valid image every setting is at its default, and with one the settings are those of the image and CONFIG_DEFAULTED
is clear. Power-on empties the directory; SYSRESET keeps CLOSED takes, closes a recording INTERRUPTED or discards it, and
empties LOADING slots. While asserted it holds CUT and changes nothing else (R1, R4, R106, R145, R146, R202, R203). A write in
flight is abandoned: its sector holds what had been written of the image before its end record, and no other sector changes; a
SAVE_CONFIG cut short leaves no valid image (R146, R199, R201); how much had been written, and that a save may not have reached
its sector, are the model's free value (log entry 8). That a release with nothing asserted changes nothing, and that a power-on
under an asserted SYSRESET waits for the release, are the model's choices (log entry 26). -/
def Obligations.StartsComeUpAtReset : Prop :=
  ∀ s : State,
    exec (.sysreset true) s = .next { s with sysreset := true, stop := { s.stop with cut := true } } ∧
    (s.sysreset = false → exec (.sysreset false) s = .next s) ∧
    (s.sysreset = true → ∃ t : State, exec .powerOn s = .next t ∧ t = { State.reset with
      flash := t.flash, freeCount := t.freeCount, pending := s.pending, sysreset := true } ∧ t.stop.cut = true ∧
      (s.flashPort = none → t.flash = s.flash ∧ t.freeCount = s.freeCount)) ∧
    ∀ c, (c = .powerOn ∧ s.sysreset = false) ∨ (c = .sysreset false ∧ s.sysreset = true) →
      ∃ t : State, exec c s = .next t ∧
        (c = .powerOn → t.takes = TakeStore.atPowerOn) ∧
        (c = .sysreset false → t.takes.recorder = none ∧
          (∀ i k r, s.takes.slots.get i = .closed k r → t.takes.slots.get i = .closed k r) ∧
          (∀ i q bs, s.takes.slots.get i = .loading q bs → t.takes.slots.get i = .empty) ∧
          (∀ r k, s.takes.recorder = some r → s.takes.slots.get r.slot = .recording k →
            t.takes.slots.get r.slot = if 2 ≤ k.count then .closed k .interrupted else .empty)) ∧
        (s.flashPort = none → t.flash = s.flash ∧ t.freeCount = s.freeCount) ∧
        (∀ op, s.flashPort = some op → op.kind = .loadTake ∨ op.reached ≤ op.done → t.flash = s.flash) ∧
        (∀ op base part, s.flashPort = some op → op.kind ≠ .loadTake → op.done < op.reached →
          Memory.wf erasedByte s.flash → base = (op.first + op.done) * 4096 → part = sectorPart op.body op.done →
          (op.kind = .saveTake ∧ t.flash = s.flash) ∨ ∃ n, n ≤ part.length ∧ ∀ a, Memory.read erasedByte t.flash a =
            if base ≤ a ∧ a < base + 4096 then (part.take n).getD (a - base) erasedByte
            else Memory.read erasedByte s.flash a) ∧
        (∀ op, s.flashPort = some op → op.kind = .saveConfig → op.first = 0 → op.last = 0 → op.done = 0 →
          op.image.length = 1963 → Memory.wf erasedByte s.flash → t.configDefaulted = true) ∧
        (readConfig t.flash = none → t = { State.reset with
          flash := t.flash, takes := t.takes, freeCount := t.freeCount, pending := s.pending }) ∧
        (∀ g, readConfig t.flash = some g → t.config = g ∧ t.configDefaulted = false ∧ t.stop.level = 3 ∧
          t.stop.cut = true ∧ t.stop.primaryCause = some .start ∧ t.flashPort = none ∧ t.pending = s.pending ∧
          t.sysreset = false ∧ t.time.now = 0 ∧ t.play.state = .idle ∧ (∀ j, t.driveState j = .off) ∧
          (∀ o, t.linkState o = .down) ∧
          ∀ j, (t.channels.get j).commissioning =
            if (g.limits.get j).isNone then .unset
            else if ∃ l, lensAxis l = j ∧ (g.maps.get l).map = none then .limited else .ready)

end Statements
end

