-- ==== Sys2Proof/Laws/Layouts.lean ====
section
/-! SUPPORT. Fields of layouts: their lengths, what a slice of joined fields holds, and the number a field carries. -/

namespace Sys2Proof.Machine

/-- A field of `n` bytes has `n` bytes. -/
@[simp] theorem beBytes_length (n v : Nat) : (beBytes n v).length = n := by
  induction n with
  | zero => rfl
  | succ n ih => simp [beBytes, ih]

@[simp] theorem beInt_length (n : Nat) (v : Int) : (beInt n v).length = n := by simp [beInt]

@[simp] theorem ones_length (n : Nat) : (ones n).length = n := by simp [ones]

@[simp] theorem optBytes_length (n : Nat) (v : Option Nat) : (optBytes n v).length = n := by cases v <;> simp [optBytes]

@[simp] theorem byte_length (v : Nat) : (byte v).length = 1 := by simp [byte]

@[simp] theorem flagByte_length (b : Bool) : (flagByte b).length = 1 := by simp [flagByte]

/-- A byte is a field of one byte. -/
theorem byte_eq (v : Nat) : byte v = beBytes 1 v := by simp [byte, beBytes]

/-- A slice past the first of two joined layouts is one of the second. -/
theorem slice_right {a b : List Byte} {i n : Nat} (h : a.length ≤ i) : slice (a ++ b) i n = slice b (i - a.length) n := by
  unfold slice
  rw [List.drop_append]
  have : List.drop i a = [] := List.drop_eq_nil_of_le h
  rw [this, List.nil_append]

/-- A slice inside the first of two joined layouts is one of the first. -/
theorem slice_left {a b : List Byte} {i n : Nat} (h : i + n ≤ a.length) : slice (a ++ b) i n = slice a i n := by
  unfold slice
  rw [List.drop_append, List.take_append_of_le_length]
  simp; omega

/-- A layout is the slice of all of it. -/
theorem slice_all {a : List Byte} {n : Nat} (h : a.length = n) : slice a 0 n = a := by
  simp [slice, ← h]

/-- A slice inside the second of three joined layouts is one of the second. -/
theorem slice_at {a b c : List Byte} {k i n : Nat} (ha : a.length = k) (h : i + n ≤ b.length) :
    slice (a ++ (b ++ c)) (k + i) n = slice b i n := by
  rw [slice_right (by omega), ha, Nat.add_sub_cancel_left, slice_left h]

/-- A slice that ends before a cut is not changed by it. -/
theorem slice_take {bs : List Byte} {k i n : Nat} (h : i + n ≤ k) : slice (bs.take k) i n = slice bs i n := by
  unfold slice
  rw [List.drop_take, List.take_take, Nat.min_eq_left (by omega)]

/-- A slice of a slice. -/
theorem slice_slice {bs : List Byte} {i m a n : Nat} (h : a + n ≤ m) : slice (slice bs i m) a n = slice bs (i + a) n := by
  unfold slice
  rw [List.drop_take, List.take_take, List.drop_drop, Nat.min_eq_left (by omega)]

/-- A row of pieces of one length. -/
theorem flatMap_length {α : Type} {l : List α} {f : α → List Byte} {L : Nat} (hf : ∀ x, (f x).length = L) :
    (l.flatMap f).length = L * l.length := by
  induction l with
  | nil => simp
  | cons y l ih => rw [List.flatMap_cons, List.length_append, ih, hf, List.length_cons, Nat.mul_succ]; omega

/-- A slice of a row of pieces of one length is one of the piece it lies in. -/
theorem slice_flatMap {α : Type} {l : List α} {f : α → List Byte} {L : Nat} (hf : ∀ x, (f x).length = L) {i : Nat} {x : α}
    (h : l[i]? = some x) {a n : Nat} (ha : a + n ≤ L) : slice (l.flatMap f) (L * i + a) n = slice (f x) a n := by
  induction l generalizing i with
  | nil => simp at h
  | cons y l ih =>
    rw [List.flatMap_cons]
    cases i with
    | zero =>
      simp at h; subst h
      rw [Nat.mul_zero, Nat.zero_add, slice_left (by rw [hf]; exact ha)]
    | succ i =>
      have e : L * (i + 1) + a - (f y).length = L * i + a := by rw [hf, Nat.mul_succ]; omega
      rw [slice_right (by rw [hf, Nat.mul_succ]; omega), e]
      exact ih (by simpa using h)

/-- The byte of a slice of one byte. -/
theorem byteAt_slice {bs : List Byte} {i : Nat} {b : Byte} (h : slice bs i 1 = [b]) : byteAt bs i = b := by
  unfold slice at h
  unfold byteAt
  have : (bs.drop i)[0]? = some b := by
    have h2 := congrArg (fun l => l[0]?) h
    simpa [List.getElem?_take] using h2
  simp at this
  simp [List.getD, this]

/-- The number a byte carries. -/
theorem beNat_byte (v : Nat) : beNat (byte v) = v % 256 := by simp [beNat, byte]

theorem beNat_foldl (bs : List Byte) (x : Nat) : bs.foldl (fun acc b => acc * 256 + b.toNat)
    x = x * 256 ^ bs.length + beNat bs := by
  unfold beNat
  induction bs generalizing x with
  | nil => simp
  | cons b bs ih =>
    rw [List.foldl_cons, ih, List.foldl_cons, ih (0 * 256 + _)]
    simp [pow_succ]; ring

/-- A field of `n` bytes carries its number modulo 256ⁿ. -/
theorem beNat_beBytes (n v : Nat) : beNat (beBytes n v) = v % 256 ^ n := by
  induction n generalizing v with
  | zero => simp [beBytes, beNat, Nat.mod_one]
  | succ n ih =>
    have : beNat (beBytes (n+1) v) = (BitVec.ofNat 8 (v / 256 ^ n)).toNat * 256 ^ n + beNat (beBytes n v) := by
      show List.foldl _ _ (_ :: _) = _
      rw [List.foldl_cons, beNat_foldl]; simp
    rw [this, ih]
    simp only [BitVec.toNat_ofNat]
    rw [show 256 ^ (n + 1) = 256 ^ n * 256 from pow_succ _ _, Nat.mod_mul (x := v) (a := 256 ^ n) (b := 256)]
    rw [show (2 : Nat) ^ 8 = 256 from rfl]
    ring

/-- The number a byte of a layout carries. -/
theorem natAt_byte {p : List Byte} {i v : Nat} (h : slice p i 1 = byte v) (hv : v < 256) : natAt p i 1 = v := by
  rw [natAt, h, beNat_byte, Nat.mod_eq_of_lt hv]

/-- The number a field of a layout carries, where it fits. -/
theorem natAt_be {p : List Byte} {i n v : Nat} (h : slice p i n = beBytes n v) (hv : v < 256 ^ n) : natAt p i n = v := by
  rw [natAt, h, beNat_beBytes, Nat.mod_eq_of_lt hv]

theorem flag_toNat_lt (b : Bool) : b.toNat < 256 := by cases b <;> decide

/-- The number a flag byte of a layout carries. -/
theorem natAt_flag {p : List Byte} {i : Nat} {b : Bool} (h : slice p i 1 = flagByte b) : natAt p i 1 = b.toNat :=
  natAt_byte h (flag_toNat_lt b)

/-- A signed field carries its number, where it fits. -/
theorem beSigned_beInt {n : Nat} {v : Int} (h1 : -(256 ^ n : Nat) ≤ 2 * v) (h2 : 2 * v < (256 ^ n : Nat)) :
    beSigned (beInt n v) = v := by
  have hp : (0 : Int) < (256 ^ n : Nat) := by positivity
  unfold beSigned
  rw [beInt_length, beInt, beNat_beBytes]
  have e0 := Int.emod_nonneg v hp.ne'
  have e1 := Int.emod_lt_of_pos v hp
  have e2 : (v % (256 ^ n : Nat)).toNat < 256 ^ n := by omega
  rw [Nat.mod_eq_of_lt e2]
  by_cases hv : 0 ≤ v
  · rw [Int.emod_eq_of_lt hv (by omega)] at *
    rw [if_pos (by omega)]; omega
  · have : v % (256 ^ n : Nat) = v + (256 ^ n : Nat) := by
      rw [← Int.add_emod_right, Int.emod_eq_of_lt (by omega) (by omega)]
    rw [this] at *
    rw [if_neg (by omega)]; omega

/-- A flag field begins with its bit 0. -/
theorem bitsOf_cons (b : Bool) (bs : List Bool) : bitsOf (b :: bs) = b.toNat + 2 * bitsOf bs := by
  have shift : ∀ (l : List Bool) (k : Nat), (((l.zipIdx (k + 1)).map fun x => if x.1 then 2 ^ x.2 else 0).sum) =
      2 * ((l.zipIdx k).map fun x => if x.1 then 2 ^ x.2 else 0).sum := by
    intro l
    induction l with
    | nil => simp
    | cons c l ih =>
      intro k
      simp only [List.zipIdx_cons, List.map_cons, List.sum_cons, ih (k + 1)]
      split <;> ring
  unfold bitsOf
  simp only [List.zipIdx_cons, List.map_cons, List.sum_cons, shift]
  cases b <;> simp

/-- A flag field of `n` bits is below 2ⁿ. -/
theorem bitsOf_lt (bs : List Bool) : bitsOf bs < 2 ^ bs.length := by
  induction bs with
  | nil => decide
  | cons b bs ih => rw [bitsOf_cons, List.length_cons, pow_succ]; cases b <;> simp <;> omega

/-- Bit `i` of a flag field. -/
theorem testBit_bitsOf (bs : List Bool) (i : Nat) : (bitsOf bs).testBit i = bs.getD i false := by
  induction bs generalizing i with
  | nil => simp [bitsOf]
  | cons b bs ih =>
    rw [bitsOf_cons]
    cases i with
    | zero => cases b <;> simp [Nat.testBit_zero]
    | succ i =>
      rw [Nat.testBit_succ, List.getD_cons_succ, ← ih]
      congr 1; cases b
      · simp
      · simp; omega

/-- A flag field of three bits. -/
theorem bitsOf_three (a b c : Bool) : bitsOf [a, b, c] = a.toNat + 2 * b.toNat + 4 * c.toNat ∧ bitsOf [a, b, c] < 256 := by
  cases a <;> cases b <;> cases c <;> decide

/-- Fields of two bits side by side: the whole fits, and each is read back. -/
theorem digits_finRange (n : Nat) (f : Fin n → Nat) (hf : ∀ i, f i < 4) :
    ((List.finRange n).map fun i => f i * 4 ^ i.val).sum < 4 ^ n ∧
      ∀ i : Fin n, ((List.finRange n).map fun i => f i * 4 ^ i.val).sum / 4 ^ i.val % 4 = f i := by
  induction n with
  | zero => exact ⟨by simp, fun i => i.elim0⟩
  | succ n ih =>
    obtain ⟨h1, h2⟩ := ih (fun i => f i.succ) fun i => hf _
    have e : ((List.finRange (n + 1)).map fun i => f i * 4 ^ i.val).sum =
        f 0 + 4 * ((List.finRange n).map fun i => f i.succ * 4 ^ i.val).sum := by
      rw [List.finRange_succ, List.map_cons, List.sum_cons, List.map_map, ← List.sum_map_mul_left]
      congr 1
      · simp
      · congr 1; apply List.map_congr_left; intro i _; simp [pow_succ]; ring
    rw [e]
    have := hf 0
    refine ⟨by rw [pow_succ]; omega, fun i => ?_⟩
    refine Fin.cases ?_ (fun k => ?_) i
    · simp; omega
    · rw [← h2 k, Fin.val_succ, pow_succ, Nat.mul_comm (4 ^ k.val) 4, ← Nat.div_div_eq_div_mul]
      congr 2; omega

end Sys2Proof.Machine
end

