-- ==== Sys2Proof/Laws/Tables.lean ====
section
/-! SUPPORT. The laws of tables: what an entry is after a table is built or changed. -/

namespace Sys2Proof.Tab

variable {n : Nat} {α β : Type}

@[simp] theorem get_ofFn (f : Fin n → α) (i : Fin n) : (ofFn f).get i = f i := by simp [ofFn, get]

@[simp] theorem get_imap (f : Fin n → α → β) (t : Tab n α) (i : Fin n) : (t.imap f).get i = f i (t.get i) := by
  simp [imap]

@[simp] theorem get_map (f : α → β) (t : Tab n α) (i : Fin n) : (t.map f).get i = f (t.get i) := by simp [map, get]

@[simp] theorem get_const (a : α) (i : Fin n) : (const n a).get i = a := by simp [const, get]

theorem get_set (t : Tab n α) (i j : Fin n) (a : α) : (t.set i a).get j = if j = i then a else t.get j := by
  simp only [set, get, List.getElem_set]
  by_cases h : j = i
  · subst h; simp
  · have : i.val ≠ j.val := fun e => h (Fin.ext e.symm)
    simp [this, h]

@[simp] theorem get_set_same (t : Tab n α) (i : Fin n) (a : α) : (t.set i a).get i = a := by simp [get_set]

theorem get_set_other (t : Tab n α) {i j : Fin n} (a : α) (h : j ≠ i) : (t.set i a).get j = t.get j := by
  simp [get_set, h]

theorem get_modify (t : Tab n α) (i j : Fin n) (f : α → α) :
    (t.modify i f).get j = if j = i then f (t.get i) else t.get j := by simp [modify, get_set]

@[simp] theorem get_modify_same (t : Tab n α) (i : Fin n) (f : α → α) : (t.modify i f).get i = f (t.get i) := by
  simp [get_modify]

theorem get_modify_other (t : Tab n α) {i j : Fin n} (f : α → α) (h : j ≠ i) : (t.modify i f).get j = t.get j := by
  simp [get_modify, h]

/-- Two tables with equal entries are equal. -/
theorem ext_get {t u : Tab n α} (h : ∀ i, t.get i = u.get i) : t = u := by
  obtain ⟨l, hl⟩ := t
  obtain ⟨m, hm⟩ := u
  have : l = m := by
    apply List.ext_getElem (by omega)
    intro k hk _
    simpa [get] using h ⟨k, by omega⟩
  subst this
  rfl

@[simp] theorem set_get_self (t : Tab n α) (i : Fin n) : t.set i (t.get i) = t :=
  ext_get fun j => by by_cases h : j = i <;> simp [get_set, h]

@[simp] theorem modify_modify (t : Tab n α) (i : Fin n) (f g : α → α) :
    (t.modify i f).modify i g = t.modify i (fun a => g (f a)) :=
  ext_get fun j => by by_cases h : j = i <;> simp [get_modify, h]

end Sys2Proof.Tab
end

