-- ==== Sys2Proof/Laws/Archive.lean ====
section
/-! SUPPORT. The header and the samples of an archive image, read back. -/

namespace Sys2Proof.Machine

/-- The rank of a member of a rising list is its place. -/
theorem sorted_rank (l : List Axis) (hs : l.Pairwise (fun x y => x.val < y.val)) (j : Axis) (h : j ∈ l) :
    l[(l.filter fun i => decide (i.val < j.val)).length]? = some j := by
  induction l with
  | nil => simp at h
  | cons y l ih =>
    rw [List.pairwise_cons] at hs
    rcases List.mem_cons.1 h with rfl | h
    · have : l.filter (fun i => decide (i.val < j.val)) = [] := by
        rw [List.filter_eq_nil_iff]; intro x hx; have := hs.1 x hx; simp; omega
      rw [List.filter_cons, if_neg (by simp), this]; rfl
    · have := hs.1 j h
      rw [List.filter_cons, if_pos (by simpa using this), List.length_cons, List.getElem?_cons_succ]
      exact ih hs.2 h

/-- The axes of a set rise. -/
theorem axesOf_sorted (a : AxisSet) : (axesOf a).Pairwise (fun x y => x.val < y.val) :=
  List.Pairwise.filter _ (by decide)

/-- The axes of a set are those whose bit is set. -/
theorem mem_axesOf {a : AxisSet} {j : Axis} : j ∈ axesOf a ↔ a.getLsbD j.val = true := by
  unfold axesOf
  rw [List.mem_filter]
  exact ⟨fun h => h.2, fun h => ⟨(by decide : ∀ j : Axis, j ∈ allAxes) j, h⟩⟩

/-- The values of a sample are read back from its bytes, where they fit. -/
theorem sample_back (a : AxisSet) (v : Axis → Int) (hv : ∀ j : Axis, a.getLsbD j.val = true → -549755813888 ≤ v j ∧
  v j < 549755813888)
    (j : Axis) (hj : a.getLsbD j.val = true) : (sampleOf a ((axesOf a).flatMap fun j => beInt 5 (v j))).get j = v j := by
  unfold sampleOf
  rw [Tab.get_ofFn, if_pos hj]
  have := slice_flatMap (f := fun j => beInt 5 (v j)) (fun _ => beInt_length 5 _)
    (sorted_rank _ (axesOf_sorted a) j (mem_axesOf.2 hj)) (a := 0) (n := 5) (by decide)
  rw [Nat.add_zero] at this
  unfold rankIn
  rw [this, slice_all (beInt_length 5 _)]
  have := hv j hj
  exact beSigned_beInt (by norm_num; omega) (by norm_num; omega)

theorem originBytes_length (o : Origin) : (originBytes o).length = 6 := by cases o <;> simp [originBytes]

theorem lensGenBytes_length (o) : (lensGenBytes o).length = 3 := by
  unfold lensGenBytes; split <;> simp

theorem envelopeBytes_length (e) : (envelopeBytes e).length = 20 := by simp [envelopeBytes]

/-- The first value of an axis in a header. -/
def firstPart (k : Take) (d : TakeData) (j : Axis) : List Byte :=
  if k.axes.getLsbD j.val then beInt 5 (d.first.get j) else List.replicate 5 0

/-- The envelope of an axis in a header. -/
def envPart (k : Take) (d : TakeData) (j : Axis) : List Byte :=
  if k.axes.getLsbD j.val then envelopeBytes (d.envelope.get j) else List.replicate 20 0

theorem firstPart_length (k d j) : (firstPart k d j).length = 5 := by unfold firstPart; split <;> simp

theorem envPart_length (k d j) : (envPart k d j).length = 20 := by unfold envPart; split <;> simp [envelopeBytes_length]

/-- A header field by field. -/
theorem header_eq (k : Take) (d : TakeData) (reason : CloseReason) (h : k.data = some d) : headerBytes k reason =
    [0xA5, 0x41, 0x72, 0x10] ++ (k.label.list ++ (beBytes 2 k.axes.toNat ++ (beBytes 1 k.divisor ++ (beBytes 4 k.count ++
    (flagByte k.isProtected ++ (byte reason.code ++ (originBytes k.origin ++ (beBytes 5 d.recordedAt.toNat ++
    ((allLenses.flatMap fun l => lensGenBytes (d.lens.get l)) ++ (allAxes.flatMap (firstPart k d) ++
    (allAxes.flatMap (envPart k d) ++ List.replicate 221 0))))))))))) := by
  unfold headerBytes
  rw [h]
  simp only [Option.getD_some, List.append_assoc, axisSetBytes, byte_eq]
  rfl

theorem axes_at (j : Axis) : allAxes[j.val]? = some j := by revert j; decide

theorem lens_at (j : Lens) : allLenses[j.val]? = some j := by revert j; decide

/-- The header of a take whose values fit is 512 bytes, valid, and read back as its fields (R163, R164). -/
theorem header_back (k : Take) (d : TakeData) (reason : CloseReason) (hk : k.fits d) (bs : List Byte)
    (hb : bs = headerBytes k reason) : ∃ h, headerOf bs = h ∧ bs.length = 512 ∧ headerValid bs = true ∧
      (h.label = k.label ∧ h.axes = k.axes ∧ h.divisor = k.divisor ∧ h.count = k.count ∧ h.isProtected = k.isProtected ∧
        h.origin = k.origin ∧ h.data.recordedAt = d.recordedAt) ∧
      [CloseReason.stopped, .interrupted, .full, .loaded][natAt bs 20 1]? = some reason ∧
      (∀ l : Lens, k.axes.getLsbD (lensAxis l).val = true → h.data.lens.get l = d.lens.get l) ∧
      ∀ j : Axis, k.axes.getLsbD j.val = true →
        h.data.first.get j = d.first.get j ∧ h.data.envelope.get j = d.envelope.get j := by
  obtain ⟨hd, h0, hdiv, hc, hcap, ho, hl, hf⟩ := hk
  rw [header_eq k d reason hd] at hb
  obtain ⟨M, hM⟩ : ∃ M : List Byte, M = [0xA5, 0x41, 0x72, 0x10] := ⟨_, rfl⟩
  obtain ⟨Z, hZ⟩ : ∃ Z : List Byte, Z = List.replicate 221 0 := ⟨_, rfl⟩
  have lM : M.length = 4 := by rw [hM]; rfl
  have lZ : Z.length = 221 := by rw [hZ]; exact List.length_replicate
  rw [← hM, ← hZ] at hb
  have hx := k.axes.isLt
  have hr := d.recordedAt.isLt
  have ll := k.label.len
  have l1 : (allLenses.flatMap fun l => lensGenBytes (d.lens.get l)).length = 9 := by
    rw [flatMap_length (fun _ => lensGenBytes_length _)]; rfl
  have l2 : (allAxes.flatMap (firstPart k d)).length = 50 := by
    rw [flatMap_length (firstPart_length k d)]; rfl
  have l3 : (allAxes.flatMap (envPart k d)).length = 200 := by
    rw [flatMap_length (envPart_length k d)]; rfl
  have lo := originBytes_length k.origin
  have hlen : bs.length = 512 := by rw [hb]; simp [lM, lZ, ll, lo, l1, l2, l3]
  have s0 : slice bs 0 4 = [0xA5, 0x41, 0x72, 0x10] := by rw [hb, slice_left (by simp [lM]), slice_all lM, hM]
  have s4 : slice bs 4 8 = k.label.list := by rw [hb]; simp [slice_left, slice_right, slice_all, lM, ll]
  have s12 : natAt bs 12 2 = k.axes.toNat := natAt_be (by rw [hb]; simp [slice_left, slice_right, slice_all, lM, ll])
    (by norm_num; omega)
  have hdv : k.divisor < 256 := by simp at hdiv; omega
  have s14 : natAt bs 14 1 = k.divisor := natAt_be (by rw [hb]; simp [slice_left, slice_right, slice_all, lM, ll])
    (by simpa using hdv)
  have hcv : k.count < 4294967296 := by
    refine lt_of_le_of_lt hcap ?_
    have : perBlock (setSize k.axes) ≤ 1024 := Nat.div_le_self _ _
    unfold storeCapacity; omega
  have s15 : natAt bs 15 4 = k.count := natAt_be (by rw [hb]; simp [slice_left, slice_right, slice_all, lM, ll])
    (by simpa using hcv)
  have s19 : slice bs 19 1 = flagByte k.isProtected := by rw [hb]; simp [slice_left, slice_right, slice_all, lM, ll]
  have s20 : natAt bs 20 1 = reason.code := natAt_byte (by rw [hb]; simp [slice_left, slice_right, slice_all, lM, ll])
    (by cases reason <;> decide)
  have s21 : slice bs 21 6 = originBytes k.origin := by rw [hb]; simp [slice_left, slice_right, slice_all, lM, ll, lo]
  have s27 : natAt bs 27 5 = d.recordedAt.toNat := natAt_be (by rw [hb]; simp [slice_left, slice_right, slice_all, lM, ll,
    lo]) (by norm_num; omega)
  obtain ⟨P, hP⟩ : ∃ P, P = M ++ (k.label.list ++ (beBytes 2 k.axes.toNat ++ (beBytes 1 k.divisor ++ (beBytes 4 k.count ++
      (flagByte k.isProtected ++ (byte reason.code ++ (originBytes k.origin ++ beBytes 5 d.recordedAt.toNat))))))) := ⟨_, rfl⟩
  have lP : P.length = 32 := by rw [hP]; simp [lM, ll, lo]
  have parts : bs = P ++ ((allLenses.flatMap fun l => lensGenBytes (d.lens.get l)) ++
      (allAxes.flatMap (firstPart k d) ++ (allAxes.flatMap (envPart k d) ++ Z))) := by
    rw [hb, hP]; simp only [List.append_assoc]
  have s32 : ∀ l : Lens, slice bs (32 + 3 * l.val) 3 = lensGenBytes (d.lens.get l) := by
    intro l
    have := l.isLt
    rw [parts, slice_at lP (by omega), ← Nat.add_zero (3 * l.val),
      slice_flatMap (fun _ => lensGenBytes_length _) (lens_at l) (by decide), slice_all (lensGenBytes_length _)]
  have s41 : ∀ j : Axis, slice bs (41 + 5 * j.val) 5 = firstPart k d j := by
    intro j
    have := j.isLt
    rw [parts, ← List.append_assoc, slice_at (k := 41) (by rw [List.length_append, lP, l1]) (by omega),
      ← Nat.add_zero (5 * j.val), slice_flatMap (firstPart_length k d) (axes_at j) (by decide),
      slice_all (firstPart_length k d _)]
  have s91 : ∀ (j : Axis) (a : Nat), a ≤ 15 → slice bs (91 + 20 * j.val + a) 5 = slice (envPart k d j) a 5 := by
    intro j a ha
    have := j.isLt
    rw [parts, ← List.append_assoc, ← List.append_assoc, Nat.add_assoc,
      slice_at (k := 91) (by rw [List.length_append, List.length_append, lP, l1, l2]) (by omega),
      slice_flatMap (envPart_length k d) (axes_at j) (by omega)]
  have hax : BitVec.ofNat 10 (natAt bs 12 2) = k.axes := by rw [s12]; simp
  have b4 : ∀ i, i < 8 → byteAt bs (4 + i) = k.label.list.getD i 0 := by
    intro i hi
    rw [← s4]
    unfold byteAt slice
    simp [List.getElem?_take, hi]
  refine ⟨_, rfl, hlen, ?_, ⟨?_, hax, s14, s15, ?_, ?_, ?_⟩, ?_, ?_, ?_⟩
  · have : k.axes.toNat ≠ 0 := fun h => h0 (BitVec.eq_of_toNat_eq (by simpa using h))
    have hrc : reason.code ≤ 3 := by cases reason <;> decide
    simp only [headerValid, s0, s12, s14, s15, s20, hdiv, hc, hcap, hrc, this, hx]
    simp
    omega
  · have e : ∀ (L : List Byte), L.length = 8 → [L.getD 0 0, L.getD 1 0, L.getD 2 0, L.getD 3 0, L.getD 4 0, L.getD 5 0,
      L.getD 6 0, L.getD 7 0] = L := by
      intro L hL
      match L, hL with
      | [a, b, c, d, e, f, g, h], _ => rfl
    have e' := e _ ll
    rw [← b4 0 (by decide), ← b4 1 (by decide), ← b4 2 (by decide), ← b4 3 (by decide), ← b4 4 (by decide), ← b4 5
      (by decide), ← b4 6 (by decide), ← b4 7 (by decide)] at e'
    cases hh : k.label with
    | mk L hL =>
      rw [hh] at e'
      simp only [headerOf]
      congr 1
  · show protectAt (byteAt bs 19) = _
    rw [byteAt_slice s19]
    cases k.isProtected <;> rfl
  · show originAt bs = _
    have q1 : slice bs 21 1 = slice (originBytes k.origin) 0 1 := by rw [← s21, slice_slice (by decide)]
    have q2 : slice bs 22 1 = slice (originBytes k.origin) 1 1 := by rw [← s21, slice_slice (by decide)]
    have q3 : slice bs 23 4 = slice (originBytes k.origin) 2 4 := by rw [← s21, slice_slice (by decide)]
    unfold originAt
    cases h : k.origin with
    | manual =>
      rw [h] at q1
      rw [byteAt_slice (b := 0) (by rw [q1]; rfl)]; rfl
    | layer sl e =>
      rw [h] at q1 q2 q3
      rw [byteAt_slice (i := 21) (b := 1) (by rw [q1]; rfl), byteAt_slice (i := 22) (b := sl) (by rw [q2]; rfl), natAt, q3]
      have : slice (originBytes (.layer sl e)) 2 4 = beBytes 4 e := by
        rw [originBytes, slice_right (by simp [byte])]
        exact slice_all (beBytes_length 4 e)
      rw [this, beNat_beBytes, Nat.mod_eq_of_lt (by simpa using ho sl e h)]; rfl
  · show BitVec.ofNat 40 (natAt bs 27 5) = _
    rw [s27]; simp
  · rw [s20]; cases reason <;> rfl
  · intro l hl'
    show (Tab.ofFn _).get l = _
    rw [Tab.get_ofFn, hax, if_pos hl']
    have q1 : slice bs (32 + 3 * l.val) 1 = slice (lensGenBytes (d.lens.get l)) 0 1 := by rw [← s32, slice_slice
      (by decide), Nat.add_zero]
    have q2 : slice bs (32 + 3 * l.val + 1) 2 = slice (lensGenBytes (d.lens.get l)) 1 2 := by rw [← s32, slice_slice
      (by decide)]
    unfold lensGenAt
    cases h : d.lens.get l with
    | none => rw [h] at q1; rw [byteAt_slice (b := 2) (by rw [q1]; rfl)]; rfl
    | some g =>
      cases g with
      | mixed => rw [h] at q1; rw [byteAt_slice (b := 1) (by rw [q1]; rfl)]; rfl
      | value v =>
        rw [h] at q1 q2
        rw [byteAt_slice (b := 0) (by rw [q1]; rfl), natAt, q2]
        have : slice (lensGenBytes (some (.value v))) 1 2 = beBytes 2 v := by simp [lensGenBytes, slice_right, slice_all]
        rw [this, beNat_beBytes, Nat.mod_eq_of_lt (by simpa using hl l v h)]; rfl
  · intro j hj
    obtain ⟨f1, f2, f3, f4, f5⟩ := hf j hj
    refine ⟨?_, ?_⟩
    · show (Tab.ofFn _).get j = _
      rw [Tab.get_ofFn, s41, firstPart, if_pos hj]
      exact beSigned_beInt (by norm_num; omega) (by norm_num; omega)
    · show (Tab.ofFn _).get j = _
      have e : envPart k d j = envelopeBytes (d.envelope.get j) := by rw [envPart, if_pos hj]
      rw [Tab.get_ofFn, envelopeAt, natAt, natAt, show 91 + 20 * j.val = 91 + 20 * j.val + 0 from rfl, s91 j 0
        (by decide), s91 j 5 (by decide), s91 j 10 (by decide), s91 j 15 (by decide), e]
      simp only [envelopeBytes, List.append_assoc]
      have a0 := beSigned_beInt (n := 5) (v := (d.envelope.get j).minimum) (by norm_num; omega) (by norm_num; omega)
      have a1 := beSigned_beInt (n := 5) (v := (d.envelope.get j).maximum) (by norm_num; omega) (by norm_num; omega)
      simp [slice_left, slice_right, slice_all, a0, a1, beNat_beBytes]
      cases hE : d.envelope.get j
      simp [hE] at f4 f5 ⊢
      omega

end Sys2Proof.Machine
end

