-- ==== Sys2Proof/Laws/Images.lean ====
section
/-! SUPPORT. The end record of a configuration image, and reading a layout from a place on. -/

namespace Sys2Proof.Machine

/-- An end record is eight bytes. -/
theorem endRecord_length (body : List Byte) : (endRecord body).length = 8 := by simp [endRecord, beBytes]

/-- An end record begins with the end marker. -/
theorem endRecord_marker (body : List Byte) : (endRecord body).take 4 = [0x5A, 0xE0, 0x0D, 0x01] := by simp [endRecord]

/-- A body and its end record, taken apart. -/
theorem endRecord_parts (body : List Byte) {n : Nat} (h : body.length = n) :
    ((body ++ endRecord body).drop 0).take n = body ∧
      ((body ++ endRecord body).drop n).take 4 = [0x5A, 0xE0, 0x0D, 0x01] ∧
      ((body ++ endRecord body).drop n).take 8 = endRecord body := by
  rw [List.drop_zero, List.take_left' h, List.drop_left' h]
  exact ⟨rfl, endRecord_marker body, List.take_of_length_le (by rw [endRecord_length])⟩

/-- An image built from a body of its full length carries an end record that matches (R201). -/
theorem endMatches_configBytes (c : ConfigImage) (h : (configBody c).length = 1955) : endMatches (configBytes c) = true := by
  have e := endRecord_length (configBody c)
  have e1 : slice (configBytes c) 1955 8 = endRecord (configBody c) := by
    unfold slice configBytes
    rw [List.drop_left' h, List.take_of_length_le (by rw [e])]
  have e2 : slice (configBytes c) 0 1955 = configBody c := by
    unfold slice configBytes
    rw [List.drop_zero, List.take_left' h]
  have l : (configBytes c).length = configLength := by
    unfold configBytes configLength
    rw [List.length_append, h, e]
  unfold endMatches
  rw [e1, e2, l]
  simp

/-- A slice further on is a slice of what is left. -/
theorem slice_drop (bs : List Byte) (k i n : Nat) : slice bs (k + i) n = slice (bs.drop k) i n := by
  unfold slice
  rw [List.drop_drop]

/-- A number further on is a number of what is left. -/
theorem natAt_drop (bs : List Byte) (k i n : Nat) : natAt bs (k + i) n = natAt (bs.drop k) i n := by
  unfold natAt
  rw [slice_drop]

/-- A byte further on is a byte of what is left. -/
theorem byteAt_drop (bs : List Byte) (k i : Nat) : byteAt bs (k + i) = byteAt (bs.drop k) i := by
  simp only [byteAt, List.getD_eq_getElem?_getD, List.getElem?_drop]

/-- A zone entry is read from its place on (section 11.2). -/
theorem zoneAt_drop (bs : List Byte) (t : ZoneTable) (k : Nat) : zoneAt bs t k = zoneAt (bs.drop k) t 0 := by
  have range : ∀ i, rangeAt bs (k + i) = rangeAt (bs.drop k) i := by
    intro i
    simp only [rangeAt, Nat.add_assoc, byteAt_drop, slice_drop]
  have here : byteAt bs k = byteAt (bs.drop k) 0 := byteAt_drop bs k 0
  simp only [zoneAt, Nat.add_assoc, Nat.zero_add, range, natAt_drop, byteAt_drop, here]

end Sys2Proof.Machine
end

