-- ==== Sys2Proof/Laws/LinkTest.lean ====
section
/-! SUPPORT. The words of the link test continue its bit sequence (R198). -/

namespace Sys2Proof.Machine

/-- Bit `k` of the sequence that runs through 15 bits and the `n` bits after them, counted back from the latest. -/
def sequenceBit (r : BitVec 15) (n k : Nat) : Bool := if k < n then (testNext r n).getLsbD k else r.getLsbD (k - n)

theorem testBit_bit (r : BitVec 15) (k : Nat) :
    (testBit r).getLsbD k = (decide (k = 0) && (r.getLsbD 13 ^^ r.getLsbD 14)) := by
  unfold testBit
  rw [BitVec.getLsbD_ofBool]

theorem testShift_zero (r : BitVec 15) : (testShift r).getLsbD 0 = (r.getLsbD 13 ^^ r.getLsbD 14) := by
  unfold testShift
  rw [BitVec.getLsbD_setWidth, BitVec.getLsbD_append, if_pos (by omega), testBit_bit]
  simp

theorem testShift_succ (r : BitVec 15) (k : Nat) (h : k < 14) : (testShift r).getLsbD (k + 1) = r.getLsbD k := by
  unfold testShift
  rw [BitVec.getLsbD_setWidth, BitVec.getLsbD_append, if_neg (by omega), Nat.add_sub_cancel, decide_eq_true (by omega),
    Bool.true_and]

theorem testNext_above (r : BitVec 15) (n k : Nat) (h : n ≤ k) : (testNext r n).getLsbD k = false := by
  induction n generalizing r with
  | zero => simp [testNext]
  | succ n ih =>
    have : k - n ≠ 0 := by omega
    simp [testNext, testBit, BitVec.getLsbD_ofBool, ih _ (by omega), this]

/-- The bits of one more step: the new bit above those that follow it. -/
theorem testNext_succ (r : BitVec 15) (n k : Nat) (h : n < 16) : (testNext r (n + 1)).getLsbD k =
    ((decide (k = n) && (r.getLsbD 13 ^^ r.getLsbD 14)) || (testNext (testShift r) n).getLsbD k) := by
  rw [testNext, BitVec.getLsbD_or, BitVec.getLsbD_shiftLeft, BitVec.getLsbD_setWidth, testBit_bit]
  congr 1
  rcases Nat.lt_trichotomy k n with g | rfl | g
  · simp [g, Nat.ne_of_lt g]
  · simp [h]
  · have : k - n ≠ 0 := by omega
    simp [this, Nat.ne_of_gt g]

theorem sequenceBit_succ (r : BitVec 15) (n k : Nat) (hn : n < 16) (hk : k < n + 15) :
    sequenceBit r (n + 1) k = sequenceBit (testShift r) n k := by
  unfold sequenceBit
  rcases Nat.lt_trichotomy k n with h | rfl | h
  · rw [if_pos (by omega), if_pos h, testNext_succ r n k hn, decide_eq_false (by omega)]; rfl
  · rw [if_pos (by omega), if_neg (by omega), testNext_succ r k k hn, testNext_above _ _ _ (Nat.le_refl _), Nat.sub_self,
      testShift_zero]
    simp
  · obtain ⟨d, rfl⟩ : ∃ d, k = n + 1 + d := ⟨k - (n + 1), by omega⟩
    rw [if_neg (by omega), if_neg (by omega), show n + 1 + d - n = d + 1 by omega, testShift_succ r d (by omega)]
    congr 1; omega

/-- Each bit after the first 15 is the exclusive-or of the bits 14 and 15 places before it. -/
theorem sequenceBit_eq (r : BitVec 15) (n i : Nat) (hn : n ≤ 16) (hi : i < n) :
    sequenceBit r n i = (sequenceBit r n (i + 14) ^^ sequenceBit r n (i + 15)) := by
  induction n generalizing r with
  | zero => omega
  | succ n ih =>
    rcases Nat.lt_or_ge i n with h | h
    · rw [sequenceBit_succ r n i (by omega) (by omega), sequenceBit_succ r n (i + 14) (by omega) (by omega),
        sequenceBit_succ r n (i + 15) (by omega) (by omega)]
      exact ih _ (by omega) h
    · obtain rfl : i = n := by omega
      unfold sequenceBit
      rw [if_pos (by omega), if_neg (by omega), if_neg (by omega), testNext_succ r i i (by omega),
        testNext_above _ _ _ (Nat.le_refl _), show i + 14 - (i + 1) = 13 by omega, show i + 15 - (i + 1) = 14 by omega]
      simp

/-- The 32 bits of a word and the word that continues it, the latest in bit 0. -/
theorem predictWord_bit (w : BitVec 16) (k : Nat) (h : k < 31) :
    (w ++ predictWord w).getLsbD k = sequenceBit (w.setWidth 15) 16 k := by
  unfold sequenceBit predictWord
  rw [BitVec.getLsbD_append]
  split
  · rfl
  · rw [BitVec.getLsbD_setWidth, decide_eq_true (by omega), Bool.true_and]

end Sys2Proof.Machine
end

