-- ==== Sys2Proof/Laws/Memory.lean ====
section
/-! SUPPORT. The laws of addressed stores: what a read gives after a write, and that every operation keeps the canonical
form. -/

namespace Sys2Proof.Machine.Memory

variable {α : Type} [DecidableEq α] {d : α}

omit [DecidableEq α] in
theorem read_of_lt {m : List (Nat × α)} {a : Nat} (h : ∀ c ∈ m, a < c.1) : read d m a = d := by
  induction m with
  | nil => rfl
  | cons c rest ih =>
    have := h c (by simp)
    simp only [read]
    rw [if_neg (by omega)]
    exact ih fun x hx => h x (by simp [hx])

omit [DecidableEq α] in
/-- A canonical store's tail, and the head below every entry of it. -/
theorem wf_cons {c : Nat × α} {m : List (Nat × α)} :
    wf d (c :: m) ↔ (∀ x ∈ m, c.1 < x.1) ∧ c.2 ≠ d ∧ wf d m := by
  simp only [wf, List.pairwise_cons, List.forall_mem_cons]
  tauto

theorem write_mem {m : List (Nat × α)} {a : Nat} {v : α} {c : Nat × α} (h : c ∈ write d m a v) :
    c ∈ m ∨ c = (a, v) := by
  induction m with
  | nil =>
    simp only [write] at h
    split at h <;> simp_all
  | cons x rest ih =>
    simp only [write] at h
    split at h
    · split at h <;> simp_all
      tauto
    · split at h
      · split at h <;> simp_all
        tauto
      · rcases List.mem_cons.1 h with rfl | h
        · simp
        · rcases ih h with h | h <;> simp [h]

/-- A write keeps the canonical form. -/
theorem write_wf {m : List (Nat × α)} (a : Nat) (v : α) (h : wf d m) : wf d (write d m a v) := by
  induction m with
  | nil => simp only [write]; split <;> simp_all [wf]
  | cons x rest ih =>
    obtain ⟨h1, h2, h3⟩ := wf_cons.1 h
    simp only [write]
    split
    · split
      · exact h
      · refine wf_cons.2 ⟨?_, ‹_›, h⟩
        intro y hy
        rcases List.mem_cons.1 hy with rfl | hy
        · assumption
        · have := h1 y hy; simp only; omega
    · split
      · split
        · exact h3
        · refine wf_cons.2 ⟨fun y hy => ?_, ‹_›, h3⟩
          have := h1 y hy; simp only; omega
      · refine wf_cons.2 ⟨fun y hy => ?_, h2, ih h3⟩
        rcases write_mem hy with hy | rfl
        · exact h1 y hy
        · simp only; omega

omit [DecidableEq α] in
theorem read_cons (c : Nat × α) (m : List (Nat × α)) (b : Nat) :
    read d (c :: m) b = if c.1 = b then c.2 else read d m b := rfl

/-- A read after a write gives the value written at its address and the value before at every other. -/
theorem read_write {m : List (Nat × α)} (a b : Nat) (v : α) (h : wf d m) :
    read d (write d m a v) b = if b = a then v else read d m b := by
  induction m with
  | nil =>
    simp only [write]
    by_cases hv : v = d
    · simp [hv, read]
    · rw [if_neg hv, read_cons]
      by_cases hb : b = a
      · simp [hb]
      · simp [hb, Ne.symm hb]
  | cons x rest ih =>
    obtain ⟨h1, h2, h3⟩ := wf_cons.1 h
    have low : a ≤ x.1 → read d rest a = d := fun hle => read_of_lt fun c hc => by have := h1 c hc; omega
    simp only [write]
    by_cases hlt : a < x.1
    · rw [if_pos hlt]
      have hx : read d (x :: rest) a = d := by rw [read_cons, if_neg (by omega), low (by omega)]
      by_cases hv : v = d
      · rw [if_pos hv]
        by_cases hb : b = a
        · rw [if_pos hb, hb, hv]; exact hx
        · rw [if_neg hb]
      · rw [if_neg hv, read_cons]
        by_cases hb : b = a
        · simp [hb]
        · rw [if_neg (Ne.symm hb), if_neg hb]
    · rw [if_neg hlt]
      by_cases ha : a = x.1
      · rw [if_pos ha]
        by_cases hb : b = a
        · rw [if_pos hb]
          by_cases hv : v = d
          · rw [if_pos hv, hb, hv]; exact low (by omega)
          · rw [if_neg hv, read_cons, if_pos hb.symm]
        · have hx : ¬ x.1 = b := by omega
          rw [if_neg hb, read_cons x, if_neg hx]
          by_cases hv : v = d
          · rw [if_pos hv]
          · rw [if_neg hv, read_cons, if_neg (Ne.symm hb)]
      · rw [if_neg ha, read_cons, read_cons, ih h3]
        by_cases hb : b = a
        · rw [if_pos hb, if_neg (by omega)]
          simp [hb]
        · simp [hb]

omit [DecidableEq α] in
/-- Clearing addresses keeps the canonical form. -/
theorem clear_wf {m : List (Nat × α)} (a n : Nat) (h : wf d m) : wf d (clear m a n) :=
  ⟨h.1.filter _, fun c hc => h.2 c (List.mem_of_mem_filter hc)⟩

/-- Writing a run of values keeps the canonical form. -/
theorem writeMany_wf {m : List (Nat × α)} (a : Nat) (vs : List α) (h : wf d m) : wf d (writeMany d m a vs) := by
  induction vs generalizing m a with
  | nil => exact h
  | cons v rest ih => exact ih (a + 1) (write_wf a v h)

omit [DecidableEq α] in
/-- Outside the cleared addresses a read gives what it gave. -/
theorem read_clear {m : List (Nat × α)} (a n b : Nat) (h : wf d m) :
    read d (clear m a n) b = if a ≤ b ∧ b < a + n then d else read d m b := by
  induction m with
  | nil => simp [clear, read]
  | cons x rest ih =>
    obtain ⟨h1, h2, h3⟩ := wf_cons.1 h
    have ih := ih h3
    have hr : read d rest x.1 = d := read_of_lt h1
    simp only [clear, List.filter_cons] at ih ⊢
    by_cases hx : a ≤ x.1 ∧ x.1 < a + n
    · simp only [hx, decide_true, Bool.and_self, Bool.not_true, Bool.false_eq_true, if_false]
      rw [ih]
      split
      · rfl
      · rename_i hb
        simp only [read]
        rw [if_neg (by intro e; subst e; exact hb hx)]
    · have : (!(decide (a ≤ x.1) && decide (x.1 < a + n))) = true := by simp; omega
      simp only [this, if_true, read]
      by_cases hb : x.1 = b
      · subst hb; simp [hx]
      · rw [if_neg hb, if_neg hb, ih]

/-- After a run of values is written, its addresses read as the run and every other address as before. -/
theorem read_writeMany {m : List (Nat × α)} (a b : Nat) (vs : List α) (h : wf d m) :
    read d (writeMany d m a vs) b = if a ≤ b ∧ b < a + vs.length then vs.getD (b - a) d else read d m b := by
  induction vs generalizing m a with
  | nil => simp [writeMany]
  | cons v rest ih =>
    simp only [writeMany]
    rw [ih (a + 1) (write_wf a v h), read_write a b v h]
    by_cases hb : b = a
    · subst hb
      simp
    · by_cases hr : a + 1 ≤ b ∧ b < a + 1 + rest.length
      · rw [if_pos hr, if_pos (by simp; omega)]
        rw [show b - a = (b - (a + 1)) + 1 by omega]
        simp
      · rw [if_neg hr, if_neg hb, if_neg (by simp; omega)]

end Sys2Proof.Machine.Memory

namespace Sys2Proof.Machine

/-- Erasing and writing a sector keeps the flash canonical. -/
theorem writeSector_wf {flash : List Host.Cell} (sector : Nat) (bytes : List Byte)
    (h : Memory.wf erasedByte flash) : Memory.wf erasedByte (writeSector flash sector bytes) :=
  Memory.writeMany_wf _ _ (Memory.clear_wf _ _ h)

/-- Writing sectors in order keeps the flash canonical. -/
theorem writeSectors_wf {flash : List Host.Cell} (first : Nat) (bytes : List Byte) (n : Nat)
    (h : Memory.wf erasedByte flash) : Memory.wf erasedByte (writeSectors flash first bytes n) := by
  induction n with
  | zero => exact h
  | succ k ih => exact writeSector_wf _ _ ih

/-- A sector written: its bytes read as those written and all ones past them, and no other byte changes (R199). -/
theorem read_writeSector {flash : List Host.Cell} (sector : Nat) (bytes : List Byte) (b : Nat)
    (hl : bytes.length ≤ 4096) (h : Memory.wf erasedByte flash) :
    Memory.read erasedByte (writeSector flash sector bytes) b =
      if sectorAddress sector ≤ b ∧ b < sectorAddress sector + 4096 then bytes.getD (b - sectorAddress sector) erasedByte
      else Memory.read erasedByte flash b := by
  unfold writeSector
  rw [Memory.read_writeMany _ _ _ (Memory.clear_wf _ _ h), Memory.read_clear _ _ _ h]
  by_cases h1 : sectorAddress sector ≤ b ∧ b < sectorAddress sector + bytes.length
  · rw [if_pos h1, if_pos (by omega)]
  · rw [if_neg h1]
    by_cases h2 : sectorAddress sector ≤ b ∧ b < sectorAddress sector + 4096
    · rw [if_pos h2, if_pos h2, List.getD_eq_default _ _ (by omega)]
    · rw [if_neg h2, if_neg h2]

/-- The bytes of a sector just written read back as those written (R199). -/
theorem flashBytes_writeSector {flash : List Host.Cell} (sector place n : Nat) (bytes : List Byte)
    (hl : bytes.length ≤ 4096) (hn : place + n ≤ bytes.length) (h : Memory.wf erasedByte flash) :
    flashBytes (writeSector flash sector bytes) (sectorAddress sector + place) n = (bytes.drop place).take n := by
  refine List.ext_getElem (by simp [flashBytes, Memory.readMany]; omega) fun i h1 h2 => ?_
  have hi : i < n := by simpa [flashBytes, Memory.readMany] using h1
  simp only [flashBytes, Memory.readMany, List.getElem_map, List.getElem_range, List.getElem_take, List.getElem_drop]
  rw [read_writeSector sector bytes _ hl h, if_pos (by omega)]
  have e : sectorAddress sector + place + i - sectorAddress sector = place + i := by omega
  rw [e, List.getD_eq_getElem?_getD, List.getElem?_eq_getElem (by omega)]
  rfl

/-- Writing a sample keeps the values of the take blocks canonical. -/
theorem writeSample_wf {values : List (Nat × Int)} (axes : AxisSet) (blocks : List Nat) (q : Nat) (vals : Tab 10 Int)
    (h : Memory.wf 0 values) : Memory.wf 0 (writeSample values axes blocks q vals) := by
  unfold writeSample
  generalize axesOf axes = l
  induction l generalizing values with
  | nil => exact h
  | cons j rest ih => exact ih (Memory.write_wf _ _ h)

end Sys2Proof.Machine
end

