-- ==== Sys2Proof/Laws/State.lean ====
section
/-! SUPPORT. What each field is after each of the small updates of the state: one lemma per field per update. -/

namespace Sys2Proof.Machine.State

variable (s : State)

/-! ### modLink -/
@[simp] theorem modLink_stations (st : Station) (f : Link → Link) : (s.modLink st f).stations = s.stations := rfl
@[simp] theorem modLink_links (st : Station) (f : Link → Link) : (s.modLink st f).links = s.links.modify st f := rfl
@[simp] theorem modLink_auth (st : Station) (f : Link → Link) : (s.modLink st f).auth = s.auth := rfl
@[simp] theorem modLink_channels (st : Station) (f : Link → Link) : (s.modLink st f).channels = s.channels := rfl
@[simp] theorem modLink_generator (st : Station) (f : Link → Link) : (s.modLink st f).generator = s.generator := rfl
@[simp] theorem modLink_maps (st : Station) (f : Link → Link) : (s.modLink st f).maps = s.maps := rfl
@[simp] theorem modLink_mapStaging (st : Station) (f : Link → Link) : (s.modLink st f).mapStaging = s.mapStaging := rfl
@[simp] theorem modLink_port (st : Station) (f : Link → Link) : (s.modLink st f).port = s.port := rfl
@[simp] theorem modLink_zones (st : Station) (f : Link → Link) : (s.modLink st f).zones = s.zones := rfl
@[simp] theorem modLink_stop (st : Station) (f : Link → Link) : (s.modLink st f).stop = s.stop := rfl
@[simp] theorem modLink_time (st : Station) (f : Link → Link) : (s.modLink st f).time = s.time := rfl
@[simp] theorem modLink_marks (st : Station) (f : Link → Link) : (s.modLink st f).marks = s.marks := rfl
@[simp] theorem modLink_takes (st : Station) (f : Link → Link) : (s.modLink st f).takes = s.takes := rfl
@[simp] theorem modLink_play (st : Station) (f : Link → Link) : (s.modLink st f).play = s.play := rfl
@[simp] theorem modLink_flashPort (st : Station) (f : Link → Link) : (s.modLink st f).flashPort = s.flashPort := rfl
@[simp] theorem modLink_flash (st : Station) (f : Link → Link) : (s.modLink st f).flash = s.flash := rfl
@[simp] theorem modLink_configDefaulted (st : Station) (f : Link → Link) : (s.modLink st f).configDefaulted = s.configDefaulted := rfl
@[simp] theorem modLink_reportCount (st : Station) (f : Link → Link) : (s.modLink st f).reportCount = s.reportCount := rfl
@[simp] theorem modLink_sysreset (st : Station) (f : Link → Link) : (s.modLink st f).sysreset = s.sysreset := rfl
@[simp] theorem modLink_taken (st : Station) (f : Link → Link) : (s.modLink st f).taken = s.taken := rfl
@[simp] theorem modLink_freeCount (st : Station) (f : Link → Link) : (s.modLink st f).freeCount = s.freeCount := rfl
@[simp] theorem modLink_pending (st : Station) (f : Link → Link) : (s.modLink st f).pending = s.pending := rfl

/-! ### modStation -/
@[simp] theorem modStation_stations (st : Station) (f : StationRec → StationRec) : (s.modStation st f).stations = s.stations.modify st f := rfl
@[simp] theorem modStation_links (st : Station) (f : StationRec → StationRec) : (s.modStation st f).links = s.links := rfl
@[simp] theorem modStation_auth (st : Station) (f : StationRec → StationRec) : (s.modStation st f).auth = s.auth := rfl
@[simp] theorem modStation_channels (st : Station) (f : StationRec → StationRec) : (s.modStation st f).channels = s.channels := rfl
@[simp] theorem modStation_generator (st : Station) (f : StationRec → StationRec) : (s.modStation st f).generator = s.generator := rfl
@[simp] theorem modStation_maps (st : Station) (f : StationRec → StationRec) : (s.modStation st f).maps = s.maps := rfl
@[simp] theorem modStation_mapStaging (st : Station) (f : StationRec → StationRec) : (s.modStation st f).mapStaging = s.mapStaging := rfl
@[simp] theorem modStation_port (st : Station) (f : StationRec → StationRec) : (s.modStation st f).port = s.port := rfl
@[simp] theorem modStation_zones (st : Station) (f : StationRec → StationRec) : (s.modStation st f).zones = s.zones := rfl
@[simp] theorem modStation_stop (st : Station) (f : StationRec → StationRec) : (s.modStation st f).stop = s.stop := rfl
@[simp] theorem modStation_time (st : Station) (f : StationRec → StationRec) : (s.modStation st f).time = s.time := rfl
@[simp] theorem modStation_marks (st : Station) (f : StationRec → StationRec) : (s.modStation st f).marks = s.marks := rfl
@[simp] theorem modStation_takes (st : Station) (f : StationRec → StationRec) : (s.modStation st f).takes = s.takes := rfl
@[simp] theorem modStation_play (st : Station) (f : StationRec → StationRec) : (s.modStation st f).play = s.play := rfl
@[simp] theorem modStation_flashPort (st : Station) (f : StationRec → StationRec) : (s.modStation st f).flashPort = s.flashPort := rfl
@[simp] theorem modStation_flash (st : Station) (f : StationRec → StationRec) : (s.modStation st f).flash = s.flash := rfl
@[simp] theorem modStation_configDefaulted (st : Station) (f : StationRec → StationRec) : (s.modStation st f).configDefaulted = s.configDefaulted := rfl
@[simp] theorem modStation_reportCount (st : Station) (f : StationRec → StationRec) : (s.modStation st f).reportCount = s.reportCount := rfl
@[simp] theorem modStation_sysreset (st : Station) (f : StationRec → StationRec) : (s.modStation st f).sysreset = s.sysreset := rfl
@[simp] theorem modStation_taken (st : Station) (f : StationRec → StationRec) : (s.modStation st f).taken = s.taken := rfl
@[simp] theorem modStation_freeCount (st : Station) (f : StationRec → StationRec) : (s.modStation st f).freeCount = s.freeCount := rfl
@[simp] theorem modStation_pending (st : Station) (f : StationRec → StationRec) : (s.modStation st f).pending = s.pending := rfl

/-! ### modAuth -/
@[simp] theorem modAuth_stations (j : Axis) (f : AuthEntry → AuthEntry) : (s.modAuth j f).stations = s.stations := rfl
@[simp] theorem modAuth_links (j : Axis) (f : AuthEntry → AuthEntry) : (s.modAuth j f).links = s.links := rfl
@[simp] theorem modAuth_auth (j : Axis) (f : AuthEntry → AuthEntry) : (s.modAuth j f).auth = s.auth.modify j f := rfl
@[simp] theorem modAuth_channels (j : Axis) (f : AuthEntry → AuthEntry) : (s.modAuth j f).channels = s.channels := rfl
@[simp] theorem modAuth_generator (j : Axis) (f : AuthEntry → AuthEntry) : (s.modAuth j f).generator = s.generator := rfl
@[simp] theorem modAuth_maps (j : Axis) (f : AuthEntry → AuthEntry) : (s.modAuth j f).maps = s.maps := rfl
@[simp] theorem modAuth_mapStaging (j : Axis) (f : AuthEntry → AuthEntry) : (s.modAuth j f).mapStaging = s.mapStaging := rfl
@[simp] theorem modAuth_port (j : Axis) (f : AuthEntry → AuthEntry) : (s.modAuth j f).port = s.port := rfl
@[simp] theorem modAuth_zones (j : Axis) (f : AuthEntry → AuthEntry) : (s.modAuth j f).zones = s.zones := rfl
@[simp] theorem modAuth_stop (j : Axis) (f : AuthEntry → AuthEntry) : (s.modAuth j f).stop = s.stop := rfl
@[simp] theorem modAuth_time (j : Axis) (f : AuthEntry → AuthEntry) : (s.modAuth j f).time = s.time := rfl
@[simp] theorem modAuth_marks (j : Axis) (f : AuthEntry → AuthEntry) : (s.modAuth j f).marks = s.marks := rfl
@[simp] theorem modAuth_takes (j : Axis) (f : AuthEntry → AuthEntry) : (s.modAuth j f).takes = s.takes := rfl
@[simp] theorem modAuth_play (j : Axis) (f : AuthEntry → AuthEntry) : (s.modAuth j f).play = s.play := rfl
@[simp] theorem modAuth_flashPort (j : Axis) (f : AuthEntry → AuthEntry) : (s.modAuth j f).flashPort = s.flashPort := rfl
@[simp] theorem modAuth_flash (j : Axis) (f : AuthEntry → AuthEntry) : (s.modAuth j f).flash = s.flash := rfl
@[simp] theorem modAuth_configDefaulted (j : Axis) (f : AuthEntry → AuthEntry) : (s.modAuth j f).configDefaulted = s.configDefaulted := rfl
@[simp] theorem modAuth_reportCount (j : Axis) (f : AuthEntry → AuthEntry) : (s.modAuth j f).reportCount = s.reportCount := rfl
@[simp] theorem modAuth_sysreset (j : Axis) (f : AuthEntry → AuthEntry) : (s.modAuth j f).sysreset = s.sysreset := rfl
@[simp] theorem modAuth_taken (j : Axis) (f : AuthEntry → AuthEntry) : (s.modAuth j f).taken = s.taken := rfl
@[simp] theorem modAuth_freeCount (j : Axis) (f : AuthEntry → AuthEntry) : (s.modAuth j f).freeCount = s.freeCount := rfl
@[simp] theorem modAuth_pending (j : Axis) (f : AuthEntry → AuthEntry) : (s.modAuth j f).pending = s.pending := rfl

/-! ### modChannel -/
@[simp] theorem modChannel_stations (j : Axis) (f : AxisChannel → AxisChannel) : (s.modChannel j f).stations = s.stations := rfl
@[simp] theorem modChannel_links (j : Axis) (f : AxisChannel → AxisChannel) : (s.modChannel j f).links = s.links := rfl
@[simp] theorem modChannel_auth (j : Axis) (f : AxisChannel → AxisChannel) : (s.modChannel j f).auth = s.auth := rfl
@[simp] theorem modChannel_channels (j : Axis) (f : AxisChannel → AxisChannel) : (s.modChannel j f).channels = s.channels.modify j f := rfl
@[simp] theorem modChannel_generator (j : Axis) (f : AxisChannel → AxisChannel) : (s.modChannel j f).generator = s.generator := rfl
@[simp] theorem modChannel_maps (j : Axis) (f : AxisChannel → AxisChannel) : (s.modChannel j f).maps = s.maps := rfl
@[simp] theorem modChannel_mapStaging (j : Axis) (f : AxisChannel → AxisChannel) : (s.modChannel j f).mapStaging = s.mapStaging := rfl
@[simp] theorem modChannel_port (j : Axis) (f : AxisChannel → AxisChannel) : (s.modChannel j f).port = s.port := rfl
@[simp] theorem modChannel_zones (j : Axis) (f : AxisChannel → AxisChannel) : (s.modChannel j f).zones = s.zones := rfl
@[simp] theorem modChannel_stop (j : Axis) (f : AxisChannel → AxisChannel) : (s.modChannel j f).stop = s.stop := rfl
@[simp] theorem modChannel_time (j : Axis) (f : AxisChannel → AxisChannel) : (s.modChannel j f).time = s.time := rfl
@[simp] theorem modChannel_marks (j : Axis) (f : AxisChannel → AxisChannel) : (s.modChannel j f).marks = s.marks := rfl
@[simp] theorem modChannel_takes (j : Axis) (f : AxisChannel → AxisChannel) : (s.modChannel j f).takes = s.takes := rfl
@[simp] theorem modChannel_play (j : Axis) (f : AxisChannel → AxisChannel) : (s.modChannel j f).play = s.play := rfl
@[simp] theorem modChannel_flashPort (j : Axis) (f : AxisChannel → AxisChannel) : (s.modChannel j f).flashPort = s.flashPort := rfl
@[simp] theorem modChannel_flash (j : Axis) (f : AxisChannel → AxisChannel) : (s.modChannel j f).flash = s.flash := rfl
@[simp] theorem modChannel_configDefaulted (j : Axis) (f : AxisChannel → AxisChannel) : (s.modChannel j f).configDefaulted = s.configDefaulted := rfl
@[simp] theorem modChannel_reportCount (j : Axis) (f : AxisChannel → AxisChannel) : (s.modChannel j f).reportCount = s.reportCount := rfl
@[simp] theorem modChannel_sysreset (j : Axis) (f : AxisChannel → AxisChannel) : (s.modChannel j f).sysreset = s.sysreset := rfl
@[simp] theorem modChannel_taken (j : Axis) (f : AxisChannel → AxisChannel) : (s.modChannel j f).taken = s.taken := rfl
@[simp] theorem modChannel_freeCount (j : Axis) (f : AxisChannel → AxisChannel) : (s.modChannel j f).freeCount = s.freeCount := rfl
@[simp] theorem modChannel_pending (j : Axis) (f : AxisChannel → AxisChannel) : (s.modChannel j f).pending = s.pending := rfl

/-! ### modDrive -/
@[simp] theorem modDrive_stations (j : Axis) (f : Drive → Drive) : (s.modDrive j f).stations = s.stations := rfl
@[simp] theorem modDrive_links (j : Axis) (f : Drive → Drive) : (s.modDrive j f).links = s.links := rfl
@[simp] theorem modDrive_auth (j : Axis) (f : Drive → Drive) : (s.modDrive j f).auth = s.auth := rfl
@[simp] theorem modDrive_channels (j : Axis) (f : Drive → Drive) : (s.modDrive j f).channels = s.channels := rfl
@[simp] theorem modDrive_generator (j : Axis) (f : Drive → Drive) : (s.modDrive j f).generator = s.generator := rfl
@[simp] theorem modDrive_maps (j : Axis) (f : Drive → Drive) : (s.modDrive j f).maps = s.maps := rfl
@[simp] theorem modDrive_mapStaging (j : Axis) (f : Drive → Drive) : (s.modDrive j f).mapStaging = s.mapStaging := rfl
@[simp] theorem modDrive_port (j : Axis) (f : Drive → Drive) : (s.modDrive j f).port = { s.port with drives := s.port.drives.modify j f } := rfl
@[simp] theorem modDrive_zones (j : Axis) (f : Drive → Drive) : (s.modDrive j f).zones = s.zones := rfl
@[simp] theorem modDrive_stop (j : Axis) (f : Drive → Drive) : (s.modDrive j f).stop = s.stop := rfl
@[simp] theorem modDrive_time (j : Axis) (f : Drive → Drive) : (s.modDrive j f).time = s.time := rfl
@[simp] theorem modDrive_marks (j : Axis) (f : Drive → Drive) : (s.modDrive j f).marks = s.marks := rfl
@[simp] theorem modDrive_takes (j : Axis) (f : Drive → Drive) : (s.modDrive j f).takes = s.takes := rfl
@[simp] theorem modDrive_play (j : Axis) (f : Drive → Drive) : (s.modDrive j f).play = s.play := rfl
@[simp] theorem modDrive_flashPort (j : Axis) (f : Drive → Drive) : (s.modDrive j f).flashPort = s.flashPort := rfl
@[simp] theorem modDrive_flash (j : Axis) (f : Drive → Drive) : (s.modDrive j f).flash = s.flash := rfl
@[simp] theorem modDrive_configDefaulted (j : Axis) (f : Drive → Drive) : (s.modDrive j f).configDefaulted = s.configDefaulted := rfl
@[simp] theorem modDrive_reportCount (j : Axis) (f : Drive → Drive) : (s.modDrive j f).reportCount = s.reportCount := rfl
@[simp] theorem modDrive_sysreset (j : Axis) (f : Drive → Drive) : (s.modDrive j f).sysreset = s.sysreset := rfl
@[simp] theorem modDrive_taken (j : Axis) (f : Drive → Drive) : (s.modDrive j f).taken = s.taken := rfl
@[simp] theorem modDrive_freeCount (j : Axis) (f : Drive → Drive) : (s.modDrive j f).freeCount = s.freeCount := rfl
@[simp] theorem modDrive_pending (j : Axis) (f : Drive → Drive) : (s.modDrive j f).pending = s.pending := rfl

/-! ### setSlot -/
@[simp] theorem setSlot_stations (i : TakeNo) (t : TakeSlot) : (s.setSlot i t).stations = s.stations := rfl
@[simp] theorem setSlot_links (i : TakeNo) (t : TakeSlot) : (s.setSlot i t).links = s.links := rfl
@[simp] theorem setSlot_auth (i : TakeNo) (t : TakeSlot) : (s.setSlot i t).auth = s.auth := rfl
@[simp] theorem setSlot_channels (i : TakeNo) (t : TakeSlot) : (s.setSlot i t).channels = s.channels := rfl
@[simp] theorem setSlot_generator (i : TakeNo) (t : TakeSlot) : (s.setSlot i t).generator = s.generator := rfl
@[simp] theorem setSlot_maps (i : TakeNo) (t : TakeSlot) : (s.setSlot i t).maps = s.maps := rfl
@[simp] theorem setSlot_mapStaging (i : TakeNo) (t : TakeSlot) : (s.setSlot i t).mapStaging = s.mapStaging := rfl
@[simp] theorem setSlot_port (i : TakeNo) (t : TakeSlot) : (s.setSlot i t).port = s.port := rfl
@[simp] theorem setSlot_zones (i : TakeNo) (t : TakeSlot) : (s.setSlot i t).zones = s.zones := rfl
@[simp] theorem setSlot_stop (i : TakeNo) (t : TakeSlot) : (s.setSlot i t).stop = s.stop := rfl
@[simp] theorem setSlot_time (i : TakeNo) (t : TakeSlot) : (s.setSlot i t).time = s.time := rfl
@[simp] theorem setSlot_marks (i : TakeNo) (t : TakeSlot) : (s.setSlot i t).marks = s.marks := rfl
@[simp] theorem setSlot_takes (i : TakeNo) (t : TakeSlot) : (s.setSlot i t).takes = { s.takes with slots := s.takes.slots.set i t } := rfl
@[simp] theorem setSlot_play (i : TakeNo) (t : TakeSlot) : (s.setSlot i t).play = s.play := rfl
@[simp] theorem setSlot_flashPort (i : TakeNo) (t : TakeSlot) : (s.setSlot i t).flashPort = s.flashPort := rfl
@[simp] theorem setSlot_flash (i : TakeNo) (t : TakeSlot) : (s.setSlot i t).flash = s.flash := rfl
@[simp] theorem setSlot_configDefaulted (i : TakeNo) (t : TakeSlot) : (s.setSlot i t).configDefaulted = s.configDefaulted := rfl
@[simp] theorem setSlot_reportCount (i : TakeNo) (t : TakeSlot) : (s.setSlot i t).reportCount = s.reportCount := rfl
@[simp] theorem setSlot_sysreset (i : TakeNo) (t : TakeSlot) : (s.setSlot i t).sysreset = s.sysreset := rfl
@[simp] theorem setSlot_taken (i : TakeNo) (t : TakeSlot) : (s.setSlot i t).taken = s.taken := rfl
@[simp] theorem setSlot_freeCount (i : TakeNo) (t : TakeSlot) : (s.setSlot i t).freeCount = s.freeCount := rfl
@[simp] theorem setSlot_pending (i : TakeNo) (t : TakeSlot) : (s.setSlot i t).pending = s.pending := rfl

/-! ### setEngine -/
@[simp] theorem setEngine_stations (e : EngineState) : (s.setEngine e).stations = s.stations := rfl
@[simp] theorem setEngine_links (e : EngineState) : (s.setEngine e).links = s.links := rfl
@[simp] theorem setEngine_auth (e : EngineState) : (s.setEngine e).auth = s.auth := rfl
@[simp] theorem setEngine_channels (e : EngineState) : (s.setEngine e).channels = s.channels := rfl
@[simp] theorem setEngine_generator (e : EngineState) : (s.setEngine e).generator = s.generator := rfl
@[simp] theorem setEngine_maps (e : EngineState) : (s.setEngine e).maps = s.maps := rfl
@[simp] theorem setEngine_mapStaging (e : EngineState) : (s.setEngine e).mapStaging = s.mapStaging := rfl
@[simp] theorem setEngine_port (e : EngineState) : (s.setEngine e).port = s.port := rfl
@[simp] theorem setEngine_zones (e : EngineState) : (s.setEngine e).zones = s.zones := rfl
@[simp] theorem setEngine_stop (e : EngineState) : (s.setEngine e).stop = s.stop := rfl
@[simp] theorem setEngine_time (e : EngineState) : (s.setEngine e).time = s.time := rfl
@[simp] theorem setEngine_marks (e : EngineState) : (s.setEngine e).marks = s.marks := rfl
@[simp] theorem setEngine_takes (e : EngineState) : (s.setEngine e).takes = s.takes := rfl
@[simp] theorem setEngine_play (e : EngineState) : (s.setEngine e).play = { s.play with state := e } := rfl
@[simp] theorem setEngine_flashPort (e : EngineState) : (s.setEngine e).flashPort = s.flashPort := rfl
@[simp] theorem setEngine_flash (e : EngineState) : (s.setEngine e).flash = s.flash := rfl
@[simp] theorem setEngine_configDefaulted (e : EngineState) : (s.setEngine e).configDefaulted = s.configDefaulted := rfl
@[simp] theorem setEngine_reportCount (e : EngineState) : (s.setEngine e).reportCount = s.reportCount := rfl
@[simp] theorem setEngine_sysreset (e : EngineState) : (s.setEngine e).sysreset = s.sysreset := rfl
@[simp] theorem setEngine_taken (e : EngineState) : (s.setEngine e).taken = s.taken := rfl
@[simp] theorem setEngine_freeCount (e : EngineState) : (s.setEngine e).freeCount = s.freeCount := rfl
@[simp] theorem setEngine_pending (e : EngineState) : (s.setEngine e).pending = s.pending := rfl

/-! ### setStaging -/
@[simp] theorem setStaging_stations (st : Station) (g : Option ZoneStaging) : (s.setStaging st g).stations = s.stations := rfl
@[simp] theorem setStaging_links (st : Station) (g : Option ZoneStaging) : (s.setStaging st g).links = s.links := rfl
@[simp] theorem setStaging_auth (st : Station) (g : Option ZoneStaging) : (s.setStaging st g).auth = s.auth := rfl
@[simp] theorem setStaging_channels (st : Station) (g : Option ZoneStaging) : (s.setStaging st g).channels = s.channels := rfl
@[simp] theorem setStaging_generator (st : Station) (g : Option ZoneStaging) : (s.setStaging st g).generator = s.generator := rfl
@[simp] theorem setStaging_maps (st : Station) (g : Option ZoneStaging) : (s.setStaging st g).maps = s.maps := rfl
@[simp] theorem setStaging_mapStaging (st : Station) (g : Option ZoneStaging) : (s.setStaging st g).mapStaging = s.mapStaging := rfl
@[simp] theorem setStaging_port (st : Station) (g : Option ZoneStaging) : (s.setStaging st g).port = s.port := rfl
@[simp] theorem setStaging_zones (st : Station) (g : Option ZoneStaging) : (s.setStaging st g).zones = { s.zones with staging := s.zones.staging.set st g } := rfl
@[simp] theorem setStaging_stop (st : Station) (g : Option ZoneStaging) : (s.setStaging st g).stop = s.stop := rfl
@[simp] theorem setStaging_time (st : Station) (g : Option ZoneStaging) : (s.setStaging st g).time = s.time := rfl
@[simp] theorem setStaging_marks (st : Station) (g : Option ZoneStaging) : (s.setStaging st g).marks = s.marks := rfl
@[simp] theorem setStaging_takes (st : Station) (g : Option ZoneStaging) : (s.setStaging st g).takes = s.takes := rfl
@[simp] theorem setStaging_play (st : Station) (g : Option ZoneStaging) : (s.setStaging st g).play = s.play := rfl
@[simp] theorem setStaging_flashPort (st : Station) (g : Option ZoneStaging) : (s.setStaging st g).flashPort = s.flashPort := rfl
@[simp] theorem setStaging_flash (st : Station) (g : Option ZoneStaging) : (s.setStaging st g).flash = s.flash := rfl
@[simp] theorem setStaging_configDefaulted (st : Station) (g : Option ZoneStaging) : (s.setStaging st g).configDefaulted = s.configDefaulted := rfl
@[simp] theorem setStaging_reportCount (st : Station) (g : Option ZoneStaging) : (s.setStaging st g).reportCount = s.reportCount := rfl
@[simp] theorem setStaging_sysreset (st : Station) (g : Option ZoneStaging) : (s.setStaging st g).sysreset = s.sysreset := rfl
@[simp] theorem setStaging_taken (st : Station) (g : Option ZoneStaging) : (s.setStaging st g).taken = s.taken := rfl
@[simp] theorem setStaging_freeCount (st : Station) (g : Option ZoneStaging) : (s.setStaging st g).freeCount = s.freeCount := rfl
@[simp] theorem setStaging_pending (st : Station) (g : Option ZoneStaging) : (s.setStaging st g).pending = s.pending := rfl

/-! ### withPending -/
@[simp] theorem withPending_stations (cs : List Instr) : (s.withPending cs).stations = s.stations := rfl
@[simp] theorem withPending_links (cs : List Instr) : (s.withPending cs).links = s.links := rfl
@[simp] theorem withPending_auth (cs : List Instr) : (s.withPending cs).auth = s.auth := rfl
@[simp] theorem withPending_channels (cs : List Instr) : (s.withPending cs).channels = s.channels := rfl
@[simp] theorem withPending_generator (cs : List Instr) : (s.withPending cs).generator = s.generator := rfl
@[simp] theorem withPending_maps (cs : List Instr) : (s.withPending cs).maps = s.maps := rfl
@[simp] theorem withPending_mapStaging (cs : List Instr) : (s.withPending cs).mapStaging = s.mapStaging := rfl
@[simp] theorem withPending_port (cs : List Instr) : (s.withPending cs).port = s.port := rfl
@[simp] theorem withPending_zones (cs : List Instr) : (s.withPending cs).zones = s.zones := rfl
@[simp] theorem withPending_stop (cs : List Instr) : (s.withPending cs).stop = s.stop := rfl
@[simp] theorem withPending_time (cs : List Instr) : (s.withPending cs).time = s.time := rfl
@[simp] theorem withPending_marks (cs : List Instr) : (s.withPending cs).marks = s.marks := rfl
@[simp] theorem withPending_takes (cs : List Instr) : (s.withPending cs).takes = s.takes := rfl
@[simp] theorem withPending_play (cs : List Instr) : (s.withPending cs).play = s.play := rfl
@[simp] theorem withPending_flashPort (cs : List Instr) : (s.withPending cs).flashPort = s.flashPort := rfl
@[simp] theorem withPending_flash (cs : List Instr) : (s.withPending cs).flash = s.flash := rfl
@[simp] theorem withPending_configDefaulted (cs : List Instr) : (s.withPending cs).configDefaulted = s.configDefaulted := rfl
@[simp] theorem withPending_reportCount (cs : List Instr) : (s.withPending cs).reportCount = s.reportCount := rfl
@[simp] theorem withPending_sysreset (cs : List Instr) : (s.withPending cs).sysreset = s.sysreset := rfl
@[simp] theorem withPending_taken (cs : List Instr) : (s.withPending cs).taken = s.taken := rfl
@[simp] theorem withPending_freeCount (cs : List Instr) : (s.withPending cs).freeCount = s.freeCount := rfl
@[simp] theorem withPending_pending (cs : List Instr) : (s.withPending cs).pending = cs := rfl

/-! ### modZone -/
@[simp] theorem modZone_stations (z : ZoneId) (f : Zone → Zone) : (s.modZone z f).stations = s.stations := by
  unfold modZone; split <;> rfl
@[simp] theorem modZone_links (z : ZoneId) (f : Zone → Zone) : (s.modZone z f).links = s.links := by
  unfold modZone; split <;> rfl
@[simp] theorem modZone_auth (z : ZoneId) (f : Zone → Zone) : (s.modZone z f).auth = s.auth := by
  unfold modZone; split <;> rfl
@[simp] theorem modZone_channels (z : ZoneId) (f : Zone → Zone) : (s.modZone z f).channels = s.channels := by
  unfold modZone; split <;> rfl
@[simp] theorem modZone_generator (z : ZoneId) (f : Zone → Zone) : (s.modZone z f).generator = s.generator := by
  unfold modZone; split <;> rfl
@[simp] theorem modZone_maps (z : ZoneId) (f : Zone → Zone) : (s.modZone z f).maps = s.maps := by
  unfold modZone; split <;> rfl
@[simp] theorem modZone_mapStaging (z : ZoneId) (f : Zone → Zone) : (s.modZone z f).mapStaging = s.mapStaging := by
  unfold modZone; split <;> rfl
@[simp] theorem modZone_port (z : ZoneId) (f : Zone → Zone) : (s.modZone z f).port = s.port := by
  unfold modZone; split <;> rfl
@[simp] theorem modZone_stop (z : ZoneId) (f : Zone → Zone) : (s.modZone z f).stop = s.stop := by
  unfold modZone; split <;> rfl
@[simp] theorem modZone_time (z : ZoneId) (f : Zone → Zone) : (s.modZone z f).time = s.time := by
  unfold modZone; split <;> rfl
@[simp] theorem modZone_marks (z : ZoneId) (f : Zone → Zone) : (s.modZone z f).marks = s.marks := by
  unfold modZone; split <;> rfl
@[simp] theorem modZone_takes (z : ZoneId) (f : Zone → Zone) : (s.modZone z f).takes = s.takes := by
  unfold modZone; split <;> rfl
@[simp] theorem modZone_play (z : ZoneId) (f : Zone → Zone) : (s.modZone z f).play = s.play := by
  unfold modZone; split <;> rfl
@[simp] theorem modZone_flashPort (z : ZoneId) (f : Zone → Zone) : (s.modZone z f).flashPort = s.flashPort := by
  unfold modZone; split <;> rfl
@[simp] theorem modZone_flash (z : ZoneId) (f : Zone → Zone) : (s.modZone z f).flash = s.flash := by
  unfold modZone; split <;> rfl
@[simp] theorem modZone_configDefaulted (z : ZoneId) (f : Zone → Zone) : (s.modZone z f).configDefaulted = s.configDefaulted := by
  unfold modZone; split <;> rfl
@[simp] theorem modZone_reportCount (z : ZoneId) (f : Zone → Zone) : (s.modZone z f).reportCount = s.reportCount := by
  unfold modZone; split <;> rfl
@[simp] theorem modZone_sysreset (z : ZoneId) (f : Zone → Zone) : (s.modZone z f).sysreset = s.sysreset := by
  unfold modZone; split <;> rfl
@[simp] theorem modZone_taken (z : ZoneId) (f : Zone → Zone) : (s.modZone z f).taken = s.taken := by
  unfold modZone; split <;> rfl
@[simp] theorem modZone_freeCount (z : ZoneId) (f : Zone → Zone) : (s.modZone z f).freeCount = s.freeCount := by
  unfold modZone; split <;> rfl
@[simp] theorem modZone_pending (z : ZoneId) (f : Zone → Zone) : (s.modZone z f).pending = s.pending := by
  unfold modZone; split <;> rfl

/-! ### post and postAll -/
@[simp] theorem post_stations (st : Station) (f : Notices → Notices) : (s.post st f).stations = s.stations := by
  unfold post; split <;> rfl
@[simp] theorem post_auth (st : Station) (f : Notices → Notices) : (s.post st f).auth = s.auth := by
  unfold post; split <;> rfl
@[simp] theorem post_channels (st : Station) (f : Notices → Notices) : (s.post st f).channels = s.channels := by
  unfold post; split <;> rfl
@[simp] theorem post_generator (st : Station) (f : Notices → Notices) : (s.post st f).generator = s.generator := by
  unfold post; split <;> rfl
@[simp] theorem post_maps (st : Station) (f : Notices → Notices) : (s.post st f).maps = s.maps := by
  unfold post; split <;> rfl
@[simp] theorem post_mapStaging (st : Station) (f : Notices → Notices) : (s.post st f).mapStaging = s.mapStaging := by
  unfold post; split <;> rfl
@[simp] theorem post_port (st : Station) (f : Notices → Notices) : (s.post st f).port = s.port := by
  unfold post; split <;> rfl
@[simp] theorem post_zones (st : Station) (f : Notices → Notices) : (s.post st f).zones = s.zones := by
  unfold post; split <;> rfl
@[simp] theorem post_stop (st : Station) (f : Notices → Notices) : (s.post st f).stop = s.stop := by
  unfold post; split <;> rfl
@[simp] theorem post_time (st : Station) (f : Notices → Notices) : (s.post st f).time = s.time := by
  unfold post; split <;> rfl
@[simp] theorem post_marks (st : Station) (f : Notices → Notices) : (s.post st f).marks = s.marks := by
  unfold post; split <;> rfl
@[simp] theorem post_takes (st : Station) (f : Notices → Notices) : (s.post st f).takes = s.takes := by
  unfold post; split <;> rfl
@[simp] theorem post_play (st : Station) (f : Notices → Notices) : (s.post st f).play = s.play := by
  unfold post; split <;> rfl
@[simp] theorem post_flashPort (st : Station) (f : Notices → Notices) : (s.post st f).flashPort = s.flashPort := by
  unfold post; split <;> rfl
@[simp] theorem post_flash (st : Station) (f : Notices → Notices) : (s.post st f).flash = s.flash := by
  unfold post; split <;> rfl
@[simp] theorem post_configDefaulted (st : Station) (f : Notices → Notices) : (s.post st f).configDefaulted = s.configDefaulted := by
  unfold post; split <;> rfl
@[simp] theorem post_reportCount (st : Station) (f : Notices → Notices) : (s.post st f).reportCount = s.reportCount := by
  unfold post; split <;> rfl
@[simp] theorem post_sysreset (st : Station) (f : Notices → Notices) : (s.post st f).sysreset = s.sysreset := by
  unfold post; split <;> rfl
@[simp] theorem post_taken (st : Station) (f : Notices → Notices) : (s.post st f).taken = s.taken := by
  unfold post; split <;> rfl
@[simp] theorem post_freeCount (st : Station) (f : Notices → Notices) : (s.post st f).freeCount = s.freeCount := by
  unfold post; split <;> rfl
@[simp] theorem post_pending (st : Station) (f : Notices → Notices) : (s.post st f).pending = s.pending := by
  unfold post; split <;> rfl
@[simp] theorem postAll_stations (f : Notices → Notices) : (s.postAll f).stations = s.stations := rfl
@[simp] theorem postAll_auth (f : Notices → Notices) : (s.postAll f).auth = s.auth := rfl
@[simp] theorem postAll_channels (f : Notices → Notices) : (s.postAll f).channels = s.channels := rfl
@[simp] theorem postAll_generator (f : Notices → Notices) : (s.postAll f).generator = s.generator := rfl
@[simp] theorem postAll_maps (f : Notices → Notices) : (s.postAll f).maps = s.maps := rfl
@[simp] theorem postAll_mapStaging (f : Notices → Notices) : (s.postAll f).mapStaging = s.mapStaging := rfl
@[simp] theorem postAll_port (f : Notices → Notices) : (s.postAll f).port = s.port := rfl
@[simp] theorem postAll_zones (f : Notices → Notices) : (s.postAll f).zones = s.zones := rfl
@[simp] theorem postAll_stop (f : Notices → Notices) : (s.postAll f).stop = s.stop := rfl
@[simp] theorem postAll_time (f : Notices → Notices) : (s.postAll f).time = s.time := rfl
@[simp] theorem postAll_marks (f : Notices → Notices) : (s.postAll f).marks = s.marks := rfl
@[simp] theorem postAll_takes (f : Notices → Notices) : (s.postAll f).takes = s.takes := rfl
@[simp] theorem postAll_play (f : Notices → Notices) : (s.postAll f).play = s.play := rfl
@[simp] theorem postAll_flashPort (f : Notices → Notices) : (s.postAll f).flashPort = s.flashPort := rfl
@[simp] theorem postAll_flash (f : Notices → Notices) : (s.postAll f).flash = s.flash := rfl
@[simp] theorem postAll_configDefaulted (f : Notices → Notices) : (s.postAll f).configDefaulted = s.configDefaulted := rfl
@[simp] theorem postAll_reportCount (f : Notices → Notices) : (s.postAll f).reportCount = s.reportCount := rfl
@[simp] theorem postAll_sysreset (f : Notices → Notices) : (s.postAll f).sysreset = s.sysreset := rfl
@[simp] theorem postAll_taken (f : Notices → Notices) : (s.postAll f).taken = s.taken := rfl
@[simp] theorem postAll_freeCount (f : Notices → Notices) : (s.postAll f).freeCount = s.freeCount := rfl
@[simp] theorem postAll_pending (f : Notices → Notices) : (s.postAll f).pending = s.pending := rfl

/-! ### Links after a notice: only notice sets change -/

@[simp] theorem post_linkState (st o : Station) (f : Notices → Notices) : (s.post st f).linkState o = s.linkState o := by
  unfold post linkState
  split
  · simp only [modLink_links, Tab.get_modify]
    split
    · simp_all
    · rfl
  · rfl

@[simp] theorem postAll_linkState (o : Station) (f : Notices → Notices) :
    (s.postAll f).linkState o = s.linkState o := by
  simp only [postAll, linkState, Tab.get_map]
  split <;> rfl

/-! ### The readings that small updates leave -/
@[simp] theorem modLink_mode (st : Station) (f : Link → Link) (i : Axis) : (s.modLink st f).mode i = s.mode i := rfl
@[simp] theorem modLink_driveState (st : Station) (f : Link → Link) (i : Axis) : (s.modLink st f).driveState i = s.driveState i := rfl
@[simp] theorem modLink_limits (st : Station) (f : Link → Link) (i : Axis) : (s.modLink st f).limits i = s.limits i := rfl
@[simp] theorem modLink_holds (st : Station) (f : Link → Link) (o : Station) (q : Right) : (s.modLink st f).holds o q = s.holds o q := rfl
@[simp] theorem modStation_mode (st : Station) (f : StationRec → StationRec) (i : Axis) : (s.modStation st f).mode i = s.mode i := rfl
@[simp] theorem modStation_driveState (st : Station) (f : StationRec → StationRec) (i : Axis) : (s.modStation st f).driveState i = s.driveState i := rfl
@[simp] theorem modStation_limits (st : Station) (f : StationRec → StationRec) (i : Axis) : (s.modStation st f).limits i = s.limits i := rfl
@[simp] theorem modStation_linkState (st : Station) (f : StationRec → StationRec) (o : Station) : (s.modStation st f).linkState o = s.linkState o := rfl
@[simp] theorem modAuth_driveState (j : Axis) (f : AuthEntry → AuthEntry) (i : Axis) : (s.modAuth j f).driveState i = s.driveState i := rfl
@[simp] theorem modAuth_limits (j : Axis) (f : AuthEntry → AuthEntry) (i : Axis) : (s.modAuth j f).limits i = s.limits i := rfl
@[simp] theorem modAuth_holds (j : Axis) (f : AuthEntry → AuthEntry) (o : Station) (q : Right) : (s.modAuth j f).holds o q = s.holds o q := rfl
@[simp] theorem modAuth_linkState (j : Axis) (f : AuthEntry → AuthEntry) (o : Station) : (s.modAuth j f).linkState o = s.linkState o := rfl
@[simp] theorem modChannel_mode (j : Axis) (f : AxisChannel → AxisChannel) (i : Axis) : (s.modChannel j f).mode i = s.mode i := rfl
@[simp] theorem modChannel_driveState (j : Axis) (f : AxisChannel → AxisChannel) (i : Axis) : (s.modChannel j f).driveState i = s.driveState i := rfl
@[simp] theorem modChannel_holds (j : Axis) (f : AxisChannel → AxisChannel) (o : Station) (q : Right) : (s.modChannel j f).holds o q = s.holds o q := rfl
@[simp] theorem modChannel_linkState (j : Axis) (f : AxisChannel → AxisChannel) (o : Station) : (s.modChannel j f).linkState o = s.linkState o := rfl
@[simp] theorem modDrive_mode (j : Axis) (f : Drive → Drive) (i : Axis) : (s.modDrive j f).mode i = s.mode i := rfl
@[simp] theorem modDrive_limits (j : Axis) (f : Drive → Drive) (i : Axis) : (s.modDrive j f).limits i = s.limits i := rfl
@[simp] theorem modDrive_holds (j : Axis) (f : Drive → Drive) (o : Station) (q : Right) : (s.modDrive j f).holds o q = s.holds o q := rfl
@[simp] theorem modDrive_linkState (j : Axis) (f : Drive → Drive) (o : Station) : (s.modDrive j f).linkState o = s.linkState o := rfl
@[simp] theorem setSlot_mode (i : TakeNo) (t : TakeSlot) (k : Axis) : (s.setSlot i t).mode k = s.mode k := rfl
@[simp] theorem setSlot_driveState (i : TakeNo) (t : TakeSlot) (k : Axis) : (s.setSlot i t).driveState k = s.driveState k := rfl
@[simp] theorem setSlot_limits (i : TakeNo) (t : TakeSlot) (k : Axis) : (s.setSlot i t).limits k = s.limits k := rfl
@[simp] theorem setSlot_holds (i : TakeNo) (t : TakeSlot) (o : Station) (q : Right) : (s.setSlot i t).holds o q = s.holds o q := rfl
@[simp] theorem setSlot_linkState (i : TakeNo) (t : TakeSlot) (o : Station) : (s.setSlot i t).linkState o = s.linkState o := rfl
@[simp] theorem setEngine_mode (e : EngineState) (i : Axis) : (s.setEngine e).mode i = s.mode i := rfl
@[simp] theorem setEngine_driveState (e : EngineState) (i : Axis) : (s.setEngine e).driveState i = s.driveState i := rfl
@[simp] theorem setEngine_limits (e : EngineState) (i : Axis) : (s.setEngine e).limits i = s.limits i := rfl
@[simp] theorem setEngine_holds (e : EngineState) (o : Station) (q : Right) : (s.setEngine e).holds o q = s.holds o q := rfl
@[simp] theorem setEngine_linkState (e : EngineState) (o : Station) : (s.setEngine e).linkState o = s.linkState o := rfl
@[simp] theorem setStaging_mode (st : Station) (g : Option ZoneStaging) (i : Axis) : (s.setStaging st g).mode i = s.mode i := rfl
@[simp] theorem setStaging_driveState (st : Station) (g : Option ZoneStaging) (i : Axis) : (s.setStaging st g).driveState i = s.driveState i := rfl
@[simp] theorem setStaging_limits (st : Station) (g : Option ZoneStaging) (i : Axis) : (s.setStaging st g).limits i = s.limits i := rfl
@[simp] theorem setStaging_holds (st : Station) (g : Option ZoneStaging) (o : Station) (q : Right) : (s.setStaging st g).holds o q = s.holds o q := rfl
@[simp] theorem setStaging_linkState (st : Station) (g : Option ZoneStaging) (o : Station) : (s.setStaging st g).linkState o = s.linkState o := rfl
@[simp] theorem withPending_mode (cs : List Instr) (i : Axis) : (s.withPending cs).mode i = s.mode i := rfl
@[simp] theorem withPending_driveState (cs : List Instr) (i : Axis) : (s.withPending cs).driveState i = s.driveState i := rfl
@[simp] theorem withPending_limits (cs : List Instr) (i : Axis) : (s.withPending cs).limits i = s.limits i := rfl
@[simp] theorem withPending_holds (cs : List Instr) (o : Station) (q : Right) : (s.withPending cs).holds o q = s.holds o q := rfl
@[simp] theorem withPending_linkState (cs : List Instr) (o : Station) : (s.withPending cs).linkState o = s.linkState o := rfl

@[simp] theorem modLink_linkState_same (st : Station) (f : Link → Link) :
    (s.modLink st f).linkState st = (f (s.links.get st)).state := by simp [linkState]

end Sys2Proof.Machine.State
end

