-- ==== Sys2Proof/Laws/Raise.lean ====
section
/-! SUPPORT. What a stop raise and a judgement of the zones do: one way to prove what they keep, the fields they never
touch, and the generator and the level after a raise. -/

namespace Sys2Proof.Machine.State

variable {s : State} {P : State → Prop}

/-! ### Induction over a judgement and over a raise -/

/-- What the occupancy test keeps: it changes occupied flags, and acts by `rz`. -/
theorem testZones_keeps {rz : ZoneId → State → State} (zs : List ZoneId)
    (flag : ∀ t z b, P t → P (t.modZone z fun y => { y with occupied := b })) (act : ∀ t z, P t → P (rz z t)) (h : P s) :
    P (s.testZones rz zs) := by
  have flags : P (zs.foldl testFlag s) := by
    clear act
    induction zs generalizing s with
    | nil => exact h
    | cons z zs ih =>
      refine ih ?_
      unfold testFlag
      split
      · exact flag _ _ _ h
      · exact h
  have raises (fs : List ZoneId) {t : State} (ht : P t) : P (fs.foldl (fun t z => rz z t) t) := by
    induction fs generalizing t with
    | nil => exact ht
    | cons z fs ih => exact ih (act _ _ ht)
  exact raises _ flags

/-- What a judgement keeps. -/
theorem judgeWith_keeps {rz : ZoneId → State → State} (judge : ∀ t, P t → P t.rejudgeAll)
    (flag : ∀ t z b, P t → P (t.modZone z fun y => { y with occupied := b })) (act : ∀ t z, P t → P (rz z t)) (h : P s) :
    P (s.judgeWith rz) :=
  testZones_keeps _ flag act (judge _ h)

/-- What a raise keeps: it is one raise, and may be a judgement with raises of ZONE_OCCUPIED at level 2. -/
theorem raise_keeps (c : Cause) (level : Nat) (judge : ∀ t, P t → P t.rejudgeAll)
    (flag : ∀ t z b, P t → P (t.modZone z fun y => { y with occupied := b }))
    (act : ∀ t z, P t → P (t.raiseOnce (.zoneOccupied z) 2)) (h : P (s.raiseOnce c level)) : P (s.raise c level) := by
  unfold raise
  simp only
  split
  · exact h
  · exact judgeWith_keeps judge flag (fun t z => act t z) h

/-- What a judgement of all zones keeps. -/
theorem judgeZones_keeps (judge : ∀ t, P t → P t.rejudgeAll)
    (flag : ∀ t z b, P t → P (t.modZone z fun y => { y with occupied := b }))
    (act : ∀ t z, P t → P (t.raiseOnce (.zoneOccupied z) 2)) (h : P s) : P s.judgeZones :=
  judgeWith_keeps judge flag (fun t z ht => raise_keeps _ _ judge flag act (act t z ht)) h

/-! ### Fields that a raise never touches -/

@[simp] theorem closeTake_stations (r : CloseReason) : (s.closeTake r).stations = s.stations := by
  unfold closeTake
  split
  · rfl
  · split
    · split <;> simp
    · rfl

@[simp] theorem raiseOnce_stations (c : Cause) (level : Nat) : (s.raiseOnce c level).stations = s.stations := by
  simp only [raiseOnce, portOnRaise, closeTake_stations, engineOnRaise, generatorOnRaise, takeRaise]
  split <;> split <;> simp [setModes, dropTake, returnAxes]

@[simp] theorem raise_stations (c : Cause) (level : Nat) : (s.raise c level).stations = s.stations :=
  raise_keeps (P := fun t => t.stations = s.stations) c level (fun t h => h) (fun t z b h => by simpa using h)
    (fun t z h => by simpa using h) (by simp)

@[simp] theorem judgeZones_stations : s.judgeZones.stations = s.stations :=
  judgeZones_keeps (P := fun t => t.stations = s.stations) (fun t h => h) (fun t z b h => by simpa using h)
    (fun t z h => by simpa using h) rfl

@[simp] theorem closeTake_maps (r : CloseReason) : (s.closeTake r).maps = s.maps := by
  unfold closeTake
  split
  · rfl
  · split
    · split <;> simp
    · rfl

@[simp] theorem raiseOnce_maps (c : Cause) (level : Nat) : (s.raiseOnce c level).maps = s.maps := by
  simp only [raiseOnce, portOnRaise, closeTake_maps, engineOnRaise, generatorOnRaise, takeRaise]
  split <;> split <;> simp [setModes, dropTake, returnAxes]

@[simp] theorem raise_maps (c : Cause) (level : Nat) : (s.raise c level).maps = s.maps :=
  raise_keeps (P := fun t => t.maps = s.maps) c level (fun t h => h) (fun t z b h => by simpa using h)
    (fun t z h => by simpa using h) (by simp)

@[simp] theorem judgeZones_maps : s.judgeZones.maps = s.maps :=
  judgeZones_keeps (P := fun t => t.maps = s.maps) (fun t h => h) (fun t z b h => by simpa using h)
    (fun t z h => by simpa using h) rfl

@[simp] theorem closeTake_mapStaging (r : CloseReason) : (s.closeTake r).mapStaging = s.mapStaging := by
  unfold closeTake
  split
  · rfl
  · split
    · split <;> simp
    · rfl

@[simp] theorem raiseOnce_mapStaging (c : Cause) (level : Nat) : (s.raiseOnce c level).mapStaging = s.mapStaging := by
  simp only [raiseOnce, portOnRaise, closeTake_mapStaging, engineOnRaise, generatorOnRaise, takeRaise]
  split <;> split <;> simp [setModes, dropTake, returnAxes]

@[simp] theorem raise_mapStaging (c : Cause) (level : Nat) : (s.raise c level).mapStaging = s.mapStaging :=
  raise_keeps (P := fun t => t.mapStaging = s.mapStaging) c level (fun t h => h) (fun t z b h => by simpa using h)
    (fun t z h => by simpa using h) (by simp)

@[simp] theorem judgeZones_mapStaging : s.judgeZones.mapStaging = s.mapStaging :=
  judgeZones_keeps (P := fun t => t.mapStaging = s.mapStaging) (fun t h => h) (fun t z b h => by simpa using h)
    (fun t z h => by simpa using h) rfl

@[simp] theorem closeTake_time (r : CloseReason) : (s.closeTake r).time = s.time := by
  unfold closeTake
  split
  · rfl
  · split
    · split <;> simp
    · rfl

@[simp] theorem raiseOnce_time (c : Cause) (level : Nat) : (s.raiseOnce c level).time = s.time := by
  simp only [raiseOnce, portOnRaise, closeTake_time, engineOnRaise, generatorOnRaise, takeRaise]
  split <;> split <;> simp [setModes, dropTake, returnAxes]

@[simp] theorem raise_time (c : Cause) (level : Nat) : (s.raise c level).time = s.time :=
  raise_keeps (P := fun t => t.time = s.time) c level (fun t h => h) (fun t z b h => by simpa using h)
    (fun t z h => by simpa using h) (by simp)

@[simp] theorem judgeZones_time : s.judgeZones.time = s.time :=
  judgeZones_keeps (P := fun t => t.time = s.time) (fun t h => h) (fun t z b h => by simpa using h)
    (fun t z h => by simpa using h) rfl

@[simp] theorem closeTake_marks (r : CloseReason) : (s.closeTake r).marks = s.marks := by
  unfold closeTake
  split
  · rfl
  · split
    · split <;> simp
    · rfl

@[simp] theorem raiseOnce_marks (c : Cause) (level : Nat) : (s.raiseOnce c level).marks = s.marks := by
  simp only [raiseOnce, portOnRaise, closeTake_marks, engineOnRaise, generatorOnRaise, takeRaise]
  split <;> split <;> simp [setModes, dropTake, returnAxes]

@[simp] theorem raise_marks (c : Cause) (level : Nat) : (s.raise c level).marks = s.marks :=
  raise_keeps (P := fun t => t.marks = s.marks) c level (fun t h => h) (fun t z b h => by simpa using h)
    (fun t z h => by simpa using h) (by simp)

@[simp] theorem judgeZones_marks : s.judgeZones.marks = s.marks :=
  judgeZones_keeps (P := fun t => t.marks = s.marks) (fun t h => h) (fun t z b h => by simpa using h)
    (fun t z h => by simpa using h) rfl

@[simp] theorem closeTake_flashPort (r : CloseReason) : (s.closeTake r).flashPort = s.flashPort := by
  unfold closeTake
  split
  · rfl
  · split
    · split <;> simp
    · rfl

@[simp] theorem raiseOnce_flashPort (c : Cause) (level : Nat) : (s.raiseOnce c level).flashPort = s.flashPort := by
  simp only [raiseOnce, portOnRaise, closeTake_flashPort, engineOnRaise, generatorOnRaise, takeRaise]
  split <;> split <;> simp [setModes, dropTake, returnAxes]

@[simp] theorem raise_flashPort (c : Cause) (level : Nat) : (s.raise c level).flashPort = s.flashPort :=
  raise_keeps (P := fun t => t.flashPort = s.flashPort) c level (fun t h => h) (fun t z b h => by simpa using h)
    (fun t z h => by simpa using h) (by simp)

@[simp] theorem judgeZones_flashPort : s.judgeZones.flashPort = s.flashPort :=
  judgeZones_keeps (P := fun t => t.flashPort = s.flashPort) (fun t h => h) (fun t z b h => by simpa using h)
    (fun t z h => by simpa using h) rfl

@[simp] theorem closeTake_flash (r : CloseReason) : (s.closeTake r).flash = s.flash := by
  unfold closeTake
  split
  · rfl
  · split
    · split <;> simp
    · rfl

@[simp] theorem raiseOnce_flash (c : Cause) (level : Nat) : (s.raiseOnce c level).flash = s.flash := by
  simp only [raiseOnce, portOnRaise, closeTake_flash, engineOnRaise, generatorOnRaise, takeRaise]
  split <;> split <;> simp [setModes, dropTake, returnAxes]

@[simp] theorem raise_flash (c : Cause) (level : Nat) : (s.raise c level).flash = s.flash :=
  raise_keeps (P := fun t => t.flash = s.flash) c level (fun t h => h) (fun t z b h => by simpa using h)
    (fun t z h => by simpa using h) (by simp)

@[simp] theorem judgeZones_flash : s.judgeZones.flash = s.flash :=
  judgeZones_keeps (P := fun t => t.flash = s.flash) (fun t h => h) (fun t z b h => by simpa using h)
    (fun t z h => by simpa using h) rfl

@[simp] theorem closeTake_configDefaulted (r : CloseReason) : (s.closeTake r).configDefaulted = s.configDefaulted := by
  unfold closeTake
  split
  · rfl
  · split
    · split <;> simp
    · rfl

@[simp] theorem raiseOnce_configDefaulted (c : Cause) (level : Nat) :
    (s.raiseOnce c level).configDefaulted = s.configDefaulted := by
  simp only [raiseOnce, portOnRaise, closeTake_configDefaulted, engineOnRaise, generatorOnRaise, takeRaise]
  split <;> split <;> simp [setModes, dropTake, returnAxes]

@[simp] theorem raise_configDefaulted (c : Cause) (level : Nat) : (s.raise c level).configDefaulted = s.configDefaulted :=
  raise_keeps (P := fun t => t.configDefaulted = s.configDefaulted) c level (fun t h => h) (fun t z b h => by simpa using h)
    (fun t z h => by simpa using h) (by simp)

@[simp] theorem judgeZones_configDefaulted : s.judgeZones.configDefaulted = s.configDefaulted :=
  judgeZones_keeps (P := fun t => t.configDefaulted = s.configDefaulted) (fun t h => h) (fun t z b h => by simpa using h)
    (fun t z h => by simpa using h) rfl

@[simp] theorem closeTake_reportCount (r : CloseReason) : (s.closeTake r).reportCount = s.reportCount := by
  unfold closeTake
  split
  · rfl
  · split
    · split <;> simp
    · rfl

@[simp] theorem raiseOnce_reportCount (c : Cause) (level : Nat) : (s.raiseOnce c level).reportCount = s.reportCount := by
  simp only [raiseOnce, portOnRaise, closeTake_reportCount, engineOnRaise, generatorOnRaise, takeRaise]
  split <;> split <;> simp [setModes, dropTake, returnAxes]

@[simp] theorem raise_reportCount (c : Cause) (level : Nat) : (s.raise c level).reportCount = s.reportCount :=
  raise_keeps (P := fun t => t.reportCount = s.reportCount) c level (fun t h => h) (fun t z b h => by simpa using h)
    (fun t z h => by simpa using h) (by simp)

@[simp] theorem judgeZones_reportCount : s.judgeZones.reportCount = s.reportCount :=
  judgeZones_keeps (P := fun t => t.reportCount = s.reportCount) (fun t h => h) (fun t z b h => by simpa using h)
    (fun t z h => by simpa using h) rfl

@[simp] theorem closeTake_sysreset (r : CloseReason) : (s.closeTake r).sysreset = s.sysreset := by
  unfold closeTake
  split
  · rfl
  · split
    · split <;> simp
    · rfl

@[simp] theorem raiseOnce_sysreset (c : Cause) (level : Nat) : (s.raiseOnce c level).sysreset = s.sysreset := by
  simp only [raiseOnce, portOnRaise, closeTake_sysreset, engineOnRaise, generatorOnRaise, takeRaise]
  split <;> split <;> simp [setModes, dropTake, returnAxes]

@[simp] theorem raise_sysreset (c : Cause) (level : Nat) : (s.raise c level).sysreset = s.sysreset :=
  raise_keeps (P := fun t => t.sysreset = s.sysreset) c level (fun t h => h) (fun t z b h => by simpa using h)
    (fun t z h => by simpa using h) (by simp)

@[simp] theorem judgeZones_sysreset : s.judgeZones.sysreset = s.sysreset :=
  judgeZones_keeps (P := fun t => t.sysreset = s.sysreset) (fun t h => h) (fun t z b h => by simpa using h)
    (fun t z h => by simpa using h) rfl

@[simp] theorem closeTake_taken (r : CloseReason) : (s.closeTake r).taken = s.taken := by
  unfold closeTake
  split
  · rfl
  · split
    · split <;> simp
    · rfl

@[simp] theorem raiseOnce_taken (c : Cause) (level : Nat) : (s.raiseOnce c level).taken = s.taken := by
  simp only [raiseOnce, portOnRaise, closeTake_taken, engineOnRaise, generatorOnRaise, takeRaise]
  split <;> split <;> simp [setModes, dropTake, returnAxes]

@[simp] theorem raise_taken (c : Cause) (level : Nat) : (s.raise c level).taken = s.taken :=
  raise_keeps (P := fun t => t.taken = s.taken) c level (fun t h => h) (fun t z b h => by simpa using h)
    (fun t z h => by simpa using h) (by simp)

@[simp] theorem judgeZones_taken : s.judgeZones.taken = s.taken :=
  judgeZones_keeps (P := fun t => t.taken = s.taken) (fun t h => h) (fun t z b h => by simpa using h)
    (fun t z h => by simpa using h) rfl

@[simp] theorem closeTake_freeCount (r : CloseReason) : (s.closeTake r).freeCount = s.freeCount := by
  unfold closeTake
  split
  · rfl
  · split
    · split <;> simp
    · rfl

@[simp] theorem raiseOnce_freeCount (c : Cause) (level : Nat) : (s.raiseOnce c level).freeCount = s.freeCount := by
  simp only [raiseOnce, portOnRaise, closeTake_freeCount, engineOnRaise, generatorOnRaise, takeRaise]
  split <;> split <;> simp [setModes, dropTake, returnAxes]

@[simp] theorem raise_freeCount (c : Cause) (level : Nat) : (s.raise c level).freeCount = s.freeCount :=
  raise_keeps (P := fun t => t.freeCount = s.freeCount) c level (fun t h => h) (fun t z b h => by simpa using h)
    (fun t z h => by simpa using h) (by simp)

@[simp] theorem judgeZones_freeCount : s.judgeZones.freeCount = s.freeCount :=
  judgeZones_keeps (P := fun t => t.freeCount = s.freeCount) (fun t h => h) (fun t z b h => by simpa using h)
    (fun t z h => by simpa using h) rfl

@[simp] theorem closeTake_pending (r : CloseReason) : (s.closeTake r).pending = s.pending := by
  unfold closeTake
  split
  · rfl
  · split
    · split <;> simp
    · rfl

@[simp] theorem raiseOnce_pending (c : Cause) (level : Nat) : (s.raiseOnce c level).pending = s.pending := by
  simp only [raiseOnce, portOnRaise, closeTake_pending, engineOnRaise, generatorOnRaise, takeRaise]
  split <;> split <;> simp [setModes, dropTake, returnAxes]

@[simp] theorem raise_pending (c : Cause) (level : Nat) : (s.raise c level).pending = s.pending :=
  raise_keeps (P := fun t => t.pending = s.pending) c level (fun t h => h) (fun t z b h => by simpa using h)
    (fun t z h => by simpa using h) (by simp)

@[simp] theorem judgeZones_pending : s.judgeZones.pending = s.pending :=
  judgeZones_keeps (P := fun t => t.pending = s.pending) (fun t h => h) (fun t z b h => by simpa using h)
    (fun t z h => by simpa using h) rfl

/-! ### The generator and the level after a raise -/

/-- A raise holds the generator and clears its standstill-reported flag (R20). -/
@[simp] theorem raiseOnce_generator (c : Cause) (level : Nat) : (s.raiseOnce c level).generator = ⟨true, false⟩ := by
  have close : ∀ (t : State) r, (t.closeTake r).generator = t.generator := by
    intro t r
    unfold closeTake
    split
    · rfl
    · split
      · split <;> simp
      · rfl
  simp only [raiseOnce, portOnRaise, close, engineOnRaise]
  split <;> simp [setModes, dropTake, returnAxes, generatorOnRaise]

@[simp] theorem raise_generator (c : Cause) (level : Nat) : (s.raise c level).generator = ⟨true, false⟩ :=
  raise_keeps (P := fun t => t.generator = ⟨true, false⟩) c level (fun t h => h) (fun t z b h => by simpa using h)
    (fun t z h => by simp) (by simp)

/-- One raise at the Stop Controller (R108). -/
@[simp] theorem raiseOnce_stop (c : Cause) (level : Nat) :
    (s.raiseOnce c level).stop = s.stop.raised c level (s.stopRecord c level) := by
  have close : ∀ (t : State) r, (t.closeTake r).stop = t.stop := by
    intro t r
    unfold closeTake
    split
    · rfl
    · split
      · split <;> simp
      · rfl
  simp only [raiseOnce, portOnRaise, close, engineOnRaise]
  split <;> simp [setModes, dropTake, returnAxes, generatorOnRaise, takeRaise] <;> split <;> simp

/-- The level after a raise is at least the raise's and at least the level before (R107, R108). -/
theorem le_raise_level (c : Cause) (level : Nat) : max s.stop.level level ≤ (s.raise c level).stop.level :=
  raise_keeps (P := fun t => max s.stop.level level ≤ t.stop.level) c level (fun t h => h)
    (fun t z b h => by simpa using h)
    (fun t z h => by simp only [raiseOnce_stop, StopController.raised]; omega)
    (by simp [StopController.raised])

/-- A raise to level 2 or more brings the level to the larger of the two (R107, R108). -/
theorem raise_level (c : Cause) {level : Nat} (h : 2 ≤ level) : (s.raise c level).stop.level = max s.stop.level level :=
  raise_keeps (P := fun t => t.stop.level = max s.stop.level level) c level (fun t h => h)
    (fun t z b h => by simpa using h)
    (fun t z ht => by simp only [raiseOnce_stop, StopController.raised, ht]; omega)
    (by simp [StopController.raised])

end Sys2Proof.Machine.State

namespace Sys2Proof.Machine

/-! ### What a raise leaves, in the terms of statements -/

/-- Two states that agree on what a stop leaves alone. -/
theorem changedByAStop_of {s t : State} (h1 : t.stations = s.stations) (h2 : t.maps = s.maps)
    (h3 : t.mapStaging = s.mapStaging) (h4 : t.time = s.time) (h5 : t.marks = s.marks) (h6 : t.flashPort = s.flashPort) (h7 : t.flash = s.flash) (h8 : t.configDefaulted = s.configDefaulted) (h9 : t.reportCount = s.reportCount) (h10 : t.sysreset = s.sysreset) (h11 : t.taken = s.taken) (h12 : t.freeCount = s.freeCount) (h13 : t.pending = s.pending) : s.ChangedByAStop t := by
  cases s; cases t; simp_all [State.ChangedByAStop]

/-- A raise changes no more than a stop may. -/
theorem raise_changedByAStop {s u : State} (c l) (h : s.ChangedByAStop u) : s.ChangedByAStop (u.raise c l) := by
  unfold State.ChangedByAStop at h
  apply changedByAStop_of <;> simp only [State.raise_stations, State.raise_maps, State.raise_mapStaging,
      State.raise_time, State.raise_marks, State.raise_flashPort, State.raise_flash, State.raise_configDefaulted, State.raise_reportCount, State.raise_sysreset, State.raise_taken, State.raise_freeCount, State.raise_pending] <;> rw [h]

/-- A judgement of the zones changes no more than a stop may. -/
theorem judgeZones_changedByAStop {s u : State} (h : s.ChangedByAStop u) : s.ChangedByAStop (u.judgeZones) := by
  unfold State.ChangedByAStop at h
  apply changedByAStop_of <;> simp only [State.judgeZones_stations, State.judgeZones_maps, State.judgeZones_mapStaging,
      State.judgeZones_time, State.judgeZones_marks, State.judgeZones_flashPort, State.judgeZones_flash, State.judgeZones_configDefaulted, State.judgeZones_reportCount, State.judgeZones_sysreset, State.judgeZones_taken, State.judgeZones_freeCount, State.judgeZones_pending] <;> rw [h]

/-- The causes that the Stop Controller remembers after a raise: its own, and all before (R108). -/
theorem raised_memory (k : StopController) (c c' : Cause) (l : Nat) (r : StopRecord) (h : c' = c ∨ c' ∈ k.memory) :
    c' ∈ (k.raised c l r).memory := by
  simp only [StopController.raised]
  split
  · rename_i hh; rcases h with rfl | h
    · simp
    · simp [h]
  · rename_i hh
    rcases h with rfl | h
    · simp only [StopController.records?] at hh
      by_contra hc
      apply hh; simp [hc]
    · exact h

/-- A raise remembers its cause and forgets none (R108). -/
theorem raise_memory (s : State) (c c' : Cause) (l : Nat) (h : c' = c ∨ c' ∈ s.stop.memory) :
    c' ∈ (s.raise c l).stop.memory :=
  State.raise_keeps (P := fun t => c' ∈ t.stop.memory) c l (fun t h => h) (fun t z b h => by simpa using h)
    (fun t z ht => by simp only [State.raiseOnce_stop]; exact raised_memory _ _ _ _ _ (.inr ht))
    (by simp only [State.raiseOnce_stop]; exact raised_memory _ _ _ _ _ h)

/-- The close of a take leaves the recorder IDLE and changes the Take Store and notices alone (R154). -/
theorem closeTake_frame (x : State) (r) : (x.closeTake r).takes.recorder = none ∧ (x.closeTake r).port = x.port ∧
    (x.closeTake r).channels = x.channels ∧ (x.closeTake r).auth = x.auth ∧ (x.closeTake r).play = x.play ∧
    (x.closeTake r).zones = x.zones ∧ (x.closeTake r).stop = x.stop ∧
    (∀ o, (x.closeTake r).linkState o = x.linkState o) ∧
    (∀ o, ((x.closeTake r).links.get o).replies = (x.links.get o).replies) := by
  have pr : ∀ (y : State) (st : Station) f o, ((y.post st f).links.get o).replies = (y.links.get o).replies := by
    intro y st f o; unfold State.post; split
    · simp only [State.modLink_links, Tab.get_modify]; split
      · subst_vars; rfl
      · rfl
    · rfl
  unfold State.closeTake
  split
  · exact ⟨by assumption, rfl, rfl, rfl, rfl, rfl, rfl, fun _ => rfl, fun _ => rfl⟩
  · split
    · split <;> exact ⟨by simp, by simp, by simp, by simp, by simp, by simp, by simp, fun o => by simp; rfl,
        fun o => by rw [pr]⟩
    · exact ⟨rfl, rfl, rfl, rfl, rfl, rfl, rfl, fun _ => rfl, fun _ => rfl⟩

/-- A notice leaves the reply queues alone. -/
theorem post_replies (y : State) (st : Station) (f o) : ((y.post st f).links.get o).replies = (y.links.get o).replies := by
    unfold State.post; split
    · simp only [State.modLink_links, Tab.get_modify]; split
      · subst_vars; rfl
      · rfl
    · rfl

/-- A notice to every station leaves the reply queues alone. -/
theorem postAll_replies (y : State) (f o) : ((y.postAll f).links.get o).replies = (y.links.get o).replies := by
  simp only [State.postAll, Tab.get_map]; split <;> rfl

/-- After one raise no take runs or records (R110). -/
theorem raiseOnce_stopsTakes (s : State) (c l) : ((s.raiseOnce c l).play.state = .idle ∨ ∃ h e, (s.raiseOnce c l).play.state = .paused h e) ∧ (s.raiseOnce c l).takes.recorder = none := by
  simp only [State.raiseOnce, State.portOnRaise, closeTake_frame]
  refine ⟨?_, trivial⟩
  have e : (s.takeRaise c l).generatorOnRaise.play = s.play := by
    simp only [State.generatorOnRaise, State.takeRaise]; split <;> rfl
  simp only [State.engineOnRaise]
  split <;> rename_i he
  · left; exact he
  · right; exact ⟨_, _, he⟩
  · left; simp [State.dropTake, State.returnAxes]
  · left; simp [State.dropTake, State.returnAxes]
  · right; exact ⟨_, _, by simp [State.setModes]; exact ⟨rfl, rfl⟩⟩

/-- After a raise no take runs or records (R110). -/
theorem raise_stopsTakes (s : State) (c l) : ((s.raise c l).play.state = .idle ∨ ∃ h e, (s.raise c l).play.state = .paused h e) ∧ (s.raise c l).takes.recorder = none :=
  State.raise_keeps (P := fun t => (t.play.state = .idle ∨ ∃ h e, t.play.state = .paused h e) ∧
      t.takes.recorder = none) c l (fun t h => h) (fun t z b h => by simpa using h) (fun t z ht => raiseOnce_stopsTakes _ _ _) (raiseOnce_stopsTakes _ _ _)

/-- One raise leaves the reply queues alone. -/
theorem raiseOnce_replies (s : State) (c l o) : ((s.raiseOnce c l).links.get o).replies = (s.links.get o).replies := by
  simp only [State.raiseOnce, State.portOnRaise, closeTake_frame]
  have e : ((s.takeRaise c l).generatorOnRaise.links.get o).replies = (s.links.get o).replies := by
    simp only [State.generatorOnRaise, State.takeRaise]; split
    · rw [postAll_replies]
    · rfl
  rw [← e]
  simp only [State.engineOnRaise]
  split
  · rfl
  · rfl
  · rw [post_replies]; rfl
  · rw [post_replies]; rfl
  · rfl

/-- A raise leaves the reply queues alone. -/
theorem raise_replies (s : State) (c l o) : ((s.raise c l).links.get o).replies = (s.links.get o).replies :=
  State.raise_keeps (P := fun t => (t.links.get o).replies = (s.links.get o).replies) c l (fun t h => h) (fun t z b h => by simpa using h) (fun t z ht => (raiseOnce_replies _ _ _ _).trans ht) (raiseOnce_replies _ _ _ _)

/-- A judgement of the zones leaves the reply queues alone. -/
theorem judgeZones_replies (s : State) (o) : ((s.judgeZones).links.get o).replies = (s.links.get o).replies :=
  State.judgeZones_keeps (P := fun t => (t.links.get o).replies = (s.links.get o).replies) (fun t h => h) (fun t z b h => by simpa using h) (fun t z ht => (raiseOnce_replies _ _ _ _).trans ht) rfl

/-- The engine on a raise leaves the Drive Port and the Zone Monitor alone. -/
theorem engineOnRaise_port (s : State) : s.engineOnRaise.port = s.port ∧ s.engineOnRaise.zones = s.zones := by
  simp only [State.engineOnRaise]
  split <;> simp [State.dropTake, State.returnAxes, State.setModes]

/-- The generator on a raise leaves drives, zones, channels and the Authority Table alone. -/
theorem takeRaise_frame (s : State) (c l) : (s.takeRaise c l).generatorOnRaise.port = s.port ∧
    (s.takeRaise c l).generatorOnRaise.zones = s.zones ∧ (s.takeRaise c l).generatorOnRaise.channels = s.channels ∧
    (s.takeRaise c l).generatorOnRaise.auth = s.auth := by
  simp only [State.generatorOnRaise, State.takeRaise]; split <;> simp

/-- A drive record after one raise (R58). -/
theorem raiseOnce_drive (s : State) (c l j) : (s.raiseOnce c l).port.drives.get j = (s.port.drives.get j).onRaise (max s.stop.level l) := by
  simp only [State.raiseOnce, State.portOnRaise, closeTake_frame, engineOnRaise_port, takeRaise_frame, Tab.get_map]

/-- One raise leaves the Zone Monitor alone. -/
theorem raiseOnce_zones (s : State) (c l) : (s.raiseOnce c l).zones = s.zones := by
  simp only [State.raiseOnce, State.portOnRaise, closeTake_frame, engineOnRaise_port, takeRaise_frame]

/-- A raise at level 3 leaves no drive powered (R58). -/
theorem raise_unpowered (s : State) (c) (h : s.stop.level ≤ 3) : (s.raise c 3).stop.level = 3 ∧
    ∀ j, ((s.raise c 3).driveState j).powered = false :=
  State.raise_keeps (P := fun t => t.stop.level = 3 ∧
      ∀ j, (t.driveState j).powered = false) c 3 (fun t h => h) (fun t z b h => by simpa [State.driveState] using h)
    (fun t z ht => ⟨by simp [StopController.raised, ht.1], fun j => by
      have := ht.2 j
      simp only [State.driveState, raiseOnce_drive, ht.1] at *
      revert this
      generalize (t.port.drives.get j) = d
      simp only [Drive.onRaise]
      cases hd : d.state <;> simp [DriveState.powered, hd]⟩)
    ⟨by simp [StopController.raised]; omega, fun j => by
      simp only [State.driveState, raiseOnce_drive]
      have : max s.stop.level 3 = 3 := by omega
      rw [this]
      generalize (s.port.drives.get j) = d
      simp only [Drive.onRaise]
      cases hd : d.state <;> simp [DriveState.powered, hd]⟩

/-- A raise that lifts the level to 3 asserts CUT (R115). -/
theorem raise_cut (s : State) (c) (h : s.stop.level < 3) : (s.raise c 3).stop.cut = true :=
  State.raise_keeps (P := fun t => t.stop.cut = true) c 3 (fun t h => h) (fun t z b h => by simpa using h)
    (fun t z ht => by simp [StopController.raised, ht])
    (by simp [StopController.raised, h])

/-- With the engine IDLE a raise is one raise: the crane mode does not change. -/
theorem raise_idle (s : State) (c l) (h : s.play.state = .idle) : s.raise c l = s.raiseOnce c l := by
  have : (s.raiseOnce c l).playbackMode = s.playbackMode := by
    have : (s.raiseOnce c l).auth = s.auth := by
      simp only [State.raiseOnce, State.portOnRaise, closeTake_frame]
      have e : (s.takeRaise c l).generatorOnRaise.play = s.play := by
        simp only [State.generatorOnRaise, State.takeRaise]; split <;> rfl
      simp only [State.engineOnRaise, e, h, takeRaise_frame]
    simp only [State.playbackMode, State.mode, this]
  unfold State.raise; simp only [this, if_true]

end Sys2Proof.Machine
end

