-- ==== Sys2Proof/Laws/Reports.lean ====
section
/-! SUPPORT. The sections of a state report, each read back field by field. -/

namespace Sys2Proof.Machine

/-- Section 0 holds the Stop Controller (R126). -/
theorem stopSection_holds (s : State) : s.StopSection s.section0 := by
  unfold State.StopSection State.section0
  have h40 := s.time.now.isLt
  refine ⟨by simp, ?_, ?_, ?_, ?_, ?_, ?_, ?_, ?_, ?_⟩
  · simp [natAt, slice_left, slice_all, beNat_beBytes]; omega
  · simp [slice_left, slice_right, slice_all, byte_eq]
  · simp [slice_left, slice_right, slice_all]
  · simp [slice_left, slice_right, slice_all]
  · rw [natAt_byte (v := s.stop.chain.code) (by simp [slice_left, slice_right,
      slice_all]) (by cases s.stop.chain <;> decide)]
    cases s.stop.chain <;> rfl
  · rw [natAt_byte (v := s.stopFlags) (by simp [slice_left, slice_right, slice_all]) ?_]
    all_goals unfold State.stopFlags bitsOf
    all_goals cases s.stop.cut <;> cases s.stop.localResetSeen <;> cases s.configDefaulted <;> decide
  · simp [slice_left, slice_right, slice_all]
  · simp [slice_left, slice_right, slice_all, byte_eq]
  · simp [slice_right, slice_all]

/-- Sections 1 to 10 hold the axes (R26, R60, R81). -/
theorem axisSection_holds (s : State) (j : Axis) : s.AxisSection j (s.axisSection j) := by
  unfold State.AxisSection State.axisSection
  have hl : (velocityBytes (s.channels.get j).moving).length = 3 := by
    unfold velocityBytes; split <;> simp
  have hr : (lastReportBytes (s.port.drives.get j).lastReport).length = 5 := by
    unfold lastReportBytes; split <;> simp
  have hs : (setpointBytes (s.setpointsNow.get j)).length = 4 := by simp [setpointBytes]
  have hsp : s.setpointsNow.get j = (s.channels.get j).moving.map fun m => toCount m.p := by
    simp [State.setpointsNow]
  refine ⟨by simp [hl, hr, hs], ?_, ?_, ?_, ?_, ?_, ?_, ?_, ?_, ?_⟩
  · simp [slice_left, slice_all]
  · rw [natAt_byte (v := (s.mode j).code) (by simp [slice_left, slice_right, slice_all]) (by cases s.mode j <;> decide)]
    cases s.mode j <;> rfl
  · simp [slice_left, slice_right, slice_all]
  · have hk : ∀ k, k = (s.auth.get j).command.kindCode → k < 256 := by
      rintro k rfl; cases (s.auth.get j).command <;> simp [Command.kindCode]
    rw [natAt_byte (v := (s.auth.get j).command.kindCode) (by simp [slice_left, slice_right, slice_all]) (hk _ rfl)]
    have hv : ∀ x y : List Byte, slice (optBytes 1 ((s.auth.get j).owner.map fun st => st.val) ++ byte (s.mode j).code ++
      optBytes 1 ((s.auth.get j).trimStation.map fun st => st.val) ++ byte (s.auth.get j).command.kindCode ++
      beInt 4 (s.auth.get j).command.value ++ x) 4 4 = beInt 4 (s.auth.get j).command.value := by
      intro x y; simp [slice_left, slice_right, slice_all]
    simp only [List.append_assoc] at hv ⊢
    rw [hv _ []]
    cases (s.auth.get j).command <;> exact ⟨rfl, rfl⟩
  · rw [hsp]
    cases h : (s.channels.get j).moving with
    | none =>
      refine ⟨?_, ?_⟩
      · simp [slice_left, slice_right, slice_all, setpointBytes]; rfl
      · simp [slice_left, slice_right, slice_all, setpointBytes, velocityBytes]
    | some m =>
      refine ⟨?_, ?_⟩
      · simp [slice_left, slice_right, slice_all, setpointBytes]
      · simp [slice_left, slice_right, slice_all, setpointBytes, velocityBytes]
  · cases h : (s.port.drives.get j).lastReport with
    | none => simp [slice_left, slice_right, slice_all, hl, hs, lastReportBytes]
    | some r =>
      obtain ⟨c, x⟩ := r
      refine ⟨by simp [slice_left, slice_right, slice_all, hl, hs, lastReportBytes], ?_⟩
      rw [natAt_byte (v := c.code) (by simp [slice_left, slice_right, slice_all, hl, hs,
          lastReportBytes]) (by cases c <;> decide)]
      cases c <;> rfl
  · rw [natAt_byte (v := (s.driveState j).code) (by simp [slice_left, slice_right, slice_all, hl, hs,
      hr]) (by cases s.driveState j <;> decide)]
    cases s.driveState j <;> rfl
  · rw [natAt_byte (v := s.axisFlags j) (by simp [slice_right, slice_all, hl, hs, hr]) ?_]
    all_goals unfold State.axisFlags bitsOf
    all_goals
      cases (s.auth.get j).stale <;> cases (s.port.drives.get j).followingError <;>
      cases (s.channels.get j).commissioning <;> by_cases hd : s.driveState j = .active <;> simp [hd] <;> decide
  · rw [natAt_byte (v := s.axisFlags j) (by simp [slice_right, slice_all, hl, hs, hr]) ?_]
    all_goals unfold State.axisFlags bitsOf
    all_goals
      cases (s.auth.get j).stale <;> cases (s.port.drives.get j).followingError <;>
      cases (s.channels.get j).commissioning <;> by_cases hd : s.driveState j = .active <;> simp [hd] <;> decide

/-- Section 11 holds the lens axes (R39). -/
theorem lensSection_holds (s : State) : s.LensSection s.section11 := by
  unfold State.LensSection State.section11
  refine ⟨by simp [allLenses], fun l => ?_⟩
  fin_cases l
  all_goals
    refine ⟨by simp [allLenses, slice_left, slice_right, slice_all],
        by simp [allLenses, slice_left, slice_right, slice_all], ?_⟩
    exact natAt_flag (by simp [allLenses, slice_left, slice_right, slice_all])

/-- Section 12 holds the stations (R81). -/
theorem stationSection_holds (s : State) (st : Station) : s.StationSection st (s.section12 st) := by
  unfold State.StationSection State.section12
  refine ⟨by simp [allStations], fun o => ?_, ?_, ?_, ?_, ?_, ?_, ?_⟩
  · have hr := (s.stations.get o).rights.isLt
    have hc : (s.linkState o).code < 256 := by cases s.linkState o <;> decide
    have hp : ∀ x : Station, [LinkState.down, .aligning, .up, .test][(s.linkState x).code]? = some (s.linkState x) := by
      intro x; cases s.linkState x <;> rfl
    fin_cases o
    all_goals
      refine ⟨by simp [allStations, slice_left, slice_right, slice_all, byte_eq], ?_, ?_⟩
      · exact natAt_be (by simp [allStations, slice_left, slice_right, slice_all]) (by simp at hr ⊢; omega)
      · rw [natAt_byte (v := (s.linkState _).code) (by simp [allStations, slice_left, slice_right, slice_all]) hc]
        exact hp _
  · simp [allStations, slice_left, slice_right, slice_all, byte_eq]
  · simp [allStations, slice_left, slice_right, slice_all]
  · rw [natAt_byte (v := stagingByte (s.zones.staging.get st)) (by simp [allStations, slice_left, slice_right,
      slice_all]) ?_]
    · unfold stagingByte; cases s.zones.staging.get st <;> rfl
    · unfold stagingByte; cases h : s.zones.staging.get st with
      | none => simp
      | some g => have := g.zone.index.isLt; simp only; split <;> omega
  · simp [allStations, slice_left, slice_right, slice_all]
  · rw [natAt_byte (v := testFlags (s.links.get st).test) (by simp [allStations, slice_left, slice_right, slice_all]) ?_]
    all_goals unfold testFlags bitsOf; cases (s.links.get st).test.live <;> cases (s.links.get st).test.sticky <;> decide
  · simp [allStations, slice_right, slice_all, byte_eq]

/-- Section 13 holds presence and zones (R104). -/
theorem zoneSection_holds (s : State) : s.ZoneSection s.section13 := by
  unfold State.ZoneSection State.section13
  have hc : allChannels = List.finRange 8 := by decide
  have he : ∀ f, s.entryField f < 256 ^ 2 := fun f => lt_of_lt_of_le (bitsOf_lt _) (by simp [allZones, allChannels])
  have hb : ∀ (f : Zone → Bool) (z : ZoneId) (i : Nat), i = (if z.table = .set then z.index.val else 8 + z.index.val) →
      (s.entryField f).testBit i = f (s.zone z) := by
    rintro f ⟨tb, ix⟩ i rfl
    unfold State.entryField
    rw [testBit_bitsOf]
    cases tb <;> fin_cases ix <;> rfl
  refine ⟨by simp, fun c => ?_, ?_, ?_, fun z i hi => ⟨?_, ?_, ?_⟩⟩
  · obtain ⟨d1, d2⟩ := digits_finRange 8 (fun c => (s.zones.channels.get c).state.code) fun i => by
      cases (s.zones.channels.get i).state <;> decide
    have hp : s.presenceField = ((List.finRange 8).map fun c => (s.zones.channels.get c).state.code * 4 ^ c.val).sum := by
      rw [State.presenceField, hc]
    rw [natAt_be (v := s.presenceField) (by simp [slice_left, slice_all]) (by rw [hp]; exact d1.trans_le (by norm_num)),
        hp, d2 c]
    cases (s.zones.channels.get c).state <;> rfl
  · simp [slice_left, slice_right, slice_all, byte_eq]
  · rw [natAt_flag (b := s.playbackMode) (by simp [slice_left, slice_right, slice_all])]
    have : s.playbackMode = true ↔ ∃ j, (s.mode j).underTake = true := by
      unfold State.playbackMode
      rw [List.any_eq_true]
      exact ⟨fun ⟨j, _, h⟩ => ⟨j, h⟩, fun ⟨j, h⟩ => ⟨j, (by decide : ∀ j : Axis, j ∈ allAxes) j, h⟩⟩
    rw [← this]
    cases s.playbackMode <;> simp
  · rw [natAt_be (v := s.entryField fun z => z.entry.enabled) (by simp [slice_left, slice_right, slice_all]) (he _),
      hb _ z i hi]
  · rw [natAt_be (v := s.entryField fun z => z.active) (by simp [slice_left, slice_right, slice_all]) (he _), hb _ z i hi]
  · rw [natAt_be (v := s.entryField fun z => z.occupied) (by simp [slice_right, slice_all]) (he _), hb _ z i hi]

/-- Section 14 holds the timebase (R132, R134). -/
theorem timeSection_holds (s : State) : s.TimeSection s.section14 := by
  unfold State.TimeSection State.section14
  have hd : (differenceBytes s.time.lastDifference).length = 4 := by unfold differenceBytes; split <;> simp
  refine ⟨by simp [hd], ?_, ?_, ?_, ?_, ?_, ?_, ?_, ?_⟩
  · rw [natAt_byte (v := s.time.settings.mode.code) (by simp [slice_left, slice_right,
      slice_all]) (by cases s.time.settings.mode <;> decide)]
    cases s.time.settings.mode <;> rfl
  · simp [slice_left, slice_right, slice_all]
  · simp [slice_left, slice_right, slice_all]
  · rw [natAt_byte (v := s.time.settings.counter.code) (by simp [slice_left, slice_right,
      slice_all]) (by cases s.time.settings.counter <;> decide)]
    cases s.time.settings.counter <;> rfl
  · simp [slice_left, slice_right, slice_all]; rfl
  · simp [slice_left, slice_right, slice_all]
  · rw [natAt_byte (v := s.time.flags) (by simp [slice_left, slice_right, slice_all]) ?_]
    all_goals unfold TimebaseUnit.flags bitsOf
    all_goals cases s.time.drift <;> cases s.time.lastDifference <;> simp <;> decide
  · cases h : s.time.lastDifference <;> simp [slice_left, slice_right, slice_all, differenceBytes]

/-- Section 15 holds the Mark Latch (R142). -/
theorem markSection_holds (s : State) : s.MarkSection s.section15 := by
  unfold State.MarkSection State.section15
  refine ⟨by simp, ?_, ?_, ?_, ?_⟩
  · simp [slice_left, slice_right, slice_all]
  · cases h : s.marks.published with
    | none =>
      simp only [Option.map_none, optBytes]
      rw [List.append_assoc, List.append_assoc, List.append_assoc, slice_right (by simp)]
      rw [← List.append_assoc, slice_left (by simp)]
      simp [slice, ones]
    | some m =>
      have := m.timebase.isLt
      refine ⟨natAt_be (v := m.timebase.toNat) (by simp [slice_left, slice_right, slice_all,
          optBytes]) (by norm_num; omega), ?_⟩
      rw [natAt_be (v := m.source.code) (by simp [slice_left, slice_right, slice_all, optBytes]) ?_]
      · cases m.source <;> rfl
      · cases m.source with
        | input => decide
        | request o => have := o.isLt; simp [MarkSource.code]; omega
  · exact natAt_flag (by simp [slice_left, slice_right, slice_all])
  · refine natAt_byte (by simp [slice_right, slice_all]; rfl) ?_
    refine lt_of_le_of_lt (List.length_filter_le _ _) (by decide)

/-- Section 16 holds the Take Store (R165). -/
theorem takeSection_holds (s : State) : s.TakeSection s.section16 := by
  unfold State.TakeSection State.section16
  refine ⟨by simp, ?_, ?_, fun i => ?_⟩
  · cases h : s.takes.recordingTake with
    | none => simp [optBytes, slice, ones]
    | some x =>
      obtain ⟨r, k⟩ := x
      have := r.slot.isLt
      exact ⟨natAt_be (by simp [slice_left, slice_all, optBytes]) (by norm_num; omega),
          by simp [slice_left, slice_right, slice_all, optBytes]⟩
  · simp [slice_left, slice_right, slice_all]
  · obtain ⟨d1, d2⟩ := digits_finRange 32 (fun i => (s.takes.slots.get i).code) fun i => by
      cases (s.takes.slots.get i) <;> simp [TakeSlot.code]
    have e1 : ∀ v, natAt (optBytes 1 (s.takes.recordingTake.map fun x => x.1.slot.val) ++
        optBytes 4 (s.takes.recordingTake.map fun x => x.2.count) ++ beBytes 2 s.takes.freeList.length ++
        beBytes 8 s.takes.slotField ++ v) 7 8 = s.takes.slotField := fun v =>
      natAt_be (by simp [slice_left, slice_right, slice_all]) (lt_of_lt_of_le (b := 4 ^ 32) d1 (by norm_num))
    have e2 : natAt (optBytes 1 (s.takes.recordingTake.map fun x => x.1.slot.val) ++
        optBytes 4 (s.takes.recordingTake.map fun x => x.2.count) ++ beBytes 2 s.takes.freeList.length ++
        beBytes 8 s.takes.slotField ++ beBytes 4 s.takes.protectField) 15 4 = s.takes.protectField :=
      natAt_be (by simp [slice_right, slice_all]) (by
        have := bitsOf_lt (s.takes.slots.list.map TakeSlot.protectBit)
        simp only [List.length_map, s.takes.slots.len] at this
        exact this)
    have e3 : s.takes.protectField.testBit i.val = (s.takes.slots.get i).protectBit := by
      rw [TakeStore.protectField, testBit_bitsOf, List.getD_eq_getElem?_getD]
      simp [Tab.get, s.takes.slots.len]
    rw [e1, e2, e3, TakeStore.slotField, d2 i]
    cases s.takes.slots.get i <;> exact ⟨rfl, rfl⟩

/-- The first fields of section 17 for an engine that is not IDLE. -/
theorem engineFields_of (state : Nat) (h : Hold) (start : Option Time) (go : Bool) (e : Nat) (rest : List Byte)
    (hs : state < 256) :
    engineFields (byte state ++ optBytes 1 (some h.slot.val) ++ optBytes 1 (some h.station.val) ++
      byte (bitsOf [start.isSome, go,
        h.ignoreLens]) ++ optBytes 5 (start.map fun x => x.toNat) ++ optBytes 4 (some e) ++ rest)
      state h start go e := by
  have h1 := h.slot.isLt
  have h2 := h.station.isLt
  obtain ⟨hb, hb'⟩ := bitsOf_three start.isSome go h.ignoreLens
  refine ⟨natAt_byte (by simp [slice_left, slice_all]) hs, ?_, ?_, ?_, ?_, ?_⟩
  · exact natAt_be (by simp [slice_left, slice_right, slice_all]; rfl) (by norm_num; omega)
  · exact natAt_be (by simp [slice_left, slice_right, slice_all]; rfl) (by norm_num; omega)
  · rw [← hb]; exact natAt_byte (by simp [slice_left, slice_right, slice_all]) hb'
  · simp [slice_left, slice_right, slice_all]
  · simp [slice_left, slice_right, slice_all]; rfl

/-- Section 17 holds the Playback Engine (R186). -/
theorem engineSection_holds (s : State) : s.EngineSection s.section17 := by
  refine ⟨by simp [State.section17], ?_, ?_, ?_, ?_, ?_⟩
  · unfold State.section17
    cases h : s.play.state with
    | idle =>
      have a : ∀ x y : List Byte, byte 0 ++ ones 1 ++ ones 1 ++ byte 0 ++ ones 5 ++ ones 4 ++ x =
          byte 0 ++ (ones 2 ++ (byte 0 ++ (ones 9 ++ x))) := by
        intros; simp [ones, byte]
      simp only [List.append_assoc] at a ⊢
      refine ⟨natAt_byte (v := 0) ?_ (by decide), ?_, natAt_byte (v := 0) ?_ (by decide), ?_⟩
      all_goals
        simp only [EngineState.code, EngineState.flags, EngineState.hold?, EngineState.start?, EngineState.elapsed?,
            Option.map_none, optBytes, a _ []]
        simp [slice_left, slice_right, slice_all]
    | seeking c =>
      simpa [List.append_assoc, EngineState.code, EngineState.flags, EngineState.hold?, EngineState.start?,
          EngineState.elapsed?]
        using engineFields_of 1 c.hold c.start c.go c.runStart _ (by decide)
    | ready c =>
      simpa [List.append_assoc, EngineState.code, EngineState.flags, EngineState.hold?, EngineState.start?,
          EngineState.elapsed?]
        using engineFields_of 2 c.hold c.start c.go c.runStart _ (by decide)
    | running c e =>
      simpa [List.append_assoc, EngineState.code, EngineState.flags, EngineState.hold?, EngineState.start?,
          EngineState.elapsed?]
        using engineFields_of 3 c none false e _ (by decide)
    | paused c e =>
      simpa [List.append_assoc, EngineState.code, EngineState.flags, EngineState.hold?, EngineState.start?,
          EngineState.elapsed?]
        using engineFields_of 4 c none false e _ (by decide)
  all_goals simp [State.section17, slice_left, slice_right, slice_all]

/-- Section 18 holds the flash operation (R199). -/
theorem flashSection_holds (s : State) : s.FlashSection s.section18 := by
  unfold State.FlashSection State.section18
  cases h : s.flashPort with
  | none => exact ⟨by simp, natAt_byte (v := 0) (by simp [slice_left, slice_all]) (by decide),
      by simp [slice_right, slice_all]⟩
  | some op =>
    have hk : op.kind.code + 1 < 256 := by cases op.kind <;> decide
    have h1 : natAt (byte (op.kind.code + 1) ++ beBytes 2 op.first ++ beBytes 2 op.last ++ beBytes 2 op.done) 0 1 =
        op.kind.code + 1 :=
      natAt_byte (by simp [slice_left, slice_all]) hk
    refine ⟨by simp, ?_, by rw [h1]; simp, ?_, ?_, ?_⟩
    · rw [h1]; cases op.kind <;> rfl
    all_goals simp [slice_left, slice_right, slice_all]

/-- The number of a notice section. -/
theorem noticeSection_number {α : Type} {n : Nat} {x : Option α} {f : α → List Byte} {y} (h : y ∈ noticeSection n x f) :
    y.1 = n := by
  unfold noticeSection at h
  cases x <;> simp_all

/-- Notice sections are numbered from 19 on. -/
theorem noticeSections_number {n : Notices} {y} (h : y ∈ noticeSections n) : 19 ≤ y.1 := by
  unfold noticeSections at h
  simp only [List.mem_append] at h
  rcases h with ((((((h | h) | h) | h) | h) | h) | h) | h <;> rw [noticeSection_number h] <;> decide

/-- Every section of a report holds what its number stands for. -/
theorem sections_hold (s : State) (st : Station) (x) (h : x ∈ s.sections st) : s.SectionHolds st x.1 x.2 := by
  unfold State.sections at h
  simp only [List.mem_append, List.mem_map, List.mem_cons, List.not_mem_nil, or_false] at h
  unfold State.SectionHolds
  rcases h with ((h | ⟨j, -, h⟩) | h | h | h | h | h | h | h | h) | h
  · subst h; simp; exact stopSection_holds s
  · subst h
    have := j.isLt
    refine ⟨fun h => by simp at h, fun i hi => ?_, fun h => ?_, fun h => ?_, fun h => ?_, fun h => ?_, fun h => ?_,
        fun h => ?_, fun h => ?_, fun h => ?_⟩
    · rw [show i = j from Fin.ext (by simp only at hi; omega)]; exact axisSection_holds s j
    all_goals (simp only at h; omega)
  · subst h; refine ⟨?_, fun i hi => ?_, ?_, ?_, ?_, ?_, ?_, ?_, ?_, ?_⟩ <;> simp at *
    · omega
    · exact lensSection_holds s
  · subst h; refine ⟨?_, fun i hi => ?_, ?_, ?_, ?_, ?_, ?_, ?_, ?_, ?_⟩ <;> simp at *
    · omega
    · exact stationSection_holds s st
  · subst h; refine ⟨?_, fun i hi => ?_, ?_, ?_, ?_, ?_, ?_, ?_, ?_, ?_⟩ <;> simp at *
    · omega
    · exact zoneSection_holds s
  · subst h; refine ⟨?_, fun i hi => ?_, ?_, ?_, ?_, ?_, ?_, ?_, ?_, ?_⟩ <;> simp at *
    · omega
    · exact timeSection_holds s
  · subst h; refine ⟨?_, fun i hi => ?_, ?_, ?_, ?_, ?_, ?_, ?_, ?_, ?_⟩ <;> simp at *
    · omega
    · exact markSection_holds s
  · subst h; refine ⟨?_, fun i hi => ?_, ?_, ?_, ?_, ?_, ?_, ?_, ?_, ?_⟩ <;> simp at *
    · omega
    · exact takeSection_holds s
  · subst h; refine ⟨?_, fun i hi => ?_, ?_, ?_, ?_, ?_, ?_, ?_, ?_, ?_⟩ <;> simp at *
    · omega
    · exact engineSection_holds s
  · subst h; refine ⟨?_, fun i hi => ?_, ?_, ?_, ?_, ?_, ?_, ?_, ?_, ?_⟩ <;> simp at *
    · omega
    · exact flashSection_holds s
  · have := noticeSections_number h
    refine ⟨?_, fun i hi => ?_, ?_, ?_, ?_, ?_, ?_, ?_, ?_, ?_⟩
    all_goals omega

end Sys2Proof.Machine
end

