-- ==== Sys2Proof/Laws/Replies.lean ====
section
/-! SUPPORT. The parts that MARK_READ, READ_STOPS and TAKE_INFO answer, each read back field by field. -/

namespace Sys2Proof.Machine

/-- The last part of a layout. -/
theorem slice_end {a b : List Byte} {i n : Nat} (ha : a.length = i) (hb : b.length = n) : slice (a ++ b) i n = b := by
  subst ha
  rw [slice_right (Nat.le_refl _), Nat.sub_self, slice_all hb]

theorem setpointBytes_length (x : Option Int) : (setpointBytes x).length = 4 := by simp [setpointBytes]

theorem takePosition_length (x : Option (TakeNo × Nat)) : (takePositionBytes x).length = 4 := by simp [takePositionBytes]

/-- The axes of a half and their places. -/
theorem halfAxes_get (second : Bool) (j : Axis) (first : Nat) (hf : first = if second then 5 else 0) (h1 : first ≤ j.val)
    (h2 : j.val < first + 5) : (halfAxes second)[j.val - first]? = some j := by
  subst hf
  cases second <;> fin_cases j <;> simp_all [halfAxes]

/-- Five setpoints side by side, behind some bytes. -/
theorem fiveSetpoints_hold (x : Tab 10 (Option Int)) (second : Bool) (before : List Byte) :
    FiveSetpoints x (if second then 5 else 0) before.length
      (before ++ (halfAxes second).flatMap fun j => setpointBytes (x.get j)) := by
  intro j h1 h2
  rw [slice_right (by omega), Nat.add_sub_cancel_left]
  have := slice_flatMap (l := halfAxes second) (f := fun j => setpointBytes (x.get j)) (L := 4)
    (fun _ => setpointBytes_length _) (halfAxes_get second j _ rfl h1 h2) (a := 0) (n := 4) (by decide)
  rw [Nat.add_zero] at this
  rw [this, slice_all (setpointBytes_length _)]; rfl

/-- Parts 1 and 2 of a mark hold its setpoints (R140). -/
theorem markSetpoints_hold (m : Mark) (second : Bool) : (markSetpoints m second).length = 20 ∧
    FiveSetpoints m.setpoints (if second then 5 else 0) 0 (markSetpoints m second) := by
  refine ⟨?_, fiveSetpoints_hold m.setpoints second []⟩
  unfold markSetpoints
  rw [flatMap_length fun j => setpointBytes_length _]; cases second <;> rfl

/-- The flag bits of a mark. -/
theorem markFlags_bit (m : Mark) (i : Nat) : (markFlags m).testBit i =
    (m.setpoints.list.map (fun x => x.isNone) ++ [m.playing.isSome, m.recording.isSome] ++
      m.userValues.list.map fun x => x.isSome).getD i false := testBit_bitsOf _ _

theorem markFlags_lt (m : Mark) : markFlags m < 32768 := by
  have := bitsOf_lt (m.setpoints.list.map (fun x => x.isNone) ++ [m.playing.isSome, m.recording.isSome] ++
    m.userValues.list.map fun x => x.isSome)
  simpa [m.setpoints.len, m.userValues.len, markFlags] using this

/-- Part 0 of a mark holds its fields (R139). -/
theorem markPart0_holds (m : Mark) : m.Part0Holds (markPart0 m) := by
  have h40 := m.timebase.isLt
  have hu : (userValueBytes m).length = 8 := by simp [userValueBytes]
  have hp := takePosition_length
  have flags : natAt (markPart0 m) 6 2 = markFlags m :=
    natAt_be (by simp [markPart0, slice_left, slice_right, slice_all]) ((markFlags_lt m).trans (by norm_num))
  have sp : slice (markPart0 m) 8 4 = takePositionBytes m.playing := by
    unfold markPart0
    rw [slice_left (by simp [hp]), slice_left (by simp [hp]), slice_end (by simp) (hp _)]
  have sr : slice (markPart0 m) 12 4 = takePositionBytes m.recording := by
    unfold markPart0
    rw [slice_left (by simp [hp]), slice_end (by simp [hp]) (hp _)]
  have l1 := m.setpoints.len
  have l2 := m.userValues.len
  unfold Mark.Part0Holds
  rw [flags]
  refine ⟨by simp [markPart0, hp, hu], ?_, ?_, markFlags_lt m, fun j => ?_, ?_, ?_, fun l => ?_, ?_, fun h => ?_⟩
  · rw [natAt_byte (v := m.source.code) (by simp [markPart0, slice_left, slice_all])
      (by cases m.source <;> simp [MarkSource.code]; omega)]
    cases m.source <;> rfl
  · exact natAt_be (by simp [markPart0, slice_left, slice_right, slice_all]) (by simpa using h40)
  · have := j.isLt
    rw [markFlags_bit, List.getD_eq_getElem?_getD, List.append_assoc, List.getElem?_append_left (by simp [l1])]
    simp [Tab.get, l1]
  · rw [markFlags_bit, List.getD_eq_getElem?_getD, List.append_assoc, List.getElem?_append_right (by simp [l1])]
    simp [l1]
  · rw [markFlags_bit, List.getD_eq_getElem?_getD, List.append_assoc, List.getElem?_append_right (by simp [l1])]
    simp [l1]
  · have := l.isLt
    rw [markFlags_bit, List.getD_eq_getElem?_getD, List.getElem?_append_right (by simp [l1])]
    simp [l1, Tab.get, l2]
  · rintro x place (⟨rfl, rfl⟩ | ⟨rfl, rfl⟩)
    all_goals
      refine ⟨fun h => ?_, fun i n h hn => ?_⟩
      · first
        | exact sp.trans (by rw [h]; rfl)
        | exact sr.trans (by rw [h]; rfl)
      · have := i.isLt
        first
        | exact natAt_be (sp.trans (by rw [h]; rfl)) (by norm_num; omega)
        | exact natAt_be (sr.trans (by rw [h]; rfl)) (by norm_num; omega)
  · have e : m.userValues.list = [m.userValues.get 0, m.userValues.get 1, m.userValues.get 2] := by
      obtain ⟨us, hus⟩ := m.userValues
      match us, hus with
      | [a, b, c], _ => rfl
    have b : ∀ l, (m.userValues.get l).getD 1048575 < 1048576 := by
      intro l
      cases hl : m.userValues.get l with
      | none => decide
      | some u => exact h l u hl
    have b0 := b 0
    have b1 := b 1
    have b2 := b 2
    have v : natAt (markPart0 m) 16 8 = (((m.userValues.get 0).getD 1048575 * 1048576 + (m.userValues.get 1).getD 1048575) *
        1048576 + (m.userValues.get 2).getD 1048575) * 16 := by
      refine natAt_be ?_ (by norm_num; omega)
      simp only [markPart0]
      rw [slice_end (by simp [hp]) hu, userValueBytes, e]
      simp
    rw [v]
    refine ⟨by omega, fun l => ?_⟩
    fin_cases l <;> simp <;> omega

/-- A half of a record holds its setpoints (R124). -/
theorem recordSetpoints_hold (x : Option (Tab 10 (Option Int))) (second : Bool) :
    RecordHalf x (if second then 5 else 0) (recordSetpoints x second) := by
  have hl : ∀ t : Tab 10 (Option Int), ((halfAxes second).flatMap fun j => setpointBytes (t.get j)).length = 20 := by
    intro t; rw [flatMap_length fun j => setpointBytes_length _]; cases second <;> rfl
  unfold RecordHalf recordSetpoints
  cases x with
  | none => exact ⟨by simp, natAt_byte (by simp [slice_left, slice_all]) (by decide), by simp [slice_right, slice_all]⟩
  | some t =>
    have hb := bitsOf_lt ((halfAxes second).map fun j => (t.get j).isNone)
    have hh : (halfAxes second).length = 5 := by cases second <;> rfl
    rw [List.length_map, hh] at hb
    have e : natAt (byte (bitsOf ((halfAxes second).map fun j => (t.get j).isNone)) ++
        (halfAxes second).flatMap fun j => setpointBytes (t.get j)) 0 1 =
          bitsOf ((halfAxes second).map fun j => (t.get j).isNone) :=
      natAt_byte (by simp [slice_left, slice_all]) (by omega)
    refine ⟨by simp [hl], by simp only [e]; exact hb, fiveSetpoints_hold t second (byte _), fun j h1 h2 => ?_⟩
    simp only [e]
    rw [testBit_bitsOf, List.getD_eq_getElem?_getD, List.getElem?_map, halfAxes_get second j _ rfl h1 h2]; rfl

/-- Each part of a stop record holds its fields (R124). -/
theorem recordPart_holds (r : StopRecord) (part : Nat) : r.PartHolds part (recordPart r part) := by
  have h40 := r.timebase.isLt
  have a := recordSetpoints_hold
  refine ⟨?_, ?_, ?_, ?_, ?_⟩
  · rintro rfl
    have hz : ∀ z : ZoneId, BitVec.ofNat 8 z.byte = zoneByte z := by
      rintro ⟨z, i⟩; cases z <;> simp [ZoneId.byte, zoneByte]
    show _ ∧ _
    simp only [recordPart, if_true]
    unfold recordPart0
    refine ⟨by simp, natAt_be (by simp [slice_left, slice_all]) (by simpa using h40),
      by simp [slice_left, slice_right, slice_all, byte_eq], by simp [slice_left, slice_right, slice_all, byte_eq],
      natAt_flag (by simp [slice_left, slice_right, slice_all]), ?_, ?_⟩
    · have e : slice (recordPart0 r) 8 4 = optBytes 1 (r.cause.zone?.map ZoneId.byte) ++
          (optBytes 1 (r.cause.axis?.map fun j => j.val) ++ (optBytes 1 (r.cause.station?.map fun st => st.val) ++
            optBytes 1 (r.cause.channel?.map fun c => c.val))) := by
        unfold recordPart0
        rw [slice_left (by simp), slice_left (by simp)]
        simp only [List.append_assoc]
        rw [← List.append_assoc, ← List.append_assoc, ← List.append_assoc, slice_end (by simp) (by simp)]
      unfold recordPart0 at e
      rw [e]
      cases r.cause <;>
        simp [Cause.subject, Cause.zone?, Cause.axis?, Cause.station?, Cause.channel?, optBytes, ones, beBytes, hz]
    · have e1 : slice (recordPart0 r) 12 1 = optBytes 1 (r.playback.map fun x => x.1.val) := by
        unfold recordPart0
        rw [slice_left (by simp), slice_end (by simp) (by simp)]
      have e2 : slice (recordPart0 r) 13 4 = optBytes 4 (r.playback.map fun x => x.2) := by
        unfold recordPart0
        rw [slice_end (by simp) (by simp)]
      have e3 : slice (recordPart0 r) 12 5 = optBytes 1 (r.playback.map fun x => x.1.val) ++
          optBytes 4 (r.playback.map fun x => x.2) := by
        unfold recordPart0
        rw [List.append_assoc, slice_end (by simp) (by simp)]
      unfold recordPart0 at e1 e2 e3
      cases hp : r.playback with
      | none => simp only [hp] at e3 ⊢; rw [e3]; rfl
      | some x =>
        have := x.1.isLt
        simp only [hp] at e1 e2 ⊢
        exact ⟨natAt_be e1 (by omega), e2⟩
  · rintro rfl; exact a _ false
  · rintro rfl; exact a _ true
  · rintro rfl; exact a _ false
  · rintro rfl; exact a _ true

/-- Parts 12 and 13 of a take's entry (R157). -/
theorem infoFirst_holds (t : Take) (second : Bool) :
    t.FirstPart (if second then 5 else 0) (infoFirst t (halfAxes second)) := by
  let f : Axis → List Byte := fun j => match t.dataFor j with
    | some d => beInt 4 (toCount (d.first.get j))
    | none => ones 4
  have hf : ∀ j, (f j).length = 4 := by
    intro j; simp only [f]; cases t.dataFor j <;> simp
  have hh : (halfAxes second).length = 5 := by cases second <;> rfl
  have eb : ((halfAxes second).zipIdx.map fun x => if (t.dataFor x.1).isSome then 2 ^ x.2 else 0).sum =
      bitsOf ((halfAxes second).map fun j => (t.dataFor j).isSome) := by
    simp [bitsOf, List.zipIdx_map, Function.comp_def]
  have ep : infoFirst t (halfAxes second) = (halfAxes second).flatMap f ++
      byte (bitsOf ((halfAxes second).map fun j => (t.dataFor j).isSome)) := by
    rw [← eb]; rfl
  have hl : ((halfAxes second).flatMap f).length = 20 := by rw [flatMap_length hf, hh]
  have hb := bitsOf_lt ((halfAxes second).map fun j => (t.dataFor j).isSome)
  rw [List.length_map, hh] at hb
  have en : natAt (infoFirst t (halfAxes second)) 20 1 = bitsOf ((halfAxes second).map fun j => (t.dataFor j).isSome) :=
    natAt_byte (by rw [ep, slice_end hl (by simp)]) (by omega)
  refine ⟨by simp [ep, hl], by rw [en]; exact hb, fun j h1 h2 => ?_⟩
  have hg := halfAxes_get second j _ rfl h1 h2
  have es : slice (infoFirst t (halfAxes second)) (4 * (j.val - if second then 5 else 0)) 4 = f j := by
    rw [ep, slice_left (by rw [hl]; omega)]
    have := slice_flatMap (l := halfAxes second) (f := f) hf hg (a := 0) (n := 4) (by decide)
    rw [Nat.add_zero] at this
    rw [this, slice_all (hf _)]
  have et : (natAt (infoFirst t (halfAxes second)) 20 1).testBit (j.val - if second then 5 else 0) =
      (t.dataFor j).isSome := by
    rw [en, testBit_bitsOf, List.getD_eq_getElem?_getD, List.getElem?_map, hg]; rfl
  show match t.dataFor j with | some d => _ | none => _
  rw [es, et]
  simp only [f]
  cases t.dataFor j <;> simp

/-- Part 1 of a take's entry (R157). -/
theorem infoPart1_holds (t : Take) : t.OriginPart (infoPart1 t) := by
  let f : Lens → List Byte := fun l => lensGenBytes ((t.dataFor (lensAxis l)).bind fun d => d.lens.get l)
  have hf : ∀ l, (f l).length = 3 := by
    intro l; simp only [f]
    rcases (t.dataFor (lensAxis l)).bind fun d => d.lens.get l with _ | _ | _ <;> simp [lensGenBytes]
  have ho : (originBytes t.origin).length = 6 := by cases t.origin <;> simp [originBytes]
  have ep : infoPart1 t = originBytes t.origin ++ optBytes 5 (t.data.map fun d => d.recordedAt.toNat) ++
      allLenses.flatMap f := rfl
  have hl : (allLenses.flatMap f).length = 9 := by rw [flatMap_length hf]; rfl
  have e0 : ∀ i n, i + n ≤ 6 → slice (infoPart1 t) i n = slice (originBytes t.origin) i n := by
    intro i n h; rw [ep, slice_left (by simp [ho]; omega), slice_left (by omega)]
  have e1 : slice (infoPart1 t) 6 5 = optBytes 5 (t.data.map fun d => d.recordedAt.toNat) := by
    rw [ep, slice_left (by simp [ho]), slice_end ho (by simp)]
  have e2 : ∀ (l : Lens) a n, a + n ≤ 3 → slice (infoPart1 t) (11 + 3 * l.val + a) n = slice (f l) a n := by
    intro l a n h
    rw [ep, slice_right (by simp [ho]; omega)]
    have hg : allLenses[l.val]? = some l := by fin_cases l <;> rfl
    rw [← slice_flatMap hf hg h]
    congr 1
    simp [ho]; omega
  refine ⟨by simp [ep, ho, hl], ?_, ?_, fun l => ?_⟩
  · have a0 := e0 0 1 (by decide)
    have a1 := e0 1 5 (by decide)
    have a2 := e0 1 1 (by decide)
    have a3 := e0 2 4 (by decide)
    cases h : t.origin with
    | manual =>
      simp only [h, originBytes] at a0 a1 ⊢
      exact ⟨natAt_byte (a0.trans (by simp [slice_left, slice_all])) (by decide),
        a1.trans (by simp [slice_right, slice_all]; rfl)⟩
    | layer i e =>
      simp only [h, originBytes] at a0 a2 a3 ⊢
      exact ⟨natAt_byte (a0.trans (by simp [slice, byte])) (by decide), a2.trans (by simp [slice, byte]),
        a3.trans (slice_end (by simp) (by simp))⟩
  · cases h : t.data with
    | none => simp only [h] at e1; exact e1
    | some d =>
      simp only [h] at e1
      have := d.recordedAt.isLt
      exact natAt_be e1 (by simpa using this)
  · have b0 := e2 l 0 1 (by decide)
    have b1 := e2 l 1 2 (by decide)
    have hp : 11 + 3 * l.val + 1 = 12 + 3 * l.val := by omega
    rw [Nat.add_zero] at b0
    rw [hp] at b1
    have q : (if t.axes.getLsbD (lensAxis l).val then t.data.bind fun d => d.lens.get l else none) =
        (t.dataFor (lensAxis l)).bind fun d => d.lens.get l := by unfold Take.dataFor; split <;> rfl
    rw [q]
    rcases h : (t.dataFor (lensAxis l)).bind fun d => d.lens.get l with _ | g | _ <;>
      simp only [f, h, lensGenBytes] at b0 b1 ⊢ <;>
      exact ⟨natAt_byte (b0.trans (by rw [slice_left (by simp), slice_all (by simp)])) (by decide),
        b1.trans (slice_end (by simp) (by simp))⟩

/-- Parts 2 to 11 of a take's entry (R157). -/
theorem infoEnvelope_holds (t : Take) (j : Axis) : t.EnvelopePart j (infoEnvelope t j) := by
  have h : ∀ e : Envelope, (envelopeBytes e).length = 20 := by intro e; simp [envelopeBytes]
  refine ⟨by unfold infoEnvelope; cases t.dataFor j <;> simp [h], ?_⟩
  show match t.dataFor j with | some d => _ | none => _
  unfold infoEnvelope
  cases t.dataFor j with
  | none => exact ⟨by simp [slice_left, slice_all], natAt_byte (by simp [slice_right, slice_all]) (by decide)⟩
  | some d =>
    refine ⟨?_, ?_, ?_, ?_, natAt_byte (slice_end (h _) (by simp)) (by decide)⟩
    all_goals
      dsimp only
      rw [slice_left (by simp [h])]
      simp [envelopeBytes, slice_left, slice_right, slice_all]

/-- Each part of a take's entry holds its fields (R157). -/
theorem infoPart_holds (t : Take) (state : Nat) (hs : state < 256) (reason : Option CloseReason) (part : Nat) :
    t.PartHolds state reason part (infoPart state t reason part) := by
  refine ⟨?_, ?_, fun j => ?_, ?_, ?_⟩
  · rintro rfl
    have h8 := t.label.len
    have ha := t.axes.isLt
    show _ ∧ _
    simp only [infoPart, if_true]
    unfold infoPart0 axisSetBytes
    refine ⟨by simp [h8], natAt_byte (by simp [slice_left, slice_all]) hs, ?_, natAt_be ?_ (ha.trans (by decide)), ?_, ?_, ?_,
      natAt_flag ?_, ?_⟩
    iterate 6 simp [slice_left, slice_right, slice_all, h8, byte_eq]
    have e : slice (infoPart0 state t reason) 19 1 = optBytes 1 (reason.map CloseReason.code) := by
      simp [infoPart0, axisSetBytes, slice_right, slice_all, h8]
    unfold infoPart0 axisSetBytes at e
    cases reason with
    | none => exact e
    | some c =>
      have : c.code < 256 := by cases c <;> decide
      dsimp only
      rw [natAt_be e (by simpa using this)]
      cases c <;> rfl
  · rintro rfl; exact infoPart1_holds t
  · rintro rfl
    have h : infoPart state t reason (j.val + 2) = infoEnvelope t j := by
      unfold infoPart
      rw [if_neg (by omega), if_neg (by omega), dif_pos (by omega)]; rfl
    rw [h]; exact infoEnvelope_holds t j
  · rintro rfl; exact infoFirst_holds t false
  · rintro rfl; exact infoFirst_holds t true

end Sys2Proof.Machine
end

