-- ==== Sys2Proof/Laws/Requests.lean ====
section
/-! SUPPORT. What a request, a stream frame and an event do in the terms of statements: when the part hears a frame, and what
state a request leaves that is refused, malformed or taken. -/

namespace Sys2Proof.Machine

/-! ### Awake and held in reset (R203) -/

/-- A command while the part is not held in reset. -/
theorem awake_next {s : State} (f : State → State) (h : s.sysreset = false) : awake s f = .next (f s) := by simp [awake, h]

/-- A command while the part is held in reset. -/
theorem awake_held {s : State} (f : State → State) (h : s.sysreset = true) : awake s f = .next s := by simp [awake, h]

namespace State

variable (s : State)

/-! ### The state after a valid frame, and with a reply placed -/

/-- The two writings of the state after a valid frame. -/
@[simp] theorem heard_eq (st : Station) : s.heard st = s.afterFrame st := rfl

/-- The two writings of a reply placed. -/
@[simp] theorem addReply_eq (st : Station) (tag code : Byte) (a : Answer) :
    s.addReply st tag code a = s.withReply st ⟨tag, code, a.result, a.detail⟩ := rfl

@[simp] theorem afterFrame_auth (st : Station) : (s.afterFrame st).auth = s.auth := rfl
@[simp] theorem afterFrame_channels (st : Station) : (s.afterFrame st).channels = s.channels := rfl
@[simp] theorem afterFrame_generator (st : Station) : (s.afterFrame st).generator = s.generator := rfl
@[simp] theorem afterFrame_maps (st : Station) : (s.afterFrame st).maps = s.maps := rfl
@[simp] theorem afterFrame_mapStaging (st : Station) : (s.afterFrame st).mapStaging = s.mapStaging := rfl
@[simp] theorem afterFrame_port (st : Station) : (s.afterFrame st).port = s.port := rfl
@[simp] theorem afterFrame_zones (st : Station) : (s.afterFrame st).zones = s.zones := rfl
@[simp] theorem afterFrame_stop (st : Station) : (s.afterFrame st).stop = s.stop := rfl
@[simp] theorem afterFrame_time (st : Station) : (s.afterFrame st).time = s.time := rfl
@[simp] theorem afterFrame_marks (st : Station) : (s.afterFrame st).marks = s.marks := rfl
@[simp] theorem afterFrame_takes (st : Station) : (s.afterFrame st).takes = s.takes := rfl
@[simp] theorem afterFrame_play (st : Station) : (s.afterFrame st).play = s.play := rfl
@[simp] theorem afterFrame_flashPort (st : Station) : (s.afterFrame st).flashPort = s.flashPort := rfl
@[simp] theorem afterFrame_flash (st : Station) : (s.afterFrame st).flash = s.flash := rfl
@[simp] theorem afterFrame_configDefaulted (st : Station) : (s.afterFrame st).configDefaulted = s.configDefaulted := rfl
@[simp] theorem afterFrame_reportCount (st : Station) : (s.afterFrame st).reportCount = s.reportCount := rfl
@[simp] theorem afterFrame_sysreset (st : Station) : (s.afterFrame st).sysreset = s.sysreset := rfl
@[simp] theorem afterFrame_taken (st : Station) : (s.afterFrame st).taken = s.taken := rfl
@[simp] theorem afterFrame_freeCount (st : Station) : (s.afterFrame st).freeCount = s.freeCount := rfl
@[simp] theorem afterFrame_pending (st : Station) : (s.afterFrame st).pending = s.pending := rfl
@[simp] theorem afterFrame_stations (st : Station) :
    (s.afterFrame st).stations = s.stations.modify st fun r => { r with lastFrame := 0 } := rfl
@[simp] theorem afterFrame_links (st : Station) :
    (s.afterFrame st).links = s.links.modify st fun l => { l with badRun := 0 } := rfl
@[simp] theorem withReply_stations (st : Station) (r : Reply) : (s.withReply st r).stations = s.stations := rfl
@[simp] theorem withReply_auth (st : Station) (r : Reply) : (s.withReply st r).auth = s.auth := rfl
@[simp] theorem withReply_channels (st : Station) (r : Reply) : (s.withReply st r).channels = s.channels := rfl
@[simp] theorem withReply_generator (st : Station) (r : Reply) : (s.withReply st r).generator = s.generator := rfl
@[simp] theorem withReply_maps (st : Station) (r : Reply) : (s.withReply st r).maps = s.maps := rfl
@[simp] theorem withReply_mapStaging (st : Station) (r : Reply) : (s.withReply st r).mapStaging = s.mapStaging := rfl
@[simp] theorem withReply_port (st : Station) (r : Reply) : (s.withReply st r).port = s.port := rfl
@[simp] theorem withReply_zones (st : Station) (r : Reply) : (s.withReply st r).zones = s.zones := rfl
@[simp] theorem withReply_stop (st : Station) (r : Reply) : (s.withReply st r).stop = s.stop := rfl
@[simp] theorem withReply_time (st : Station) (r : Reply) : (s.withReply st r).time = s.time := rfl
@[simp] theorem withReply_marks (st : Station) (r : Reply) : (s.withReply st r).marks = s.marks := rfl
@[simp] theorem withReply_takes (st : Station) (r : Reply) : (s.withReply st r).takes = s.takes := rfl
@[simp] theorem withReply_play (st : Station) (r : Reply) : (s.withReply st r).play = s.play := rfl
@[simp] theorem withReply_flashPort (st : Station) (r : Reply) : (s.withReply st r).flashPort = s.flashPort := rfl
@[simp] theorem withReply_flash (st : Station) (r : Reply) : (s.withReply st r).flash = s.flash := rfl
@[simp] theorem withReply_configDefaulted (st : Station) (r : Reply) : (s.withReply st r).configDefaulted = s.configDefaulted := rfl
@[simp] theorem withReply_reportCount (st : Station) (r : Reply) : (s.withReply st r).reportCount = s.reportCount := rfl
@[simp] theorem withReply_sysreset (st : Station) (r : Reply) : (s.withReply st r).sysreset = s.sysreset := rfl
@[simp] theorem withReply_taken (st : Station) (r : Reply) : (s.withReply st r).taken = s.taken := rfl
@[simp] theorem withReply_freeCount (st : Station) (r : Reply) : (s.withReply st r).freeCount = s.freeCount := rfl
@[simp] theorem withReply_pending (st : Station) (r : Reply) : (s.withReply st r).pending = s.pending := rfl
@[simp] theorem withReply_links (st : Station) (r : Reply) :
    (s.withReply st r).links = s.links.modify st fun l => { l with replies := l.replies ++ [r] } := rfl
@[simp] theorem afterFrame_mode (st : Station) (j : Axis) : (s.afterFrame st).mode j = s.mode j := rfl
@[simp] theorem withReply_mode (st : Station) (r : Reply) (j : Axis) : (s.withReply st r).mode j = s.mode j := rfl
@[simp] theorem afterFrame_driveState (st : Station) (j : Axis) : (s.afterFrame st).driveState j = s.driveState j := rfl
@[simp] theorem withReply_driveState (st : Station) (r : Reply) (j : Axis) : (s.withReply st r).driveState j = s.driveState j := rfl
@[simp] theorem afterFrame_limits (st : Station) (j : Axis) : (s.afterFrame st).limits j = s.limits j := rfl
@[simp] theorem withReply_limits (st : Station) (r : Reply) (j : Axis) : (s.withReply st r).limits j = s.limits j := rfl
@[simp] theorem afterFrame_linkState (st o : Station) : (s.afterFrame st).linkState o = s.linkState o := by
  simp only [linkState, afterFrame_links, Tab.get_modify]
  split <;> simp_all

@[simp] theorem withReply_linkState (st o : Station) (r : Reply) : (s.withReply st r).linkState o = s.linkState o := by
  simp only [linkState, withReply_links, Tab.get_modify]
  split <;> simp_all

@[simp] theorem afterFrame_holds (st o : Station) (q : Right) : (s.afterFrame st).holds o q = s.holds o q := by
  simp only [holds, afterFrame_stations, Tab.get_modify]
  split <;> simp_all

@[simp] theorem withReply_holds (st o : Station) (r : Reply) (q : Right) : (s.withReply st r).holds o q = s.holds o q := rfl

end State

/-! ### Requests (R190, R191) -/

/-- A request that is served and whose arguments decode: its rule decides on the state after the frame, and the answer is
placed at the tail of the queue. -/
theorem request_serves {α : Type} {s : State} {st : Station} {tag code : Byte} {payload : List Byte}
    {decode : List Byte → Option α} {serve : α → State → State × Answer} {a : α}
    (h : s.Serves st payload) (hd : decode payload = some a) :
    request st tag code payload decode serve s =
      .next (((serve a (s.afterFrame st)).1).withReply st
        ⟨tag, code, (serve a (s.afterFrame st)).2.result, (serve a (s.afterFrame st)).2.detail⟩) := by
  obtain ⟨⟨hr, hu, hp⟩, ha, hq, ho⟩ := h
  have hu' : (s.links.get st).state = .up := hu
  simp [request, awake, hr, State.takeRequest, State.onFrame, hu, maxPayload, hp, ha, State.submit, Link.isFull,
    maxReplies, Nat.not_le.mpr hq, ho, hu', serveArgs, hd]

/-- A request whose arguments do not decode is answered BAD_ARG, and nothing else comes of it. -/
theorem request_malformed {α : Type} {s : State} {st : Station} {tag code : Byte} {payload : List Byte}
    {decode : List Byte → Option α} {serve : α → State → State × Answer}
    (h : s.Serves st payload) (hd : decode payload = none) :
    request st tag code payload decode serve s = .next (s.answered st tag code .badArg []) := by
  obtain ⟨⟨hr, hu, hp⟩, ha, hq, ho⟩ := h
  have hu' : (s.links.get st).state = .up := hu
  simp [request, awake, hr, State.takeRequest, State.onFrame, hu, maxPayload, hp, ha, State.submit, Link.isFull,
    maxReplies, Nat.not_le.mpr hq, ho, hu', serveArgs, hd, State.answered]

/-- In TEST every request but TEST_END is refused with STATE (R191). -/
theorem takeRequest_test {s : State} {st : Station} {tag code : Byte} {payload : List Byte}
    {serve : List Byte → State → State × Answer} (hu : s.linkState st = .test) (hp : payload.length ≤ 24)
    (ha : (s.links.get st).assembly = none) (hq : (s.links.get st).replies.length < 8)
    (ho : (s.links.get st).overrun = none) (hc : code ≠ 43) :
    s.takeRequest st tag code payload serve = s.answered st tag code .state [] := by
  have hu' : (s.links.get st).state = .test := hu
  have hc' : code ≠ testEndCode := hc
  simp [State.takeRequest, State.onFrame, hu, maxPayload, hp, ha, State.submit, Link.isFull, maxReplies,
    Nat.not_le.mpr hq, ho, hu', hc', State.answered]

/-- What a judged request leaves when its verdict refuses it. -/
@[simp] theorem judged_refused (a : Answer) (s taken : State) (detail : List Byte) :
    judged (some a) s taken detail = (s, a) := rfl

/-- What a judged request leaves when it is taken. -/
@[simp] theorem judged_taken (s taken : State) (detail : List Byte) :
    judged none s taken detail = (taken, ⟨.ok, detail⟩) := rfl

/-- A stream frame on an UP link whose payload decodes (R189, R192). -/
theorem onStream_hears {α : Type} {s : State} {st : Station} {payload : List Byte} {decode : List Byte → Option α}
    {isTest : Bool} {inUp inTest : α → State → State} {a : α} (h : s.Hears st payload) (hd : decode payload = some a) :
    s.onStream st payload decode isTest inUp inTest = inUp a (s.afterFrame st) := by
  obtain ⟨_, hu, hp⟩ := h
  simp [State.onStream, hu, maxPayload, hp, hd]

end Sys2Proof.Machine
end

