-- ==== Sys2Proof/Laws/Update.lean ====
section
/-! SUPPORT. What an update does at which nothing stops the crane: the setpoint step, the counts, and the hand-off. -/

namespace Sys2Proof.Machine.State

/-- What the counts of an update leave as it is. -/
def Kept (s t : State) : Prop :=
  t.play = s.play ∧ t.takes = s.takes ∧ t.maps = s.maps ∧ t.port = s.port ∧ t.zones = s.zones ∧ t.stop = s.stop ∧
  t.generator = s.generator ∧ t.time.now = s.time.now ∧ t.reportCount = s.reportCount ∧
      (∀ st, t.linkState st = s.linkState st) ∧
  (∀ j, t.mode j = s.mode j ∧ (t.auth.get j).owner = (s.auth.get j).owner) ∧
  ∀ j, ∃ f : Target → Target, t.channels.get j =
    { s.channels.get j with moving := (s.channels.get j).moving.map fun m => { m with target := f m.target } }

theorem kept_refl (s : State) : s.Kept s := by
  refine ⟨rfl, rfl, rfl, rfl, rfl, rfl, rfl, rfl, rfl, fun _ => rfl, fun _ => ⟨rfl, rfl⟩, fun j => ⟨id, ?_⟩⟩
  cases h : s.channels.get j with
  | mk l c m a b d => cases m <;> rfl

theorem kept_trans {s t u : State} (h : s.Kept t) (h' : t.Kept u) : s.Kept u := by
  obtain ⟨a1, a2, a3, a4, a5, a6, a7, a8, a9, a10, a11, a12⟩ := h
  obtain ⟨b1, b2, b3, b4, b5, b6, b7, b8, b9, b10, b11, b12⟩ := h'
  refine ⟨b1.trans a1, b2.trans a2, b3.trans a3, b4.trans a4, b5.trans a5, b6.trans a6, b7.trans a7, b8.trans a8,
      b9.trans a9, fun st => (b10 st).trans (a10 st), fun j => ⟨(b11 j).1.trans (a11 j).1,
      (b11 j).2.trans (a11 j).2⟩, fun j => ?_⟩
  obtain ⟨f, hf⟩ := a12 j
  obtain ⟨g, hg⟩ := b12 j
  refine ⟨g ∘ f, ?_⟩
  rw [hg, hf]; simp only [Option.map_map]; rfl

/-- A fold keeps what each of its steps keeps. -/
theorem kept_fold {α : Type} (f : State → α → State) (l : List α) (P : State → Prop)
    (h : ∀ t a, P t → t.Kept (f t a) ∧ P (f t a)) (s : State) (hs : P s) :
    s.Kept (l.foldl f s) ∧ P (l.foldl f s) := by
  induction l generalizing s with
  | nil => exact ⟨kept_refl s, hs⟩
  | cons a l ih =>
    obtain ⟨h1, h2⟩ := h s a hs
    obtain ⟨i1, i2⟩ := ih (f s a) h2
    exact ⟨kept_trans h1 i1, i2⟩

/-- A channel left as it is is one whose target is left. -/
theorem chan_same (c : AxisChannel) :
    ∃ f : Target → Target, c = { c with moving := c.moving.map fun m => { m with target := f m.target } } := by
  refine ⟨id, ?_⟩
  cases c with
  | mk l c m a b d => cases m <;> rfl

/-! ### The counts -/

theorem countMove_kept (s : State) (st : Station) : s.Kept (s.countMove st) := by
  unfold countMove
  split
  · dsimp only; split
    · refine ⟨rfl, rfl, rfl, rfl, rfl, rfl, rfl, rfl, rfl, fun _ => rfl, fun j => ?_, fun j => ?_⟩
      · simp only [markStale, State.mode, Tab.get_map, modStation_auth]; split <;> exact ⟨rfl, rfl⟩
      · simp only [markStale, Tab.get_imap, modStation_channels]; split
        · exact ⟨fun _ => .velocity 0, rfl⟩
        · exact chan_same _
    · exact ⟨rfl, rfl, rfl, rfl, rfl, rfl, rfl, rfl, rfl, fun _ => rfl, fun _ => ⟨rfl, rfl⟩, fun j => chan_same _⟩
  · exact kept_refl s

/-- Counting the last-MOVE counts leaves the last-frame counts. -/
theorem countMove_frames (s : State) (st : Station) (o : Station) :
    ((s.countMove st).stations.get o).lastFrame = (s.stations.get o).lastFrame := by
  unfold countMove
  split
  · dsimp only; split <;> simp only [markStale, modStation_stations, Tab.get_modify] <;> split <;> simp [*]
  · rfl

/-- The last-frame count of a station that the update does not lose. -/
theorem countFrame_kept (s : State) (st : Station) (h : (s.stations.get st).lastFrame < 249) : s.Kept (s.countFrame st) ∧
    ∀ o, o ≠ st → ((s.countFrame st).stations.get o) = s.stations.get o := by
  unfold countFrame
  split
  · dsimp only
    rw [if_neg (by omega)]
    refine ⟨⟨rfl, rfl, rfl, rfl, rfl, rfl, rfl, rfl, rfl, fun _ => rfl, fun _ => ⟨rfl, rfl⟩, fun j => chan_same _⟩,
        fun o ho => ?_⟩
    simp [Tab.get_modify, ho]
  · exact ⟨kept_refl s, fun _ _ => rfl⟩

theorem foldFrame_kept (l : List Station) (hn : l.Nodup) (s : State)
    (h : ∀ st ∈ l, (s.stations.get st).lastFrame < 249) : s.Kept (l.foldl countFrame s) := by
  induction l generalizing s with
  | nil => exact kept_refl s
  | cons a l ih =>
    rw [List.nodup_cons] at hn
    obtain ⟨h1, h2⟩ := countFrame_kept s a (h a (List.mem_cons_self ..))
    refine kept_trans h1 (ih hn.2 _ fun st hs => ?_)
    have : st ≠ a := fun e => hn.1 (e ▸ hs)
    rw [h2 st this]; exact h st (List.mem_cons_of_mem _ hs)

theorem publishMark_kept (s : State) : s.Kept s.publishMark := by
  unfold publishMark
  split
  · exact ⟨rfl, rfl, rfl, rfl, rfl, rfl, rfl, rfl, rfl, fun _ => rfl, fun _ => ⟨rfl, rfl⟩, fun j => chan_same _⟩
  · refine ⟨rfl, rfl, rfl, rfl, rfl, rfl, rfl, rfl, rfl, fun o => ?_, fun _ => ⟨rfl, rfl⟩, fun j => chan_same _⟩
    simp only [State.linkState, postAll, Tab.get_map]; split <;> rfl

theorem removeReader_kept (s : State) (st : Station) : s.Kept (s.removeReader st) := by
  unfold removeReader
  have k : ∀ m, s.Kept { s with marks := m } := fun m => ⟨rfl, rfl, rfl, rfl, rfl, rfl, rfl, rfl, rfl, fun _ => rfl,
      fun _ => ⟨rfl, rfl⟩, fun j => chan_same _⟩
  split
  · dsimp only; split
    · exact kept_trans (k _) (publishMark_kept _)
    · exact k _
  · exact kept_refl s

theorem countMarks_kept (s : State) : s.Kept s.countMarks := by
  have k : ∀ (s : State) m, s.Kept { s with marks := m } := fun s m => ⟨rfl, rfl, rfl, rfl, rfl, rfl, rfl, rfl, rfl,
      fun _ => rfl, fun _ => ⟨rfl, rfl⟩, fun j => chan_same _⟩
  refine kept_trans (k s _) (kept_fold _ _ (fun _ => True) (fun t a _ => ⟨?_, trivial⟩) _ trivial).1
  unfold countReader; split
  · exact kept_refl t
  · split
    · exact removeReader_kept t a
    · exact k _ _

theorem countPeriod_kept (s : State) : s.Kept s.countPeriod := by
  unfold countPeriod
  split
  · exact ⟨rfl, rfl, rfl, rfl, rfl, rfl, rfl, rfl, rfl, fun _ => rfl, fun _ => ⟨rfl, rfl⟩, fun j => chan_same _⟩
  · refine ⟨rfl, rfl, rfl, rfl, rfl, rfl, rfl, ?_, rfl, fun _ => rfl, fun _ => ⟨rfl, rfl⟩, fun j => chan_same _⟩
    show s.time.countPeriod.now = _
    unfold TimebaseUnit.countPeriod; split
    · rfl
    · split <;> rfl

/-- The counts of an update that loses no station. -/
theorem countUpdate_kept (s : State) (h : ∀ st, (s.stations.get st).lastFrame < 249) : s.Kept s.countUpdate := by
  unfold countUpdate
  obtain ⟨k1, k2⟩ := kept_fold countMove allStations (fun t => ∀ st, (t.stations.get st).lastFrame < 249)
    (fun t a ht => ⟨countMove_kept t a, fun o => by rw [countMove_frames]; exact ht o⟩) s h
  refine kept_trans k1 (kept_trans (foldFrame_kept allStations (by decide) _ fun st _ => k2 st)
    (kept_trans (countMarks_kept _) (countPeriod_kept _)))

/-! ### The setpoint step -/

/-- With no zone active the setpoint step raises nothing, and the step of each axis is bounded by its soft limits alone (R14,
R17). -/
theorem generate_quiet (s : State) (h : ∀ z, (s.zone z).active = false) :
    s.generate = (s.moveTrims.supplyTargets.takeCaps s.moveTrims.supplyTargets.reaches).finishSteps
      s.moveTrims.supplyTargets.steps ∧
    ∀ j, s.moveTrims.supplyTargets.steps.get j =
      match (s.moveTrims.supplyTargets.channels.get j).moving, (s.moveTrims.supplyTargets.channels.get j).limits,
        s.moveTrims.supplyTargets.candidate j with
      | some m, some lim, some vc =>
        some ⟨insideLimits m.p lim (if followsPath (s.auth.get j) s.generator.held then vc
          else (boundaryStage j m.v vc lim.aStop (softBoundary m.p vc lim)).v), []⟩
      | _, _, _ => none := by
  set t := s.moveTrims.supplyTargets with ht
  have hz : ∀ z, (t.zone z).active = false := h
  have b1 : ∀ j p vc, t.zonesAhead t.reaches j p vc = [] := by
    intro j p vc
    unfold zonesAhead; split
    · split
      · rfl
      · simp only [zoneBoundaries, List.filterMap_eq_nil_iff]
        intro z _; simp only [zoneBoundary, hz z]; split
        · rfl
        · simp
    · rfl
  have b2 : ∀ j, t.slowAnswer t.reaches j = none := by
    intro j; unfold slowAnswer; split
    · rename_i m _
      have : t.slowZones t.reaches m = [] := by
        simp only [slowZones, List.map_eq_nil_iff, List.filter_eq_nil_iff]
        intro z _; simp [hz z]
      rw [this]; rfl
    · rfl
  have hst : ∀ j, t.steps.get j =
      match (t.channels.get j).moving, (t.channels.get j).limits, t.candidate j with
      | some m, some lim, some vc =>
        some ⟨insideLimits m.p lim (if followsPath (s.auth.get j) s.generator.held then vc
          else (boundaryStage j m.v vc lim.aStop (softBoundary m.p vc lim)).v), []⟩
      | _, _, _ => none := by
    intro j
    have hc : t.candidates.get j = t.candidate j := by simp [candidates]
    simp only [steps, Tab.get_ofFn, stepOf, hc, b1, b2]
    cases (t.channels.get j).moving with
    | none => rfl
    | some m =>
      cases (t.channels.get j).limits with
      | none => rfl
      | some lim =>
        cases t.candidate j with
        | none => rfl
        | some vc =>
          have e1 : t.auth.get j = s.auth.get j := rfl
          have e2 : t.generator.held = s.generator.held := rfl
          simp only [e1, e2]
          split
          · simp [playbackStage, leastPermitted, speedCauses]
          · have : (boundaryStage j m.v vc lim.aStop (softBoundary m.p vc lim)).causes = [] := by
              have fz : ∀ T, firstZone (softBoundary m.p vc lim) T = none := by
                intro T; unfold softBoundary; split
                · rfl
                · split <;> rfl
              unfold boundaryStage; split
              · rfl
              · split
                · rfl
                · simp [overrun, fz]
            simp [this]
  refine ⟨?_, hst⟩
  have hcs : stepCauses t.steps = [] := by
    simp only [stepCauses, List.flatMap_eq_nil_iff]
    intro j _
    rw [hst]
    split <;> rename_i h <;> try rfl
    split at h <;> cases h; rfl
  show ((t.takeCaps t.reaches).raiseSteps (stepCauses t.steps)).finishSteps t.steps = _
  rw [hcs]; rfl

/-- With no zone active the setpoint step changes the channels alone. -/
theorem generate_frame (s : State) (h : ∀ z, (s.zone z).active = false) :
    s.generate = { s with channels := s.generate.channels } := by
  rw [(generate_quiet s h).1]; rfl

/-- Taking the SLOW caps changes no more of a channel than its cap. -/
theorem takeCaps_get (t : State) (R) (j : Axis) : ∃ cap, (t.takeCaps R).channels.get j = { t.channels.get j with slowCap := cap } := by
  simp only [takeCaps, Tab.get_imap]
  split
  · exact ⟨_, rfl⟩
  · exact ⟨(t.channels.get j).slowCap, rfl⟩

/-- A channel after the setpoint step with no zone active: its limits and trim demand stay, its trim offset has moved, and its
setpoint has moved by its step. -/
theorem generate_channel (s : State) (h : ∀ z, (s.zone z).active = false) (j : Axis) :
    (s.generate.channels.get j).limits = (s.channels.get j).limits ∧
    (s.generate.channels.get j).trimDemand = (s.channels.get j).trimDemand ∧
    (s.generate.channels.get j).trimOffset = (s.moveTrims.channels.get j).trimOffset ∧
    ((s.generate.channels.get j).moving = none ↔ (s.channels.get j).moving = none) ∧
    ∀ m, (s.channels.get j).moving = some m → ∃ tg m0, (s.moveTrims.supplyTargets.channels.get j).moving = some m0 ∧
        m0.p = m.p ∧ m0.v = m.v ∧ m0.target = tg ∧
      (s.generate.channels.get j).moving = some
        (match s.moveTrims.supplyTargets.steps.get j with | some o => ⟨m.p + o.v, o.v, tg⟩ | none => ⟨m.p, m.v, tg⟩) := by
  rw [(generate_quiet s h).1]
  simp only [finishSteps, Tab.get_imap]
  have sup : ∀ c : AxisChannel, c = s.moveTrims.supplyTargets.channels.get j → c.limits = (s.channels.get j).limits ∧
      c.trimDemand = (s.channels.get j).trimDemand ∧ c.trimOffset = (s.moveTrims.channels.get j).trimOffset ∧
      (c.moving = none ↔ (s.channels.get j).moving = none) ∧ ∀ m, (s.channels.get j).moving = some m →
      ∃ m0, c.moving = some m0 ∧ m0.p = m.p ∧ m0.v = m.v := by
    intro c hc
    have mt : (s.moveTrims.channels.get j).limits = (s.channels.get j).limits ∧
        (s.moveTrims.channels.get j).trimDemand = (s.channels.get j).trimDemand ∧
        (s.moveTrims.channels.get j).moving = (s.channels.get j).moving := by
      simp only [moveTrims, Tab.get_imap]; split
      · split <;> simp
      · simp
    obtain ⟨m1, m2, m3⟩ := mt
    rw [hc]; simp only [supplyTargets, Tab.get_imap]
    split
    · rename_i mo x h1 h2
      rw [m3] at h1
      split
      · exact ⟨m1, m2, rfl, by simp [h1], fun m hm => by rw [h1] at hm; cases hm; exact ⟨_, rfl, rfl, rfl⟩⟩
      · split
        · exact ⟨m1, m2, rfl, by simp [h1], fun m hm => by rw [h1] at hm; cases hm; exact ⟨_, rfl, rfl, rfl⟩⟩
        · exact ⟨m1, m2, rfl, by simp [m3], fun m hm => ⟨m, by rw [m3, hm], rfl, rfl⟩⟩
    · exact ⟨m1, m2, rfl, by simp [m3], fun m hm => ⟨m, by rw [m3, hm], rfl, rfl⟩⟩
  set c := s.moveTrims.supplyTargets.channels.get j with hc
  obtain ⟨s1, s2, s3, s4, s5⟩ := sup c rfl
  obtain ⟨cap, hcap⟩ := takeCaps_get s.moveTrims.supplyTargets s.moveTrims.supplyTargets.reaches j
  rw [← hc] at hcap
  rw [hcap]
  cases hm : c.moving with
  | none =>
    have hn : (s.channels.get j).moving = none := s4.1 hm
    exact ⟨s1, s2, s3, by simp [hn, hm], fun m h => by rw [hn] at h; cases h⟩
  | some m0 =>
    simp only
    cases ho : s.moveTrims.supplyTargets.steps.get j with
    | none =>
      exact ⟨s1, s2, s3, by
        have : (s.channels.get j).moving ≠ none := fun h => by rw [s4.2 h] at hm; cases hm
        simp [this, hm], fun m h => by
        obtain ⟨m1, e1, e2, e3⟩ := s5 m h
        rw [hm] at e1; cases e1
        exact ⟨m0.target, m0, rfl, e2, e3, rfl, by simp only [hm, ← e2, ← e3]⟩⟩
    | some o =>
      exact ⟨s1, s2, s3, by
        have : (s.channels.get j).moving ≠ none := fun h => by rw [s4.2 h] at hm; cases hm
        simp [this], fun m h => by
        obtain ⟨m1, e1, e2, e3⟩ := s5 m h
        rw [hm] at e1; cases e1
        exact ⟨m0.target, m0, rfl, e2, e3, rfl, by simp only [← e2]⟩⟩

/-! ### The hand-off -/

/-- Judging silence where no drive falls silent changes silence counts alone. -/
theorem foldSilence (l : List Axis) (hn : l.Nodup) (s : State) (h : ∀ j ∈ l, s.fallsSilent j = false) :
    ∃ D, l.foldl judgeSilence s = { s with port := { s.port with drives := D } } ∧
        ∀ j, ∃ n, D.get j = { s.port.drives.get j with silence := n } := by
  induction l generalizing s with
  | nil => exact ⟨s.port.drives, rfl, fun j => ⟨_, rfl⟩⟩
  | cons a l ih =>
    rw [List.nodup_cons] at hn
    have one : ∃ D, s.judgeSilence a = { s with port := { s.port with drives := D } } ∧
        (∀ j, ∃ n, D.get j = { s.port.drives.get j with silence := n }) ∧ ∀ j, j ≠ a → D.get j = s.port.drives.get j := by
      unfold judgeSilence
      rw [if_neg (by rw [h a (List.mem_cons_self ..)]; simp)]
      split
      · refine ⟨_, rfl, fun j => ?_, fun j hj => Tab.get_modify_other _ _ hj⟩
        by_cases e : j = a
        · subst e; exact ⟨(s.port.drives.get j).silence + 1, by simp⟩
        · exact ⟨(s.port.drives.get j).silence, by rw [Tab.get_modify_other _ _ e]⟩
      · exact ⟨s.port.drives, rfl, fun j => ⟨_, rfl⟩, fun _ _ => rfl⟩
    obtain ⟨D, h1, h2, h3⟩ := one
    have hf : ∀ j, j ≠ a → (s.judgeSilence a).fallsSilent j = s.fallsSilent j := by
      intro j hj
      rw [h1]; simp only [fallsSilent, unanswered, State.driveState, h3 j hj]
    obtain ⟨E, i1, i2⟩ := ih hn.2 (s.judgeSilence a) (fun j hj => by
      rw [hf j (fun e => hn.1 (e ▸ hj))]; exact h j (List.mem_cons_of_mem _ hj))
    refine ⟨E, by rw [List.foldl_cons, i1, h1], fun j => ?_⟩
    obtain ⟨n, hn'⟩ := i2 j
    obtain ⟨k, hk⟩ := h2 j
    exact ⟨n, by rw [hn', h1]; simp only [hk]⟩

/-- Counting waits where none runs out changes wait counts alone. -/
theorem foldWait (l : List Axis) (hn : l.Nodup) (s : State)
    (h : ∀ j ∈ l, ∀ n, waitLimit (s.driveState j) = some n → (s.port.drives.get j).wait + 1 < n) :
    ∃ D, l.foldl countWait s = { s with port := { s.port with drives := D } } ∧
        ∀ j, ∃ n, D.get j = { s.port.drives.get j with wait := n } := by
  induction l generalizing s with
  | nil => exact ⟨s.port.drives, rfl, fun j => ⟨_, rfl⟩⟩
  | cons a l ih =>
    rw [List.nodup_cons] at hn
    have one : ∃ D, s.countWait a = { s with port := { s.port with drives := D } } ∧
        (∀ j, ∃ n, D.get j = { s.port.drives.get j with wait := n }) ∧ ∀ j, j ≠ a → D.get j = s.port.drives.get j := by
      unfold countWait
      split
      · exact ⟨s.port.drives, rfl, fun j => ⟨_, rfl⟩, fun _ _ => rfl⟩
      · rename_i n hw
        have := h a (List.mem_cons_self ..) n hw
        rw [if_neg (by omega)]
        refine ⟨_, rfl, fun j => ?_, fun j hj => Tab.get_modify_other _ _ hj⟩
        by_cases e : j = a
        · subst e; exact ⟨(s.port.drives.get j).wait + 1, by simp⟩
        · exact ⟨(s.port.drives.get j).wait, by rw [Tab.get_modify_other _ _ e]⟩
    obtain ⟨D, h1, h2, h3⟩ := one
    obtain ⟨E, i1, i2⟩ := ih hn.2 (s.countWait a) (fun j hj n hw => by
      have e : j ≠ a := fun e => hn.1 (e ▸ hj)
      rw [h1] at hw ⊢; simp only [State.driveState, h3 j e] at hw ⊢
      exact h j (List.mem_cons_of_mem _ hj) n hw)
    refine ⟨E, by rw [List.foldl_cons, i1, h1], fun j => ?_⟩
    obtain ⟨n, hn'⟩ := i2 j
    obtain ⟨k, hk⟩ := h2 j
    exact ⟨n, by rw [hn', h1]; simp only [hk]⟩

/-- The port's judgements of silence and of waits where no drive falls silent and no wait runs out. -/
theorem portFolds_quiet (s : State) (h : ∀ j, s.fallsSilent j = false ∧ ∀ n, waitLimit (s.driveState j) = some n →
    (s.port.drives.get j).wait + 1 < n) :
    ∃ D, (allAxes.foldl countWait (allAxes.foldl judgeSilence s)) = { s with port := { s.port with drives := D } } ∧
      ∀ j, ∃ a b, D.get j = { s.port.drives.get j with silence := a, wait := b } := by
  obtain ⟨D, h1, h2⟩ := foldSilence allAxes (by decide) s fun j _ => (h j).1
  obtain ⟨E, i1, i2⟩ := foldWait allAxes (by decide) (allAxes.foldl judgeSilence s) (fun j _ n hw => by
    obtain ⟨a, ha⟩ := h2 j
    rw [h1] at hw ⊢; simp only [State.driveState, ha] at hw ⊢
    exact (h j).2 n hw)
  refine ⟨E, by rw [i1, h1], fun j => ?_⟩
  obtain ⟨a, ha⟩ := h2 j
  obtain ⟨b, hb⟩ := i2 j
  exact ⟨a, b, by rw [hb, h1]; simp only [ha]⟩

/-- With no zone active the occupancy test does nothing. -/
theorem testZones_quiet (rz : ZoneId → State → State) (zs : List ZoneId) (s : State)
    (h : ∀ z, (s.zone z).active = false) : s.testZones rz zs = s := by
  have none : s.foundOccupied zs = [] := by
    unfold foundOccupied
    exact List.filter_eq_nil_iff.2 fun z _ => by simp [Zone.tested, h z]
  have flags : zs.foldl testFlag s = s := by
    induction zs with
    | nil => rfl
    | cons z zs ih =>
      have : s.testFlag z = s := by unfold testFlag; rw [if_neg (by simp [Zone.tested, h z])]
      rw [List.foldl_cons, this]
      exact ih (by unfold foundOccupied; exact List.filter_eq_nil_iff.2 fun z _ => by simp [Zone.tested, h z])
  unfold testZones
  rw [none, flags]; rfl

/-- The standstill test changes the standstill-reported flag and the primary record alone. -/
theorem standstillTest_frame (s : State) : s.standstillTest = { s with generator := s.standstillTest.generator, stop := s.standstillTest.stop } ∧
    s.standstillTest.stop.level = s.stop.level ∧ s.standstillTest.generator.held = s.generator.held := by
  unfold standstillTest; split
  · rename_i h
    refine ⟨rfl, ?_, h.1.symm⟩
    show (s.stop.standstill _).level = _
    unfold StopController.standstill; split <;> rfl
  · exact ⟨rfl, rfl, rfl⟩

/-- The hand-off, away from level 2, where nothing stops the crane: before the recorder only the generator, the stop records
and the Drive Port have changed. -/
theorem handOff_quiet (s : State) (hq : ∀ j, s.fallsSilent j = false ∧ ∀ n, waitLimit (s.driveState j) = some n →
    (s.port.drives.get j).wait + 1 < n)
    (hz : ∀ z, (s.zone z).active = false) (hl : s.stop.level ≠ 2) :
    ∃ u : State, s.handOff = u.recordUpdate.judgeArrival.judgeEnd ∧
        u = { s with generator := u.generator, stop := u.stop, port := u.port } ∧
      u.stop.level = s.stop.level := by
  obtain ⟨a1, a2, a3⟩ := standstillTest_frame s
  set v := s.standstillTest with hv
  have hvd : v.port = s.port := by rw [a1]
  obtain ⟨D, d1, d2⟩ := portFolds_quiet v (by
    intro j; have := hq j
    have e1 : v.fallsSilent j = s.fallsSilent j := by simp only [fallsSilent, unanswered, State.driveState, hvd]
    rw [e1]; simpa only [State.driveState, hvd] using this)
  have hp : v.portWork = { v with port := { v.port with drives := D } } := by
    unfold portWork; rw [d1]; unfold haltPoint
    rw [if_neg]
    simp only [atHaltPoint, a2]; simp [hl]
  have ht : (v.portWork.sendFrame).testAllZones = v.portWork.sendFrame := by
    unfold testAllZones
    refine testZones_quiet _ _ _ ?_
    rw [hp]; intro z
    show (v.zone z).active = false
    rw [a1]; exact hz z
  refine ⟨v.portWork.sendFrame, ?_, ?_, ?_⟩
  · simp only [handOff, ← hv, ht]
  · rw [hp]; simp only [sendFrame]; rw [a1]
  · rw [hp]; exact a2

/-- The recorder leaves every CLOSED take. -/
theorem recordUpdate_slots (s : State) (i : TakeNo) (k : Take) (h : s.takes.closedTake i = some k) :
    s.recordUpdate.takes.closedTake i = some k := by
  have hi : ∃ r, s.takes.slots.get i = .closed k r := by
    unfold TakeStore.closedTake at h; split at h
    · rename_i t r he; cases h; exact ⟨r, he⟩
    · cases h
  obtain ⟨r, hi⟩ := hi
  have fin : ∀ ts : TakeStore, ts.slots.get i = .closed k r → ts.closedTake i = some k := by
    intro ts h; simp only [TakeStore.closedTake, h]
  apply fin
  unfold recordUpdate
  split
  · exact hi
  · rename_i rc t hrt
    have hrec : s.takes.slots.get rc.slot = .recording t ∧ s.takes.recorder = some rc := by
      unfold TakeStore.recordingTake at hrt
      split at hrt
      · cases hrt
      · rename_i r' hr'
        split at hrt
        · rename_i he; cases hrt; exact ⟨he, hr'⟩
        · cases hrt
    have hne : i ≠ rc.slot := by rintro rfl; rw [hi] at hrec; cases hrec.1
    split
    · exact hi
    · unfold storeSample; split
      · unfold closeTake; simp only [hrec.2, hrec.1]; split <;> simp [Tab.get_set_other _ _ hne, hi]
      · simp [Tab.get_set_other _ _ hne, hi]

/-- The recorder changes the Take Store and notices alone. -/
theorem recordUpdate_frame (s : State) : s.recordUpdate = { s with takes := s.recordUpdate.takes, links := s.recordUpdate.links } ∧ ∀ o, s.recordUpdate.linkState o = s.linkState o := by
  unfold recordUpdate
  split
  · exact ⟨rfl, fun _ => rfl⟩
  · split
    · exact ⟨rfl, fun _ => rfl⟩
    · unfold storeSample; split
      · unfold closeTake
        have post : ∀ (y : State) o f, (∀ st, (y.post o f).linkState st = y.linkState st) ∧
            y.post o f = { y with links := (y.post o f).links } := by
          intro y o f; unfold post; split
          · refine ⟨fun st => ?_, rfl⟩
            simp only [State.linkState, modLink_links, Tab.get_modify]; split <;> simp [*]
          · exact ⟨fun _ => rfl, rfl⟩
        split
        · exact ⟨rfl, fun _ => rfl⟩
        · split
          · split
            · exact ⟨by rw [(post _ _ _).2], fun o => (post _ _ _).1 o⟩
            · exact ⟨by rw [(post _ _ _).2], fun o => (post _ _ _).1 o⟩
          · exact ⟨rfl, fun _ => rfl⟩
      · exact ⟨rfl, fun _ => rfl⟩

/-! ### The beginning and the end -/

/-- A halt timer that does not run out is counted and nothing else. -/
theorem countHalt_quiet (s : State) (h : ∀ n, s.stop.haltTimer = some n → n < 1999) :
    ∃ x, s.countHalt = { s with stop := { s.stop with haltTimer := x } } := by
  unfold countHalt; split
  · exact ⟨s.stop.haltTimer, rfl⟩
  · rename_i n hn
    have := h n hn
    rw [if_neg (by omega)]; exact ⟨_, rfl⟩

/-- Where no timed start is due the engine changes itself and modes alone as an update begins. -/
theorem engineBegin_quiet (s : State) (h : ∀ c, s.play.state = .seeking c ∨ s.play.state = .ready c →
    s.startDue c = false) :
    s.engineBegin = { s with play := s.engineBegin.play, auth := s.engineBegin.auth } ∧
        ∀ j, (s.engineBegin.auth.get j).owner = (s.auth.get j).owner ∧
        (s.engineBegin.auth.get j).command = (s.auth.get j).command ∧
        (s.engineBegin.auth.get j).trimStation = (s.auth.get j).trimStation := by
  have js : s.play.state ≠ .idle → s.judgeStart = s := by
    intro _; unfold judgeStart; split
    · rename_i c hc; rw [h c (.inl hc)]; rfl
    · rename_i c hc; rw [h c (.inr hc)]; rfl
    all_goals rfl
  unfold engineBegin; split
  · split
    · exact ⟨rfl, fun _ => ⟨rfl, rfl, rfl⟩⟩
    · exact ⟨rfl, fun _ => ⟨rfl, rfl, rfl⟩⟩
  · rename_i c hc
    split
    · refine ⟨rfl, fun j => ?_⟩
      simp only [beginRunning, setModes, Tab.get_imap, setEngine]; split <;> exact ⟨rfl, rfl, rfl⟩
    · rw [js (by rw [hc]; simp)]; exact ⟨rfl, fun _ => ⟨rfl, rfl, rfl⟩⟩
  · rename_i c hc; rw [js (by rw [hc]; simp)]; exact ⟨rfl, fun _ => ⟨rfl, rfl, rfl⟩⟩
  · exact ⟨rfl, fun _ => ⟨rfl, rfl, rfl⟩⟩
  · exact ⟨rfl, fun _ => ⟨rfl, rfl, rfl⟩⟩

/-- The report count changes links and itself alone. -/
theorem countReport_frame (s : State) : s.countReport = { s with links := s.countReport.links, reportCount := s.countReport.reportCount } ∧ (∀ o, s.countReport.linkState o = s.linkState o) ∧ (s.reportCount < 9 → s.countReport.links = s.links) := by
  unfold countReport; split
  · refine ⟨rfl, fun o => ?_, fun h => by omega⟩
    simp only [State.linkState, buildReports, Tab.get_imap]; split <;> rfl
  · exact ⟨rfl, fun _ => rfl, fun _ => rfl⟩

/-- The shape of an update at which nothing stops the crane, away from level 2: the engine begins (`b`), the setpoint step, the
counts (`w`), the Drive Port (`u`), then the recorder, the arrivals, the end of the take and the report count. -/
theorem update_quiet (s : State) (hq : s.Quiet) (hl : s.stop.level ≠ 2) :
    ∃ (b : State) (x : Option Nat) (w u : State),
      b = (({ s with stop := { s.stop with haltTimer := x } } : State).engineBegin).dropTaken ∧
      b = { s with stop := { s.stop with haltTimer := x }, play := b.play, auth := b.auth, taken := b.taken } ∧
      (∀ j, (b.auth.get j).owner = (s.auth.get j).owner) ∧
      b.generate.Kept w ∧ u = { w with generator := u.generator, stop := u.stop, port := u.port } ∧
          u.stop.level = s.stop.level ∧
      s.updateOnce = (u.recordUpdate.judgeArrival.judgeEnd).countReport ∧
          b.generate = { b with channels := b.generate.channels } := by
  obtain ⟨q1, q2, q3, q4, q5, q6⟩ := hq
  obtain ⟨x, hx⟩ := countHalt_quiet s q2
  set c : State := { s with stop := { s.stop with haltTimer := x } } with hc
  obtain ⟨e1, e2⟩ := engineBegin_quiet c q6
  set b := c.engineBegin.dropTaken with hb
  have hbe : b = { s with stop := { s.stop with haltTimer := x }, play := b.play, auth := b.auth, taken := b.taken } := by
    have : b = { c.engineBegin with taken := b.taken } := rfl
    rw [this, e1]
  have hbz : ∀ z, (b.zone z).active = false := by rw [hbe]; exact q3
  have hbg := generate_frame b hbz
  have hst : ∀ st, (b.generate.stations.get st).lastFrame < 249 := by rw [hbg, hbe]; exact q4
  have hw := countUpdate_kept b.generate hst
  set w := b.generate.countUpdate with hwd
  obtain ⟨k1, k2, k3, k4, k5, k6, k7, k8, k9, k10, k11, k12⟩ := hw
  have gp : b.generate.port = s.port := by rw [hbg, hbe]
  have gz : b.generate.zones = s.zones := by rw [hbg, hbe]
  have gs : b.generate.stop.level = s.stop.level := by rw [hbg, hbe]
  obtain ⟨u, h1, h2, h3⟩ := handOff_quiet w (by
      intro j; have := q5 j
      have e : w.port = s.port := k4.trans gp
      simpa only [fallsSilent, unanswered, State.driveState, e] using this)
    (by intro z; have e : w.zones = s.zones := k5.trans gz
        have := q3 z; simp only [State.zone, e] at this ⊢; exact this) (by rw [k6, gs]; exact hl)
  refine ⟨b, x, w, u, hb, hbe, fun j => ?_, ⟨k1, k2, k3, k4, k5, k6, k7, k8, k9, k10, k11, k12⟩, h2, by rw [h3, k6, gs],
      ?_, hbg⟩
  · exact (e2 j).1
  · simp only [updateOnce, beginUpdate, hx, ← hb]; rw [← h1]

end Sys2Proof.Machine.State
end

