-- ==== Sys2Proof/Laws/Zones.lean ====
section
/-! SUPPORT. What a judgement of the zones and the raises that follow it leave: flags as R88 and R95 give them, and
ZONE_OCCUPIED raised for every entry found occupied (R96). -/

namespace Sys2Proof.Machine.State

/-! ### Zones, positions and the raise -/

/-- A zone after one was changed. -/
theorem zone_modZone (s : State) (z y : ZoneId) (f : Zone → Zone) :
    (s.modZone z f).zone y = if y = z then f (s.zone z) else s.zone y := by
  obtain ⟨zt, zi⟩ := z
  obtain ⟨yt, yi⟩ := y
  cases zt <;> cases yt <;> simp [modZone, zone, Tab.get_modify]

/-- A zone after every active flag was judged afresh. -/
theorem zone_rejudgeAll (s : State) (y : ZoneId) : s.rejudgeAll.zone y = s.rejudged y.table (s.zone y) := by
  obtain ⟨yt, yi⟩ := y
  cases yt <;> simp [rejudgeAll, zone]

theorem zone_congr {s t : State} (h : t.zones = s.zones) (y : ZoneId) : t.zone y = s.zone y := by
  unfold zone; rw [h]

/-- An entry is judged by the channels and the crane mode alone (R88). -/
theorem entryActive_congr {s t : State} (h : t.zones.channels = s.zones.channels) (h' :
  t.playbackMode = s.playbackMode) (tb e) :
    t.entryActive tb e = s.entryActive tb e := by
  unfold entryActive maskPresent; rw [h, h']

theorem playbackMode_congr {s t : State} (h : t.auth = s.auth) : t.playbackMode = s.playbackMode := by
  unfold playbackMode mode; rw [h]

/-- The engine is IDLE or PAUSED: a raise then leaves the modes. -/
def Stopped (s : State) : Prop := s.play.state = .idle ∨ ∃ h e, s.play.state = .paused h e

/-- A raise that finds the engine IDLE or PAUSED leaves the Authority Table. -/
theorem raiseOnce_auth {s : State} (h : s.Stopped) (c l) : (s.raiseOnce c l).auth = s.auth := by
  simp only [State.raiseOnce, State.portOnRaise, closeTake_frame]
  have e : (s.takeRaise c l).generatorOnRaise.play = s.play := by
    simp only [State.generatorOnRaise, State.takeRaise]; split <;> rfl
  rcases h with h | ⟨_, _, h⟩ <;> simp only [State.engineOnRaise, e, h, takeRaise_frame]

theorem raiseOnce_level (s : State) (c l) : (s.raiseOnce c l).stop.level = max s.stop.level l := by
  simp [StopController.raised]

theorem raiseOnce_memory (s : State) (c c' l) (h : c' = c ∨ c' ∈ s.stop.memory) : c' ∈ (s.raiseOnce c l).stop.memory := by
  simp
  exact raised_memory _ _ _ _ _ h

/-- The engine on a raise moves no setpoint. -/
theorem engine_position (s : State) (j : Axis) :
  (((s.engineOnRaise).channels.get j).moving.map fun m => m.p) = (s.channels.get j).moving.map fun m => m.p := by
  have hd : ∀ h : Hold,
    (((s.dropTake h).channels.get j).moving.map fun m => m.p) = (s.channels.get j).moving.map fun m => m.p := by
    intro h
    simp only [dropTake, returnAxes, Tab.get_imap, AxisChannel.zeroTarget]
    split
    · cases (s.channels.get j).moving <;> rfl
    · rfl
  have hp : ∀ (x : State) st f, ((x.post st f).channels) = x.channels := by intros; simp
  simp only [State.engineOnRaise]
  split
  · rfl
  · rfl
  · rw [hp, hd]
  · rw [hp, hd]
  · rfl

theorem zonePosition_eq (s : State) (m : Motion) : s.zonePosition m =
    (match (s.channels.get (motionAxis m)).moving.map fun x => x.p with
      | some p => some p
      | none => ((s.port.drives.get (motionAxis m)).lastReport).map fun r => ofCount r.2) := by
  unfold zonePosition
  cases (s.channels.get (motionAxis m)).moving <;> rfl

/-- A raise that stays at or below level 2 moves no zone position (R89). -/
theorem raiseOnce_position {s : State} {l : Nat} (hl : s.stop.level ≤ 2) (h2 : l ≤ 2) (c) (m : Motion) :
    (s.raiseOnce c l).zonePosition m = s.zonePosition m := by
  have e1 : ∀ j, ((s.raiseOnce c l).channels.get j).moving.map
    (fun x => x.p) = (s.channels.get j).moving.map fun x => x.p := by
    intro j
    have hne : max s.stop.level l ≠ 3 := by omega
    simp only [raiseOnce, portOnRaise, Tab.get_imap, hne, false_and, if_false, closeTake_frame]
    rw [engine_position, (takeRaise_frame s c l).2.2.1]
  have e2 : ∀ j, ((s.raiseOnce c l).port.drives.get j).lastReport = (s.port.drives.get j).lastReport := by
    intro j
    rw [raiseOnce_drive]
    unfold Drive.onRaise
    split <;> split <;> rfl
  rw [zonePosition_eq, zonePosition_eq, e1, e2]



/-! ### What judgements and raises leave -/

/-- A state that judgements and raises have made of another: entries and channels kept, every active flag as R88 judges it,
no flag set for an entry that is not active, and up to level 2 every zone position kept. -/
structure Judged (b t : State) : Prop where
  ent : ∀ z, (t.zone z).entry = (b.zone z).entry
  chan : t.zones.channels = b.zones.channels
  act : ∀ z, (t.zone z).active = t.entryActive z.table (t.zone z).entry
  occ : ∀ z, (t.zone z).active = false → (t.zone z).occupied = false
  pos : b.stop.level ≤ 2 → t.stop.level ≤ 2 ∧ ∀ m, t.zonePosition m = b.zonePosition m

/-- ZONE_OCCUPIED has been raised for a zone at level 2. -/
def Raised (t : State) (z : ZoneId) : Prop := .zoneOccupied z ∈ t.stop.memory ∧ 2 ≤ t.stop.level

/-- An occupied flag that has been set has been raised for. -/
def Told (b t : State) (z : ZoneId) : Prop := (b.zone z).occupied = false → (t.zone z).occupied = true → Raised t z

/-- Up to level 2 an active HARD entry is flagged exactly where the crane is inside it. -/
def Tested (b t : State) (z : ZoneId) : Prop :=
  b.stop.level ≤ 2 → (t.zone z).active = true → (b.zone z).entry.kind = .hard →
    (t.zone z).occupied = (b.zone z).entry.occupiedAt b.zonePosition

variable {b t : State}

theorem Raised.raiseOnce {z : ZoneId} (h : Raised t z) (c l) : Raised (t.raiseOnce c l) z :=
  ⟨raiseOnce_memory _ _ _ _ (.inr h.1), by rw [raiseOnce_level]; exact le_max_of_le_left h.2⟩

/-- ZONE_OCCUPIED at level 2 raises for its zone. -/
theorem raised_raiseOnce (t : State) (z : ZoneId) : Raised (t.raiseOnce (.zoneOccupied z) 2) z :=
  ⟨raiseOnce_memory _ _ _ _ (.inl rfl), by rw [raiseOnce_level]; exact le_max_right _ _⟩

/-- A raise keeps what was raised for. -/
theorem Told.raiseOnce {z : ZoneId} (h : Told b t z) (c l) : Told b (t.raiseOnce c l) z := by
  intro h1 h2
  rw [zone_congr (raiseOnce_zones t c l)] at h2
  exact (h h1 h2).raiseOnce c l

theorem Tested.raiseOnce {z : ZoneId} (h : Tested b t z) (c l) : Tested b (t.raiseOnce c l) z := by
  intro h1 h2 h3
  rw [zone_congr (raiseOnce_zones t c l)] at h2 ⊢
  exact h h1 h2 h3

/-- A raise that leaves the crane mode keeps what is judged. -/
theorem Judged.raiseOnce_of_mode (h : Judged b t) {l : Nat} (hl : l ≤ 2) (c) (hm :
  (t.raiseOnce c l).playbackMode = t.playbackMode) :
    Judged b (t.raiseOnce c l) := by
  have hz := zone_congr (raiseOnce_zones t c l)
  have hc : (t.raiseOnce c l).zones.channels = t.zones.channels := by rw [raiseOnce_zones]
  refine ⟨fun z => by rw [hz]; exact h.ent z, hc.trans h.chan, fun z => ?_, fun z => by rw [hz]; exact h.occ z,
    fun hb => ⟨?_, fun m => ?_⟩⟩
  · rw [hz, entryActive_congr hc hm]; exact h.act z
  · rw [raiseOnce_level]; have := (h.pos hb).1; omega
  · rw [raiseOnce_position (h.pos hb).1 hl]; exact (h.pos hb).2 m

/-- The flag of an active zone may be set or cleared. -/
theorem Judged.flag (h : Judged b t) (z : ZoneId) (o : Bool) (hz : (t.zone z).active = true) :
    Judged b (t.modZone z fun y => { y with occupied := o }) := by
  have hs : (t.modZone z fun y => { y with occupied := o }).stop = t.stop := by simp
  have hc : (t.modZone z fun y => { y with occupied := o }).zones.channels = t.zones.channels := by
    unfold modZone; split <;> rfl
  have hm : (t.modZone z fun y => { y with occupied := o }).playbackMode = t.playbackMode := playbackMode_congr (by simp)
  refine ⟨fun y => ?_, hc.trans h.chan, fun y => ?_, fun y hy => ?_, fun hb => ⟨by rw [hs]; exact (h.pos hb).1, fun m => ?_⟩⟩
  · rw [zone_modZone]; split
    · subst_vars; exact h.ent _
    · exact h.ent y
  · rw [entryActive_congr hc hm, zone_modZone]; split
    · subst_vars; exact h.act _
    · exact h.act y
  · rw [zone_modZone] at hy ⊢
    split at hy
    · subst_vars; rw [hz] at hy; cases hy
    · rw [if_neg (by assumption)]; exact h.occ y hy
  · rw [← (h.pos hb).2 m]; simp [zonePosition]

/-- One state after another, with what is judged, tested and raised kept. -/
structure Onward (b t u : State) : Prop where
  judged : Judged b u
  told : ∀ y, Told b t y → Told b u y
  tested : ∀ y, Tested b t y → Tested b u y
  raised : ∀ y, Raised t y → Raised u y

theorem Onward.trans {u v : State} (h : Onward b t u) (k : Onward b u v) : Onward b t v :=
  ⟨k.judged, fun y hy => k.told y (h.told y hy), fun y hy => k.tested y (h.tested y hy),
    fun y hy => k.raised y (h.raised y hy)⟩

/-- A raise up to level 2 that leaves the crane mode. -/
theorem onward_raiseOnce (h : Judged b t) {l : Nat} (hl : l ≤ 2) (c)
    (hm : (t.raiseOnce c l).playbackMode = t.playbackMode) : Onward b t (t.raiseOnce c l) :=
  ⟨h.raiseOnce_of_mode hl c hm, fun _ hy => hy.raiseOnce c l, fun _ hy => hy.raiseOnce c l, fun _ hy => hy.raiseOnce c l⟩

/-- The flags that a test of a list of zones leaves (R95). -/
theorem testFlags_zone (zs : List ZoneId) (t : State) : (zs.foldl testFlag t).stop = t.stop ∧
    (zs.foldl testFlag t).zonePosition = t.zonePosition ∧ ∀ y, (zs.foldl testFlag t).zone y =
      if y ∈ zs ∧ (t.zone y).tested then { t.zone y with occupied := (t.zone y).entry.occupiedAt t.zonePosition }
      else t.zone y := by
  induction zs generalizing t with
  | nil => exact ⟨rfl, rfl, fun y => by simp⟩
  | cons z zs ih =>
    have one : (t.testFlag z).stop = t.stop ∧ (t.testFlag z).zonePosition = t.zonePosition ∧
        ∀ y, (t.testFlag z).zone y = if y = z ∧ (t.zone y).tested then
          { t.zone y with occupied := (t.zone y).entry.occupiedAt t.zonePosition } else t.zone y := by
      unfold testFlag
      split
      · rename_i hz
        refine ⟨by simp, funext fun m => by simp [zonePosition], fun y => ?_⟩
        rw [zone_modZone]
        by_cases e : y = z
        · subst e; simp [hz]
        · simp [e]
      · rename_i hz
        refine ⟨rfl, rfl, fun y => ?_⟩
        rw [if_neg]; rintro ⟨rfl, h⟩; exact hz h
    obtain ⟨o1, o2, o3⟩ := one
    obtain ⟨i1, i2, i3⟩ := ih (t.testFlag z)
    refine ⟨i1.trans o1, i2.trans o2, fun y => ?_⟩
    rw [List.foldl_cons, i3, o3, o2]
    by_cases a : (t.zone y).tested = true
    · by_cases e : y = z <;> by_cases m : y ∈ zs <;> simp_all [Zone.tested]
    · simp only [a, and_false, Bool.false_eq_true, if_false]

/-- The flags of a test keep what is judged. -/
theorem testFlags_judged {I : State → Prop} (hI : ∀ t z o, I t → I (t.modZone z fun y => { y with occupied := o }))
    (zs : List ZoneId) {t : State} (h : Judged b t) (hi : I t) :
    Judged b (zs.foldl testFlag t) ∧ I (zs.foldl testFlag t) := by
  induction zs generalizing t with
  | nil => exact ⟨h, hi⟩
  | cons z zs ih =>
    refine (fun k : Judged b (t.testFlag z) ∧ I (t.testFlag z) => ih k.1 k.2) ?_
    unfold testFlag
    split
    · rename_i hz
      exact ⟨h.flag z _ (by simp only [Zone.tested, Bool.and_eq_true] at hz; exact hz.1), hI _ _ _ hi⟩
    · exact ⟨h, hi⟩

/-- One occupancy test of a list of zones, with raises that keep what is judged: every zone of the list is tested, and every
zone found occupied with its flag clear is raised for (R95). -/
theorem testZones_judged {rz : ZoneId → State → State} {I : State → Prop}
    (hI : ∀ t z o, I t → I (t.modZone z fun y => { y with occupied := o }))
    (hrz : ∀ t z, Judged b t → I t → (Onward b t (rz z t) ∧ I (rz z t)) ∧ Raised (rz z t) z)
    (zs : List ZoneId) (h : Judged b t) (hi : I t) : (Onward b t (t.testZones rz zs) ∧ I (t.testZones rz zs)) ∧
      (∀ z ∈ zs, Tested b (t.testZones rz zs) z) ∧ ∀ z ∈ t.foundOccupied zs, Raised (t.testZones rz zs) z := by
  obtain ⟨u1, u2⟩ := testFlags_judged hI zs h hi
  obtain ⟨e1, e2, e3⟩ := testFlags_zone zs t
  have raises : ∀ (fs : List ZoneId) {u : State}, Judged b u → I u →
      (Onward b u (fs.foldl (fun t z => rz z t) u) ∧ I (fs.foldl (fun t z => rz z t) u)) ∧
        ∀ z ∈ fs, Raised (fs.foldl (fun t z => rz z t) u) z := by
    intro fs
    induction fs with
    | nil => exact fun hu hi => ⟨⟨⟨hu, fun _ h => h, fun _ h => h, fun _ h => h⟩, hi⟩, fun _ hz => by cases hz⟩
    | cons z fs ih =>
      intro u hu hi
      obtain ⟨⟨a1, a2⟩, a3⟩ := hrz u z hu hi
      obtain ⟨⟨b1, b2⟩, b3⟩ := ih a1.judged a2
      refine ⟨⟨a1.trans b1, b2⟩, fun y hy => ?_⟩
      rcases List.mem_cons.1 hy with rfl | hy
      · exact b1.raised y a3
      · exact b3 y hy
  obtain ⟨⟨r1, r2⟩, r3⟩ := raises (t.foundOccupied zs) u1 u2
  have tested (y : ZoneId) (hy : y ∈ zs ∨ Tested b t y) : Tested b (zs.foldl testFlag t) y := by
    intro hb h2 h3
    rw [e3] at h2 ⊢
    by_cases c : y ∈ zs ∧ (t.zone y).tested = true
    · rw [if_pos c]
      show (t.zone y).entry.occupiedAt t.zonePosition = _
      rw [h.ent, show t.zonePosition = b.zonePosition from funext (h.pos hb).2]
    · rw [if_neg c] at h2 ⊢
      rcases hy with hy | hy
      · exact absurd ⟨hy, by simp [Zone.tested, h2, h.ent, h3]⟩ c
      · exact hy hb h2 h3
  refine ⟨⟨⟨r1.judged, fun y hy => ?_, fun y hy => r1.tested y (tested y (.inr hy)), fun y hy => r1.raised y ?_⟩, r2⟩,
    fun y hy => r1.tested y (tested y (.inl hy)), r3⟩
  · by_cases f : y ∈ t.foundOccupied zs
    · exact fun _ _ => r3 y f
    · refine r1.told y fun h1 h2 => ?_
      unfold Raised
      rw [e1]
      rw [e3] at h2
      split at h2
      · rename_i c
        refine hy h1 ?_
        by_contra ho
        exact f (List.mem_filter.2 ⟨c.1, by
          simp only [Bool.and_eq_true, Bool.not_eq_true']; exact ⟨⟨c.2, h2⟩, by simpa using ho⟩⟩)
      · exact hy h1 h2
  · unfold Raised; rw [e1]; exact hy

/-- The zones that a judgement makes active. -/
theorem mem_becoming {t : State} {z : ZoneId} : z ∈ t.becomingActive ↔ (t.zone z).active = false ∧
  t.entryActive z.table (t.zone z).entry = true := by
  unfold becomingActive
  rw [List.mem_filter]
  have : z ∈ allZones := by
    obtain ⟨zt, zi⟩ := z
    cases zt <;> fin_cases zi <;> decide
  simp [this]

/-- A zone that becomes active and is HARD, with the crane inside it and its flag clear (R95, R96). -/
structure Enters (t : State) (z : ZoneId) : Prop where
  inactive : (t.zone z).active = false
  clear : (t.zone z).occupied = false
  active : t.entryActive z.table (t.zone z).entry = true
  hard : (t.zone z).entry.kind = .hard
  inside : (t.zone z).entry.occupiedAt t.zonePosition = true

/-- Every entry judged afresh, and each that becomes active tested at once (R88, R96). -/
theorem judgeWith_judged {rz : ZoneId → State → State} {I : State → Prop}
    (hI : ∀ t z o, I t → I (t.modZone z fun y => { y with occupied := o })) (hJ : ∀ t, I t → I t.rejudgeAll)
    (hrz : ∀ t z, Judged b t → I t → (Onward b t (rz z t) ∧ I (rz z t)) ∧ Raised (rz z t) z)
    (ent : ∀ z, (t.zone z).entry = (b.zone z).entry) (chan : t.zones.channels = b.zones.channels)
    (pos : b.stop.level ≤ 2 → t.stop.level ≤ 2 ∧ ∀ m, t.zonePosition m = b.zonePosition m) (hi : I t) :
    Judged b (t.judgeWith rz) ∧ (∀ y, Told b t y → Told b (t.judgeWith rz) y) ∧
      (∀ y, (t.zone y).active = false ∨ Tested b t y → Tested b (t.judgeWith rz) y) ∧
      (∀ y, Raised t y → Raised (t.judgeWith rz) y) ∧ ∀ y, t.Enters y → Raised (t.judgeWith rz) y := by
  have hc : t.rejudgeAll.zones.channels = t.zones.channels := rfl
  have hm : t.rejudgeAll.playbackMode = t.playbackMode := playbackMode_congr rfl
  have hj : Judged b t.rejudgeAll := by
    refine ⟨fun z => ?_, hc.trans chan, fun z => ?_, fun z hz => ?_, fun hb => ⟨(pos hb).1, (pos hb).2⟩⟩
    · rw [zone_rejudgeAll]; exact ent z
    · rw [entryActive_congr hc hm, zone_rejudgeAll]; rfl
    · rw [zone_rejudgeAll] at hz ⊢
      simp only [rejudged] at hz ⊢
      rw [hz, Bool.and_false]
  obtain ⟨⟨a, -⟩, a3, a4⟩ := testZones_judged hI hrz t.becomingActive hj (hJ _ hi)
  refine ⟨a.judged, fun y hy => a.told y fun h1 h2 => ?_, fun y hy => ?_, fun y hy => a.raised y hy,
    fun y hy => a4 y (List.mem_filter.2 ⟨mem_becoming.2 ⟨hy.inactive, hy.active⟩, ?_⟩)⟩
  · rw [zone_rejudgeAll] at h2
    simp only [rejudged, Bool.and_eq_true] at h2
    exact hy h1 h2.1
  · by_cases hb : y ∈ t.becomingActive
    · exact a3 y hb
    · refine a.tested y fun h1 h2 h3 => ?_
      rw [zone_rejudgeAll] at h2 ⊢
      simp only [rejudged] at h2 ⊢
      rw [h2, Bool.and_true]
      rcases hy with hy | hy
      · exact absurd (mem_becoming.2 ⟨hy, h2⟩) hb
      · by_cases ha : (t.zone y).active = true
        · exact hy h1 ha h3
        · exact absurd (mem_becoming.2 ⟨by simpa using ha, h2⟩) hb
  · have hp : t.rejudgeAll.zonePosition = t.zonePosition := rfl
    rw [zone_rejudgeAll, hp]
    simp [rejudged, Zone.tested, hy.active, hy.hard, hy.inside, hy.clear]

theorem raiseOnce_stopped (t : State) (c l) : (t.raiseOnce c l).Stopped := (raiseOnce_stopsTakes t c l).1

/-- A raise up to level 2, with the judgement that a changed crane mode calls for. -/
theorem raise_judged (h : Judged b t) {l : Nat} (hl : l ≤ 2) (c) : Onward b t (t.raise c l) ∧
    ∀ z, c = .zoneOccupied z → l = 2 → Raised (t.raise c l) z := by
  unfold raise
  simp only
  split
  · rename_i hm
    refine ⟨onward_raiseOnce h hl c hm, ?_⟩
    rintro z rfl rfl
    exact raised_raiseOnce t z
  · have hz := zone_congr (raiseOnce_zones t c l)
    obtain ⟨a1, a2, a3, a4, -⟩ := judgeWith_judged (b := b) (t := t.raiseOnce c l) (I := Stopped)
      (rz := fun z u => u.raiseOnce (.zoneOccupied z) 2) (fun t z o ht => by simpa [Stopped] using ht) (fun t ht => ht)
      (fun t z ht hs => ⟨⟨onward_raiseOnce ht (by decide) _ (playbackMode_congr (raiseOnce_auth hs _ _)),
        raiseOnce_stopped _ _ _⟩, raised_raiseOnce t z⟩)
      (fun z => by rw [hz]; exact h.ent z) (by rw [raiseOnce_zones]; exact h.chan)
      (fun hb => ⟨by rw [raiseOnce_level]; have := (h.pos hb).1; omega,
        fun m => (by rw [raiseOnce_position (h.pos hb).1 hl]; exact (h.pos hb).2 m)⟩)
      (raiseOnce_stopped _ _ _)
    refine ⟨⟨a1, fun y hy => a2 y (hy.raiseOnce c l), fun y hy => a3 y (.inr (hy.raiseOnce c l)),
      fun y hy => a4 y (hy.raiseOnce c l)⟩, ?_⟩
    rintro z rfl rfl
    exact a4 z (raised_raiseOnce t z)

/-- What a judgement of all zones of a state, and raises after it, leave. -/
structure Afresh (b t : State) : Prop where
  judged : Judged b t
  told : ∀ y, Told b t y
  tested : ∀ y, (b.zone y).active = false → Tested b t y
  raised : ∀ y, b.Enters y → Raised t y

theorem Afresh.onward {u : State} (h : Afresh b t) (k : Onward b t u) : Afresh b u :=
  ⟨k.judged, fun y => k.told y (h.told y), fun y hy => k.tested y (h.tested y hy), fun y hy => k.raised y (h.raised y hy)⟩

/-- A judgement of all zones (R88, R96). -/
theorem judgeZones_afresh (s : State) : Afresh s s.judgeZones := by
  obtain ⟨a1, a2, a3, -, a5⟩ := judgeWith_judged (b := s) (t := s) (I := fun _ => True) (rz := raiseOccupied)
    (fun _ _ _ h => h) (fun _ h => h)
    (fun t z ht _ => by
      obtain ⟨r1, r2⟩ := raise_judged ht (l := 2) (by decide) (.zoneOccupied z)
      exact ⟨⟨r1, trivial⟩, r2 z rfl rfl⟩)
    (fun _ => rfl) rfl (fun hb => ⟨hb, fun _ => rfl⟩) trivial
  exact ⟨a1, fun y => a2 y (fun h1 h2 => by rw [h1] at h2; cases h2), fun y hy => a3 y (.inl hy), a5⟩

/-- The two writings of the crane inside an entry. -/
theorem inside_iff (s : State) (e : ZoneEntry) : s.Inside e ↔ e.occupiedAt s.zonePosition = true := by
  unfold Inside ZoneEntry.occupiedAt
  rw [List.all_eq_true]
  constructor
  · intro h m _
    cases hr : e.ranges.get m with
    | none => rfl
    | some r =>
      obtain ⟨lo, hi⟩ := r
      obtain ⟨p, hp, h1, h2⟩ := h m lo hi hr
      simp only [hp, ofCount, Bool.and_eq_true]; exact ⟨decide_eq_true h1, decide_eq_true h2⟩
  · intro h m lo hi hr
    have := h m ((by decide : ∀ j : Motion, j ∈ allMotion) m)
    simp only [hr] at this
    cases hp : s.zonePosition m with
    | none => rw [hp] at this; cases this
    | some p =>
      rw [hp] at this
      simp only [ofCount, Bool.and_eq_true] at this
      exact ⟨p, rfl, of_decide_eq_true this.1, of_decide_eq_true this.2⟩

/-- The two writings of an active entry. -/
theorem active_iff (s : State) (tb e) : s.ActiveBy88 tb e ↔ s.entryActive tb e = true := by
  unfold ActiveBy88 entryActive
  have hp : s.playbackMode = true ↔ ∃ j, (s.mode j).underTake = true := by
    unfold playbackMode; rw [List.any_eq_true]
    exact ⟨fun ⟨j, _, h⟩ => ⟨j, h⟩, fun ⟨j, h⟩ => ⟨j, (by decide : ∀ j : Axis, j ∈ allAxes) j, h⟩⟩
  have hn : s.playbackMode = false ↔ ∀ j, (s.mode j).underTake = false := by
    rw [← Bool.not_eq_true, hp]; simp
  have hk : s.maskPresent e.mask = true ↔ ∃ c : Channel, e.mask.getLsbD c.val = true ∧
    (s.zones.channels.get c).state ≠ .clear := by
    unfold maskPresent; rw [List.any_eq_true]
    simp only [Bool.and_eq_true, decide_eq_true_eq]
    exact ⟨fun ⟨j, _, h⟩ => ⟨j, h⟩, fun ⟨j, h⟩ => ⟨j, (by decide : ∀ j : Channel, j ∈ allChannels) j, h⟩⟩
  rw [← hk, ← hp, ← hn]
  cases e.modeMatch <;> cases e.enabled <;> cases s.playbackMode <;> simp [ModeMatch.holds]

/-- What is judged, in the terms of statements. -/
theorem zonesJudged_of {s b t : State} (hz : ∀ z, b.zone z = s.zone z) (hl : b.stop.level = s.stop.level)
    (hp : b.zonePosition = s.zonePosition) (ha : b.auth = s.auth) (h : Afresh b t) : s.ZonesJudged t := by
  have inside : ∀ z, s.Inside (b.zone z).entry ↔ (b.zone z).entry.occupiedAt b.zonePosition = true := fun z => by
    rw [inside_iff, hp]
  refine ⟨fun z => by rw [h.judged.ent, hz], fun z => ⟨?_, h.judged.occ z⟩, fun hs z ha ho ht hk => ?_,
    fun z h1 h2 h3 h4 h5 => ?_⟩
  · rw [h.judged.act z, active_iff]
  · rw [← hz] at ha ho hk ⊢
    rw [← hl] at hs
    have e := h.tested z ha hs ht hk
    rw [inside z, e]
    exact ⟨Iff.rfl, fun h' => h.told z ho (by rw [e]; exact h')⟩
  · rw [active_iff, entryActive_congr (s := b) (t := { s with
      zones := { s.zones with channels := t.zones.channels } }) h.judged.chan (playbackMode_congr ha.symm)] at h4
    rw [← hz] at h1 h2 h3 h4 h5
    exact h.raised z ⟨h1, h2, h4, h3, (inside z).1 h5⟩

/-- PRESENCE_FAULT raised for a list of channels. -/
theorem raiseFaults_afresh {b t : State} (cs : List Channel) (h : Afresh b t) : Afresh b (t.raiseFaults cs) := by
  unfold raiseFaults
  induction cs generalizing t with
  | nil => exact h
  | cons c cs ih => exact ih (h.onward (raise_judged h.judged (l := 1) (by decide) (.presenceFault c)).1)

/-- A presence sample judges every entry afresh. -/
theorem presenceSample_judged (s : State) (a b) : s.ZonesJudged (s.presenceSample a b) :=
  zonesJudged_of (b := s.filterChannels a b) (fun _ => rfl) rfl rfl rfl
    (raiseFaults_afresh (s.newFaults a b) (judgeZones_afresh (s.filterChannels a b)))

/-- A judgement of all zones, alone and with a raise at level 1 after it. -/
theorem zonesJudged_judgeZones {s b : State} (hz : ∀ z, b.zone z = s.zone z) (hl : b.stop.level = s.stop.level)
    (hp : b.zonePosition = s.zonePosition) (ha : b.auth = s.auth) :
    s.ZonesJudged b.judgeZones ∧ ∀ c, s.ZonesJudged (b.judgeZones.raise c 1) :=
  ⟨zonesJudged_of hz hl hp ha (judgeZones_afresh b), fun c => zonesJudged_of hz hl hp ha
    ((judgeZones_afresh b).onward (raise_judged (judgeZones_afresh b).judged (by decide) c).1)⟩

/-- One channel's part of a sample judges every entry afresh. -/
theorem takeReading_judged (s : State) (c r) :
    s.ZonesJudged (s.takeReading c r) ∧ s.ZonesJudged ((s.takeReading c r).raise (.presenceFault c) 1) := by
  have h := zonesJudged_judgeZones (s := s) (b := { s with
    zones := { s.zones with channels := s.zones.channels.modify c fun p => p.filtered s.zones.debounce r }
    taken := { s.taken with presence := s.taken.presence.set c true } }) (fun _ => rfl) rfl rfl rfl
  exact ⟨h.1, h.2 _⟩

end Sys2Proof.Machine.State
end

