-- ==== Sys2Proof/Tests/Slice0.lean ====
section
/-! SUPPORT. Tests: worked cases of the manual, ill-formed commands that the check refuses, and for every statement with
hypotheses a concrete state and operands that meet them. -/

namespace Sys2Proof.Tests

open Sys2Proof Sys2Proof.Machine

/-! ### States the tests start from -/

/-- Every link UP, no stop, the chain closed, every presence channel CLEAR. -/
def crane : State :=
  { State.reset with
    links := Tab.const 4 { Link.atReset with state := .up }
    generator := ⟨false, false⟩
    stop := { StopController.started with
      level := 0, primaryCause := none, primaryRecord := none, chain := .closed, memory := [], records := [], cut := false }
    zones := { State.reset.zones with channels := Tab.const 8 ⟨.clear, some .bothClear, 50, 0⟩ } }

/-- A limits record: vmax 40, a_accel 1, a_stop 2, fe_limit 1,000, no trim. -/
def wide : Limits := ⟨-10000, 10000, 10240, 256, 512, 1000, 0, false, 100, 0, 0⟩

/-- The same with a trim step of 4 and a trim range of 1,000. -/
def trimmed : Limits := { wide with trimStep := 4, trimRange := 1000 }

/-- A channel that holds a setpoint at a whole count, at rest. -/
def heldAt (c : Int) : AxisChannel := ⟨some wide, .ready, some ⟨c * 256, 0, .velocity 0⟩, 0, 0, 100⟩

/-- The state with one axis READY, its drive ACTIVE and at rest at a whole count, MANUAL under a station. -/
def withAxis (s : State) (j : Axis) (c : Int) (st : Station) : State :=
  { s with
    channels := s.channels.set j (heldAt c)
    auth := s.auth.set j ⟨some st, .manual, none, .vel 0, false⟩
    port := { s.port with drives := s.port.drives.set j ⟨.active, some (.ready, c), 0, 0, false⟩ } }

/-- Axis 0 held by S0 at count 100. -/
def manned : State := withAxis crane 0 100 0

/-- The state at a stop level with the generator held. -/
def atLevel (s : State) (n : Nat) : State :=
  { s with stop := { s.stop with level := n, cut := decide (n = 3) }, generator := ⟨true, false⟩ }

/-- The state that a command leaves. -/
def after (c : Instr) (s : State) : State :=
  match exec c s with
  | .next t => t
  | _ => s

/-- The last reply waiting for a station. -/
def lastReply (s : State) (st : Station) : Option Reply := (s.links.get st).replies.getLast?

/-! ### Ill-formed commands -/

theorem test_wf_short_report_refused : (Instr.driveReport [0, 0, 0]).wf = false := by decide

theorem test_wf_good_frame_refused : (Instr.badFrame 0 [.data 2]).wf = false := by decide

theorem test_wf_long_request_refused : (Instr.go 0 1 (List.replicate 25 0)).wf = false := by decide

theorem test_wf_long_more_refused : (Instr.requestMore 0 1 6 (List.replicate 25 0)).wf = false := by decide

theorem test_wf_known_code_refused : (Instr.unknownRequest 0 1 43 []).wf = false := by decide

theorem test_wf_long_unknown_refused : (Instr.unknownRequest 0 1 44 (List.replicate 25 0)).wf = false := by decide

theorem test_wf_short_move_refused : (Instr.move 0 [0, 16, 0, 0]).wf = false := by decide

theorem test_wf_empty_trim_refused : (Instr.trim 0 []).wf = false := by decide

theorem test_wf_short_sync_refused : (Instr.sync 0 [0, 0, 0, 0]).wf = false := by decide

theorem test_wf_odd_test_refused : (Instr.test 0 [0, 1, 2]).wf = false := by decide

theorem test_wf_short_image_refused : (Instr.saveConfigEnd [0xC0]).wf = false := by decide

theorem test_wf_code_44_accepted : (Instr.unknownRequest 0 1 44 []).wf = true := by decide

/-! ### Worked cases -/

/-- Section 1.5: gaps of 930 and 300 counts with a_stop 2. -/
theorem test_permitted_speed : permittedSpeed (930 * 256) 512 = 60 * 256 ∧ permittedSpeed (300 * 256) 512 = 8615 := by
  decide

/-- Section 1.6: vmax 40 and the demand −10,000. -/
theorem test_velocity_demand : velocityDemand (-10000) 10240 = -3125 := by decide

/-- Section 1.7: vmax 30 and a cap of 33 %. -/
theorem test_capped_speed : cappedSpeed (30 * 256) 33 = 2534 := by decide

/-- Section 2.4: the rising map. -/
theorem test_rising_map :
    (MapPoints.mk [(600, 12000), (1000, 30000), (2000, 45001)] true).forward 1500 = 37501 ∧
      (MapPoints.mk [(600, 12000), (1000, 30000), (2000, 45001)] true).inverse 37501 = 1500 := by decide

/-- Section 2.4: the falling map. -/
theorem test_falling_map :
    (MapPoints.mk [(140, 9000), (280, 6000), (560, 2500), (1600, 400)] false).forward 1000 = 1612 ∧
      (MapPoints.mk [(140, 9000), (280, 6000), (560, 2500), (1600, 400)] false).inverse 1612 = 1000 := by decide

/-- R189: the check value of the digits 1 to 9. -/
theorem test_crc16 : crc16 [0x31, 0x32, 0x33, 0x34, 0x35, 0x36, 0x37, 0x38, 0x39] = 0x29B1 := by decide +kernel

/-- R160: the check value of the digits 1 to 9. -/
theorem test_crc32 : crc32 [0x31, 0x32, 0x33, 0x34, 0x35, 0x36, 0x37, 0x38, 0x39] = 0xCBF43926 := by decide +kernel

/-- R198: the word after 7FFF is 0002. -/
theorem test_sequence_word : predictWord 0x7FFF = 0x0002 := by decide

/-- R66, section 10.6: a claim of a held axis is refused with the axis and its station. -/
theorem test_claim_held : lastReply (after (.claim 1 9 [0, 1, 0]) { manned with
    stations := manned.stations.modify 1 fun r => { r with rights := 0x1FF } }) 1 =
      some ⟨9, 1, .heldBy, [0, 0]⟩ := by decide

/-- R114: a SPLIT reading is counted and raises nothing. -/
theorem test_chain_split : (after (.chainSample true false false) crane).stop.chain = .split ∧
    (after (.chainSample true false false) crane).stop.level = 0 := by decide

/-- R112: a stop at level 3 parks an ACTIVE drive and cuts power. -/
theorem test_stop_three : (after (.stopRequest 3 1 [3]) manned).stop.cut = true ∧
    (after (.stopRequest 3 1 [3]) manned).driveState 0 = .parked := by decide

/-- R16: a velocity demand of full scale moves the axis by a_accel in the first update. -/
theorem test_first_step : ((after .update (after (.move 0 [0, 16, 0, 0, 0x7F, 0xFF]) manned)).channels.get 0).moving =
    some ⟨101 * 256, 256, .velocity 32767⟩ := by decide +kernel

/-- R188: the sixteenth IDLE character in a row brings the link UP. -/
theorem test_alignment : (after (.linkCharacter 2 .idle) { crane with
    links := crane.links.set 2 { Link.atReset with state := .aligning, idleRun := 15 } }).linkState 2 = .up := by decide

/-- R203: a start without a valid image leaves the reset values. -/
theorem test_power_on : (after .powerOn manned).stop = State.reset.stop ∧
    (after .powerOn manned).configDefaulted = true ∧ (after .powerOn manned).driveState 0 = .off := by decide +kernel

/-! ### Witnesses: steps, commands and requests -/

theorem witness_StepTakesTheFrontCommand :
    (crane.withPending [.update, .markInput]).pending = .update :: [.markInput] ∧ crane.pending = [] := ⟨rfl, rfl⟩

theorem witness_HeldInResetNothingHappens : ({ crane with sysreset := true } : State).sysreset = true ∧
    Instr.update ≠ .powerOn ∧ ∀ b, Instr.update ≠ .sysreset b := ⟨rfl, by decide, by decide⟩

theorem witness_EveryRequestIsAnsweredOnce : (Instr.go 0 1 []).request? = some (0, 1, 35, []) ∧ crane.Serves 0 [] ∧
    (Instr.claim 3 255 (List.replicate 24 0)).request? = some (3, 255, 1, List.replicate 24 0) ∧
    crane.Serves 3 (List.replicate 24 0) := by decide

/-! ### Witnesses: invariants. Each holds of a state with a command waiting, and the step answers a next state. -/

/-- The manned crane with an update waiting. -/
def stepping : State := manned.withPending [.update]

theorem test_stepping_goes_on : ∃ t, step stepping = .next t := ⟨_, rfl⟩

theorem witness_StepKeepsCanonicalStores : stepping.CanonicalStores := ⟨by decide, by decide⟩

theorem witness_StepKeepsCutWithTheLevel : stepping.CutFollowsLevel := ⟨by decide, by decide, by decide⟩

theorem witness_StepKeepsRecordsInOrder : stepping.RecordsInOrder := ⟨by decide, by decide, trivial⟩

theorem witness_StepKeepsRecordsInOrder_full : ({ crane with stop := { crane.stop with
    nextSequence := 0, records := [{ StopRecord.start with sequence := 65535 }] } } : State).RecordsInOrder :=
  ⟨by decide, by decide, by decide, by decide, trivial⟩

theorem witness_StepKeepsDrivesAndChannels : stepping.DrivesAgree :=
  ⟨by decide, by decide, by decide, by decide, by decide⟩

theorem witness_StepKeepsEveryBlock : stepping.BlocksKept := by
  have h : stepping.takes.slots.list.flatMap TakeSlot.blocks = [] := by decide +kernel
  have e : stepping.takes.freeList = List.range 8192 := by
    simp only [stepping, manned, withAxis, crane, State.reset, State.withPending, TakeStore.atPowerOn]
  have both : stepping.takes.freeList ++ stepping.takes.slots.list.flatMap TakeSlot.blocks = List.range 8192 :=
    (congrArg₂ (· ++ ·) e h).trans (List.append_nil _)
  exact List.Perm.of_eq both

theorem witness_StepKeepsModesWithTheTake : stepping.StopsHoldTakes :=
  ⟨by show ∀ j, (stepping.mode j).underTake = false; decide, by decide, by
    intro i
    constructor
    · intro h; exact absurd h (by revert i; decide)
    · rintro ⟨r, h, _⟩; exact absurd h (by simp [stepping, manned, withAxis, crane, State.reset, State.withPending, TakeStore.atPowerOn]),
    fun h => absurd h (by decide)⟩

theorem witness_StepKeepsCountsInRange : stepping.CountsInRange := by
  have full : ∀ st : Station, (stepping.links.get st).overrun = none := by decide
  have reader : ∀ st : Station, stepping.marks.readers.get st = none := by decide
  have halt : stepping.stop.haltTimer = none := rfl
  refine ⟨fun st => ⟨?_, ?_, ?_, ?_, ?_, fun o h => ?_⟩, by decide, by decide, by decide, fun n h => ?_, fun st n h => ?_,
    by decide, by decide, by decide, by decide, by decide⟩
  · revert st; decide
  · revert st; decide
  · revert st; decide
  · revert st; decide
  · revert st; decide
  · rw [full] at h; cases h
  · rw [halt] at h; cases h
  · rw [reader] at h; cases h

/-! ### Witnesses: arithmetic, maps and images -/

theorem witness_PermittedSpeedIsTheLargest : 0 < 512 ∧ (0 : Int) ≤ 0 ∧ (0 : Int) < 930 * 256 ∧
    60 * 256 ≤ permittedSpeed (930 * 256) 512 ∧ 0 ≤ permittedSpeed 0 512 := by decide

theorem witness_MapConversionsMeetThePoints :
    mapOf 0 wide [(600, -500), (1000, 3000)] = some ⟨[(600, -500), (1000, 3000)], true⟩ ∧
      mapOf 1 wide [(140, 900), (280, 600)] = some ⟨[(140, 900), (280, 600)], false⟩ := by decide

theorem witness_LimitsRecordsReadBack : validLimits 0 wide = true ∧ validLimits 9 trimmed = true ∧
    validLimits 0 trimmed = false := by decide

/-- A HARD entry that ranges axis 1. -/
def hardEntry : ZoneEntry := ⟨true, .hard, 100, .both, 0, (Tab.const 7 none).set 1 (some (1000, 5000))⟩

/-- Settings with a limits record, a lens map and a zone entry. -/
def stored : ConfigImage :=
  { manned.config with
    limits := manned.config.limits.set 7 (some wide)
    maps := manned.config.maps.set 0 ⟨some ⟨[(600, -500), (1000, 3000)], true⟩, 65535⟩
    setTable := manned.config.setTable.set 0 hardEntry }

theorem witness_ConfigImageReadsBack : stored.storable ∧ Memory.wf erasedByte [] := by
  have lims : ∀ j, stored.limits.get j = none ∨ stored.limits.get j = some wide := by decide
  have wides : ∀ j, validLimits j wide = true := by decide
  refine ⟨⟨by decide, by decide, fun j r h => ?_, fun l => ?_, fun i => ?_, fun i => ?_, by decide, by decide, by decide,
    by decide, by decide, by decide, by decide, by decide, by decide, by decide⟩, by decide⟩
  · rcases lims j with e | e
    · rw [e] at h; cases h
    · rw [e] at h; cases h; exact wides j
  · by_cases e : l = 0
    · subst e; exact ⟨by decide, wide, by decide, by decide⟩
    · have : stored.maps.get l = ⟨none, 0⟩ := by revert l; decide
      rw [this]; exact ⟨by decide, trivial⟩
  · by_cases e : i = 0
    · subst e; exact .inr (by decide)
    · exact .inl (by revert i; decide)
  · exact .inl (by revert i; decide)

/-! ### Witnesses: the update and the events inside the part -/

/-- A test of `State.Quiet` that evaluates, for the states below. -/
def calm (s : State) : Bool :=
  !s.sysreset && s.stop.haltTimer.isNone &&
    decide (∀ i, (s.zone ⟨.set, i⟩).active = false ∧ (s.zone ⟨.crew, i⟩).active = false) &&
    decide (∀ st, (s.stations.get st).lastFrame < 249) &&
    decide (∀ j, s.fallsSilent j = false ∧ waitLimit (s.driveState j) = none) &&
    match s.play.state with
    | .seeking c => !s.startDue c
    | .ready c => !s.startDue c
    | _ => true

theorem quiet_of_calm (s : State) (h : calm s = true) : s.Quiet := by
  simp only [calm, Bool.and_eq_true, Bool.not_eq_true', decide_eq_true_eq, Option.isNone_iff_eq_none] at h
  obtain ⟨⟨⟨⟨⟨a, b⟩, c⟩, d⟩, e⟩, f⟩ := h
  refine ⟨a, fun n hn => ?_, ?_, d, fun j => ⟨(e j).1, fun n hn => ?_⟩, ?_⟩
  · rw [b] at hn; cases hn
  · rintro ⟨_ | _, i⟩
    · exact (c i).1
    · exact (c i).2
  · rw [(e j).2] at hn; cases hn
  · rintro q (hq | hq) <;> rw [hq] at f <;> simpa using f

/-- A test of `State.KeepsRunning` that evaluates. -/
def goesOn (s : State) : Bool :=
  match s.engineBegin.play.state with
  | .running h e => !s.engineBegin.atEnd h e
  | _ => true

theorem keepsRunning_of_goesOn (s : State) (h : goesOn s = true) : s.KeepsRunning := by
  intro q e hq
  simp only [goesOn, hq] at h
  simpa using h

theorem witness_UpdateSendsOneFrame : manned.sysreset = false ∧ (after .update manned).driveState 0 = .active ∧
    (after .update manned).driveState 1 = .off := by decide +kernel

theorem witness_TenthUpdateBuildsTheReports : manned.sysreset = false ∧ manned.linkState 0 = .up ∧
    (({ manned with stations := manned.stations.modify 0 fun r => { r with lastFrame := 248 } } : State).stations.get
      0).lastFrame < 249 ∧ (manned.links.get 0).reportFrames = [] ∧ ({ manned with reportCount := 9 } : State).reportCount = 9 ∧
    manned.reportCount < 9 := by decide

/-- A HARD entry of the CREW table about axis 0 at count 100, for channel 0. -/
def crewEntry : ZoneEntry := ⟨true, .hard, 100, .both, 1, (Tab.const 7 none).set 0 (some (50, 150))⟩

/-- A state with the entry as CREW 3. -/
def trespassing (s : State) (active : Bool) : State :=
  { s with zones := { s.zones with crewTable := s.zones.crewTable.set 3 ⟨crewEntry, active, false⟩ } }

/-- Channel 0 is PRESENT, so that the entry stays active; the update finds the crane in it. -/
theorem witness_UpdateSendsOneFrame_occupied :
    let s := trespassing { manned with zones := { manned.zones with
      channels := manned.zones.channels.set 0 ⟨.present, some .bothPresent, 50, 0⟩ } } true
    let z : ZoneId := ⟨.crew, 3⟩
    s.sysreset = false ∧ s.stop.level ≤ 2 ∧ (s.zone z).occupied = false ∧ ((after .update s).zone z).active = true ∧
      ((after .update s).zone z).entry.kind = .hard ∧ ((after .update s).zone z).occupied = true := by decide +kernel

/-- The manned crane with axis 0 inverted, drive 1 in a state and drive 2 PARKED. -/
def wired (d : DriveState) : State :=
  { manned with
    channels := manned.channels.modify 0 fun c => { c with limits := c.limits.map fun r => { r with invert := true } }
    port := { manned.port with drives := (manned.port.drives.set 1 ⟨d, none, 0, 0, false⟩).set 2 ⟨.parked, none, 0, 0, false⟩ } }

/-- WAKING and PARKING drives in an update, and a WAKING drive whose wake the raise of an occupied zone ends. -/
theorem witness_UpdateSendsOneFrame_entries :
    ((wired .waking).sysreset = false ∧ (after .update (wired .waking)).driveState 1 = .waking ∧
        (wired .waking).driveState 2 = .parked ∧ ((wired .waking).limits 0).map (fun r => r.invert) = some true ∧
        (after .update (wired .waking)).driveState 0 = .active ∧
        ((after .update (wired .waking)).channels.get 0).moving.isSome = true) ∧
      (after .update (wired .parking)).driveState 1 = .parking ∧
      (after .update (trespassing { wired .waking with zones := { manned.zones with
        channels := manned.zones.channels.set 0 ⟨.present, some .bothPresent, 50, 0⟩ } } true)).driveState 1 = .parking := by
  decide +kernel

/-- R43, section 10.6: the entry of an inverted axis at count 100, a WAKE entry and a REST entry, after the frame number. -/
theorem test_frame_bytes : (after .update (wired .waking)).port.line.take 16 =
    [manned.port.nextFrame, 2, 255, 255, 255, 156, 1, 0, 0, 0, 0, 0, 0, 0, 0, 0] := by decide +kernel

/-- The manned crane at its tenth update with notices for S0, its last report sent or not. -/
def reporting (frames : List ReportFrame) : State :=
  { manned with
    reportCount := 9
    links := manned.links.modify 0 fun l => { l with
      reportFrames := frames, notices := { Notices.empty with lostAxes := some (5, 2), cueFailed := some (3, .noGo) } } }

theorem witness_TenthUpdateBuildsTheReports_notices :
    ((reporting []).sysreset = false ∧ (reporting []).linkState 0 = .up ∧ ((reporting []).stations.get 0).lastFrame < 249 ∧
        (reporting []).reportCount = 9 ∧ ((reporting []).links.get 0).reportFrames = [] ∧
        ((reporting []).links.get 0).notices.kinds = [19, 20] ∧
        ((reporting []).links.get 0).notices.lostAxes = some (5, 2)) ∧
      (reporting [⟨0, 18, []⟩]).reportCount = 9 ∧ ((reporting [⟨0, 18, []⟩]).links.get 0).reportFrames ≠ [] ∧
      ((reporting [⟨0, 18, []⟩]).links.get 0).notices.kinds = [19, 20] := by decide

theorem witness_HeldAxisAtRestStays : (atLevel manned 1).sysreset = false ∧ (atLevel manned 1).generator.held = true ∧
    ((atLevel manned 1).channels.get 0).moving = some ⟨25600, 0, .velocity 0⟩ ∧ (Moving.mk 25600 0 (.velocity 0)).v = 0 := by
  decide

theorem witness_NoUpdateExceedsVmax : manned.sysreset = false ∧ manned.play.state = .idle ∧
    (manned.mode 0).underTake = false ∧ (manned.channels.get 0).moving = some ⟨25600, 0, .velocity 0⟩ ∧
    (manned.channels.get 0).limits = some wide ∧ (0 : Int).natAbs ≤ wide.vmax := by decide

/-- A take of axis 0 in two samples. -/
def take0 : Take :=
  ⟨Tab.const 8 65, 1, 1, 2, [0], some ⟨Tab.const 10 0, (Tab.const 10 ⟨0, 0, 0, 0⟩).set 0 ⟨0, 256, 256, 0⟩, Tab.const 3 none, 0⟩,
    .manual, false⟩

/-- The manned crane with the take CLOSED in slot 0. -/
def library : State :=
  { manned with takes := { manned.takes with
      values := [(1, 256)], freeList := [1], slots := manned.takes.slots.set 0 (.closed take0 .stopped) } }

/-- A cue of slot 0 by S0 with a start at 1,000. -/
def timed (go : Bool) : Cue := ⟨⟨0, 0, false⟩, some 1000, go, 0⟩

/-- The library with its take held in an engine state. -/
def holding (e : EngineState) (m : Mode) : State :=
  { library with
    play := { library.play with state := e }
    auth := library.auth.modify 0 fun a => { a with mode := m } }

theorem witness_TimedStartIsJudged_runs :
    let s := { holding (.ready (timed true)) .seek with time := { manned.time with now := 1000 } }
    s.sysreset = false ∧ (timed true).start = some 1000 ∧ (1000 : Time).toNat ≤ s.time.now.toNat ∧
      s.play.state = .ready (timed true) ∧ (timed true).go = true := by decide

theorem witness_TimedStartIsJudged_fails :
    let s := { holding (.ready (timed false)) .seek with time := { manned.time with now := 1000 } }
    let u := { holding (.seeking (timed true)) .seek with time := { manned.time with now := 1001 } }
    (s.play.state = .ready (timed false) ∧ (timed false).go = false ∧ (1000 : Time).toNat ≤ s.time.now.toNat) ∧
      u.play.state = .seeking (timed true) ∧ (1000 : Time).toNat ≤ u.time.now.toNat ∧
      u.linkState (timed true).hold.station = .up ∧ (u.takeAxes 0).getLsbD (0 : Axis).val = true := by decide

/-- The manned crane with the drive of axis 0 changed. -/
def withDrive (d : Drive) : State := { manned with port := { manned.port with drives := manned.port.drives.set 0 d } }

/-- The frame of the update before, with a RUN entry for axis 0 at count 100 and no answer yet. -/
def frame100 : SentFrame := ⟨7, (Tab.const 10 FrameEntry.rest).set 0 (.run 100), Tab.const 10 false⟩

/-- The crane that waits for the answers to that frame. -/
def listening (d : Drive) : State := { withDrive d with port := { (withDrive d).port with sent := some frame100 } }

/-- Every drive caught up at level 2, at the bound of fe_limit, and the drive of axis 0 one count beyond it. -/
theorem witness_HeldAxisAtRestStays_halt :
    let s (x : Int) := atLevel (withDrive ⟨.active, some (.ready, x), 0, 0, false⟩) 2
    let u := atLevel (holding (.paused ⟨0, 0, false⟩ 1) .paused) 2
    ((s 1100).Quiet ∧ (s 1101).Quiet ∧ u.Quiet) ∧
      ((s 1100).stop.level = 2 ∧ (s 1100).generator.held = true ∧ (s 1100).play.state = .idle ∧
        (∀ j : Axis, j ≠ 0 → ((s 1100).channels.get j).moving = none ∧ (s 1100).driveState j = .off) ∧
        ((s 1100).channels.get 0).moving = some ⟨25600, 0, .velocity 0⟩ ∧ (s 1100).limits 0 = some wide ∧
        ((s 1100).port.drives.get 0).lastReport = some (.ready, 1100) ∧ (1100 - toCount 25600).natAbs ≤ wide.feLimit) ∧
      (((s 1101).port.drives.get 0).lastReport = some (.ready, 1101) ∧ (s 1101).driveState 0 = .active ∧
        wide.feLimit < (1101 - toCount 25600).natAbs) ∧
      u.play.state = .paused ⟨0, 0, false⟩ 1 ∧ u.generator.held = true :=
  ⟨⟨quiet_of_calm _ (by decide), quiet_of_calm _ (by decide), quiet_of_calm _ (by decide)⟩, by decide⟩

theorem witness_NoUpdateExceedsVmax_outside :
    let s := { manned with channels := manned.channels.set 0 (heldAt (-10001)) }
    (s.channels.get 0).moving = some ⟨-2560256, 0, .velocity 0⟩ ∧ (-2560256 : Int) ≤ wide.low * 256 ∧
      ((manned.channels.set 0 (heldAt 10000)).get 0).moving = some ⟨2560000, 0, .velocity 0⟩ ∧
      wide.high * 256 ≤ (2560000 : Int) ∧ wide.low * 256 ≤ (2560000 : Int) := by decide

/-- The state with SET 0 an active zone of axis 0 alone. -/
def zoned (s : State) (kind : ZoneKind) (cap : Nat) (lo hi : Int) : State :=
  let e : ZoneEntry := ⟨true, kind, cap, .both, 0, (Tab.const 7 none).set 0 (some (lo, hi))⟩
  { s with zones := { s.zones with setTable := s.zones.setTable.set 0 ⟨e, true, false⟩ } }

/-- The manned crane moving at 829, three counts short of a zone: half a step too fast to stop before it. -/
def charging : State :=
  zoned { manned with channels := manned.channels.modify 0 fun c => { c with moving := some ⟨25600, 829, .velocity 32767⟩ } }
    .hard 100 102 200

/-- The take of axis 0 in PLAYBACK, its path leading down into a zone. -/
def following (kind : ZoneKind) : State := zoned (holding (.running ⟨0, 0, false⟩ 0) .playback) kind 10 0 98

theorem witness_NoUpdateExceedsVmax_overrun :
    let u := charging.beginUpdate.moveTrims.supplyTargets
    charging.sysreset = false ∧ (0 : Axis) = motionAxis 0 ∧
      (u.channels.get 0).moving = some ⟨25600, 829, .velocity 32767⟩ ∧ (u.channels.get 0).limits = some wide ∧
      u.candidate 0 = some 1085 ∧ allZones = [] ++ ⟨.set, 0⟩ :: allZones.tail ∧ u.Blocks 0 25600 ⟨.set, 0⟩ 256 ∧
      (permittedSpeed 256 wide.aStop : Int) < (829 : Int).natAbs - wide.aStop ∧
      ¬(permittedSpeed 256 wide.aStop : Int) < (828 : Int).natAbs - wide.aStop :=
  ⟨by decide, by decide, by decide +kernel, by decide +kernel, by decide +kernel, by decide,
    ⟨by decide +kernel, by decide +kernel, by decide +kernel, 102, 200, by decide +kernel, .inl ⟨by decide, by decide⟩⟩,
    by decide, by decide⟩

theorem witness_NoUpdateExceedsVmax_block :
    let u := (following .hard).beginUpdate.moveTrims.supplyTargets
    (following .hard).sysreset = false ∧ (u.channels.get 0).limits = some wide ∧
      (∃ m, (u.channels.get 0).moving = some m ∧ m.p = 25600 ∧ m.v = 0) ∧ u.candidate 0 = some (-25344) ∧
      (u.auth.get 0).mode = .playback ∧ u.generator.held = false ∧ u.Blocks 0 25600 ⟨.set, 0⟩ 256 ∧
      permittedSpeed 256 wide.aStop < (-25344 : Int).natAbs ∧
      ∀ g, ((0 : Int).natAbs : Int) - wide.aStop ≤ permittedSpeed g wide.aStop :=
  ⟨by decide, by decide +kernel, ⟨⟨25600, 0, .path 256⟩, by decide +kernel, rfl, rfl⟩, by decide +kernel, by decide +kernel,
    by decide +kernel,
    ⟨by decide +kernel, by decide +kernel, by decide +kernel, 0, 98, by decide +kernel, .inr ⟨by decide, by decide, by decide⟩⟩,
    by decide, fun _ => Int.le_trans (by decide) (Int.natCast_nonneg _)⟩

theorem witness_NoUpdateExceedsVmax_speed :
    let u := (following .slow).beginUpdate.moveTrims.supplyTargets
    (following .slow).sysreset = false ∧ u.candidate 0 = some (-25344) ∧ (u.auth.get 0).mode = .playback ∧
      u.generator.held = false ∧ u.slowAnswer u.reaches 0 = some (⟨.set, 0⟩, 10) ∧
      wide.vmax * 10 / 100 < (-25344 : Int).natAbs := by decide +kernel

/-- A manned crane with a running or ready untimed take of axis 0 at half the rate of updates. -/
def playing (e : EngineState) (m : Mode) : State :=
  { holding e m with takes := { library.takes with
      slots := library.takes.slots.set 0 (.closed { take0 with divisor := 2 } .stopped) } }

theorem witness_TimedStartIsJudged_update :
    let s := playing (.ready ⟨⟨0, 0, false⟩, none, true, 0⟩) .seek
    let u := playing (.running ⟨0, 0, false⟩ 0) .playback
    let k := { take0 with divisor := 2 }
    (s.Quiet ∧ u.Quiet) ∧
      (s.stop.level = 0 ∧ s.generator.held = false ∧ s.takes.closedTake 0 = some k ∧
        s.play.state = .ready ⟨⟨0, 0, false⟩, none, true, 0⟩ ∧ k.axes.getLsbD (0 : Axis).val = true ∧
        0 + s.lead 0 < (k.count - 1) * k.divisor) ∧
      u.play.state = .running ⟨0, 0, false⟩ 0 ∧ u.taken.running = false ∧ u.takes.closedTake 0 = some k ∧
      (∀ j : Axis, k.axes.getLsbD j.val = true → u.mode j = .playback) ∧ 0 + 1 + u.lead 0 < (k.count - 1) * k.divisor ∧
      (u.channels.get 0).moving = some ⟨25600, 0, .velocity 0⟩ ∧ u.limits 0 = some wide ∧ wide.low ≤ wide.high :=
  ⟨⟨quiet_of_calm _ (by decide), quiet_of_calm _ (by decide)⟩, by decide⟩

theorem witness_DriveTimeoutsFault_waits :
    let waking := withDrive ⟨.waking, none, 0, 499, false⟩
    let parking := withDrive ⟨.parking, none, 0, 199, false⟩
    (waking.sysreset = false ∧ waking.driveState 0 = .waking ∧ 499 ≤ (waking.port.drives.get 0).wait ∧
        ∀ i, waking.fallsSilent i = false) ∧
      parking.sysreset = false ∧ parking.driveState 0 = .parking ∧ 199 ≤ (parking.port.drives.get 0).wait ∧
      parking.fallsSilent 0 = false := by decide

theorem witness_DriveTimeoutsFault_silent :
    let s (st : DriveState) (n : Nat) := listening ⟨st, none, 2, n, false⟩
    (s .active 0).sysreset = false ∧ (s .active 0).port.sent = some frame100 ∧ frame100.entries.get 0 ≠ .rest ∧
      frame100.answered.get 0 = false ∧ ((s .active 0).driveState 0).powered = true ∧
      2 ≤ ((s .active 0).port.drives.get 0).silence ∧ ((s .waking 499).driveState 0).powered = true ∧
      ((s .parking 199).driveState 0).powered = true := by decide

theorem witness_HaltTimerRunsOut :
    let s := { atLevel manned 2 with stop := { (atLevel manned 2).stop with haltTimer := some 1999 } }
    let u := { atLevel crane 2 with stop := { (atLevel crane 2).stop with haltTimer := some 1999 } }
    (s.sysreset = false ∧ s.stop.level = 2 ∧ s.stop.haltTimer = some 1999 ∧ (s.driveState 0).powered = true) ∧
      u.sysreset = false ∧ u.stop.level = 2 ∧ u.stop.haltTimer = some 1999 ∧ ∀ i, (u.driveState i).powered = false := by decide

theorem witness_StaleMarkStopsItsAxes :
    let s := { manned with stations := manned.stations.modify 0 fun r => { r with lastMove := 19 } }
    s.sysreset = false ∧ s.linkState 0 = .up ∧ 19 ≤ (s.stations.get 0).lastMove ∧ (s.auth.get 0).owner = some 0 ∧
      s.mode 0 = .manual ∧ (s.auth.get 0).stale = false ∧ (s.auth.get 1).owner ≠ some 0 := by decide

theorem witness_StationLostGivesUpItsAxes :
    let f (s : State) := { s with stations := s.stations.modify 0 fun r => { r with lastFrame := 249 } }
    let s := f manned
    let u := f (holding (.running ⟨0, 0, false⟩ 0) .playback)
    (s.sysreset = false ∧ s.linkState 0 = .up ∧ 249 ≤ (s.stations.get 0).lastFrame ∧ s.ownsUnderTake 0 = false ∧
        (s.auth.get 0).owner = some 0 ∧ s.mode 0 = .manual) ∧
      u.linkState 0 = .up ∧ 249 ≤ (u.stations.get 0).lastFrame ∧ u.ownsUnderTake 0 = true := by decide

/-- The last frame of S0 249 updates old, with axis 1 MANUAL under it beside a take of axis 0. -/
def losing (e : EngineState) (m : Mode) : State :=
  let s := holding e m
  { s with
    stations := s.stations.modify 0 fun r => { r with lastFrame := 249 }
    auth := s.auth.set 1 ⟨some 0, .manual, none, .vel 100, false⟩ }

theorem witness_StationLostGivesUpItsAxes_both :
    let c := timed true
    let fits (s : State) := s.sysreset = false ∧ s.linkState 0 = .up ∧ 249 ≤ (s.stations.get 0).lastFrame ∧
      s.ownsUnderTake 0 = true ∧ s.modesFit ∧ (s.auth.get 1).owner = some 0 ∧ s.mode 1 = .manual ∧ s.stop.level ≤ 2 ∧
      (s.auth.get 0).owner = some 0 ∧ (s.mode 0).underTake = true
    fits (losing (.running ⟨0, 0, false⟩ 0) .playback) ∧ fits (losing (.paused ⟨0, 0, false⟩ 1) .paused) ∧
      fits (losing (.seeking c) .seek) ∧ fits (losing (.ready c) .seek) := by
  refine ⟨?_, ?_, ?_, ?_⟩ <;>
    exact ⟨by decide, by decide, by decide, by decide, ⟨take0, by decide, by decide⟩, by decide⟩

theorem witness_TicksAndRatePeriodsAreCounted :
    let s := { manned with time := { manned.time with
      settings := { manned.time.settings with counter := .rate, period := 40 }, periodCount := 39 } }
    s.sysreset = false ∧ s.taken.period = false ∧ s.time.settings.counter = .rate ∧
      s.time.settings.period ≤ s.time.periodCount + 1 := by decide

/-! ### Witnesses: inputs from outside -/

/-- The bytes of a report of axis 0 that answers frame 7. -/
def reportBytes (code : Byte) (position : List Byte) : List Byte :=
  [0, 7, code] ++ position ++ crc16Bytes ([0, 7, code] ++ position)

theorem witness_ReadyReportWakesTheDrive :
    let s := listening ⟨.waking, none, 0, 0, false⟩
    s.sysreset = false ∧ reportOf (reportBytes 2 [0, 0, 0, 50]) = some ⟨0, 7, .ready, 50⟩ ∧
      (0 : Byte).toNat = (0 : Axis).val ∧ s.port.sent = some frame100 ∧ (7 : Byte) = frame100.number ∧
      frame100.answered.get 0 = false ∧ s.driveState 0 = .waking ∧ s.stop.level ≤ 2 ∧
      50 = reportedPosition (s.inverted 0) 50 := by decide +kernel

theorem witness_ReadyReportWakesTheDrive_others :
    let s (st : DriveState) := listening ⟨st, none, 1, 3, false⟩
    let r (code : Byte) := reportOf (reportBytes code [0, 0, 0, 50])
    (r 3 = some ⟨0, 7, .fault, 50⟩ ∧ r 0 = some ⟨0, 7, .braked, 50⟩ ∧ r 1 = some ⟨0, 7, .powering, 50⟩ ∧
        r 2 = some ⟨0, 7, .ready, 50⟩ ∧ 50 = reportedPosition ((s .off).inverted 0) 50) ∧
      (∀ st, (s st).sysreset = false ∧ (s st).port.sent = some frame100 ∧ (s st).driveState 0 = st) ∧
      ReportCode.braked ≠ .fault := by
  refine ⟨by decide +kernel, fun st => ⟨rfl, rfl, rfl⟩, by decide⟩

/-- Dropped: no report at all, a report of no axis, another frame's, and a second one. -/
theorem witness_ReadyReportWakesTheDrive_dropped :
    let s := listening ⟨.active, none, 0, 0, false⟩
    let answered := { s with port := { s.port with sent := some { frame100 with answered := Tab.const 10 true } } }
    reportOf [0, 0, 0] = none ∧
      (reportOf ([10, 7, 2, 0, 0, 0, 0] ++ crc16Bytes [10, 7, 2, 0, 0, 0, 0]) = some ⟨10, 7, .ready, 0⟩ ∧
        ∀ j : Axis, (10 : Byte).toNat ≠ j.val) ∧
      (reportOf ([0, 6, 2, 0, 0, 0, 0] ++ crc16Bytes [0, 6, 2, 0, 0, 0, 0]) = some ⟨0, 6, .ready, 0⟩ ∧
        (6 : Byte) ≠ frame100.number ∧ s.port.sent = some frame100) ∧
      answered.port.sent = some { frame100 with answered := Tab.const 10 true } ∧
      (Tab.const 10 true : Tab 10 Bool).get 0 = true := by decide +kernel

theorem witness_ReportsOfAnActiveDriveAreJudged :
    let s := listening ⟨.active, some (.ready, 100), 0, 0, false⟩
    s.sysreset = false ∧ s.port.sent = some frame100 ∧ (7 : Byte) = frame100.number ∧ frame100.answered.get 0 = false ∧
      s.driveState 0 = .active ∧ frame100.entries.get 0 = .run 100 ∧ s.limits 0 = some wide ∧
      (s.port.drives.get 0).followingError = false ∧ s.stop.level ≤ 2 ∧
      reportOf (reportBytes 3 [0, 0, 0, 100]) = some ⟨0, 7, .fault, 100⟩ ∧
      (reportOf (reportBytes 2 [0, 0, 0x04, 0x4D]) = some ⟨0, 7, .ready, 1101⟩ ∧
        wide.feLimit < (reportedPosition (s.inverted 0) 1101 - 100).natAbs) ∧
      reportOf (reportBytes 2 [0, 0, 0x04, 0x4C]) = some ⟨0, 7, .ready, 1100⟩ ∧
      (reportedPosition (s.inverted 0) 1100 - 100).natAbs ≤ wide.feLimit := by decide +kernel

theorem witness_ReportsOfAnActiveDriveAreJudged_recorded :
    let s := listening ⟨.active, some (.ready, 100), 0, 0, true⟩
    let resting : SentFrame := { frame100 with entries := Tab.const 10 .rest }
    let u := { s with port := { s.port with sent := some resting } }
    (s.driveState 0 = .active ∧ (s.port.drives.get 0).followingError = true ∧ frame100.entries.get 0 = .run 100 ∧
        wide.feLimit < (reportedPosition (s.inverted 0) 1101 - 100).natAbs) ∧
      u.port.sent = some resting ∧ resting.answered.get 0 = false ∧ u.driveState 0 = .active ∧
      ∀ x, resting.entries.get 0 ≠ .run x :=
  ⟨by decide, by decide, by decide, by decide, fun _ h => by cases h⟩

/-- The manned crane with one presence channel changed. -/
def withPresence (p : Presence) : State :=
  { manned with zones := { manned.zones with channels := manned.zones.channels.set 0 p } }

theorem witness_PresenceSampleJudgesChannels :
    let s := withPresence ⟨.clear, some .bothPresent, 9, 0⟩
    let u := withPresence ⟨.clear, some .split, 0, 20⟩
    (s.sysreset = false ∧ s.zones.channels.get 0 = ⟨.clear, some .bothPresent, 9, 0⟩ ∧
        s.readingTaken 0 (readingAt 1 1 0) = false ∧
        (1 : ChannelSet).getLsbD (0 : Channel).val = (1 : ChannelSet).getLsbD (0 : Channel).val ∧
        s.zones.debounce ≤ min 50 (9 + 1) ∧ ¬ s.zones.debounce ≤ 1) ∧
      u.sysreset = false ∧ u.readingTaken 0 (readingAt 1 0 0) = false ∧
      (1 : ChannelSet).getLsbD (0 : Channel).val ≠ (0 : ChannelSet).getLsbD (0 : Channel).val ∧
      20 ≤ (u.zones.channels.get 0).split ∧ (u.zones.channels.get 0).state ≠ .fault ∧
      (s.zones.channels.get 0).split < 20 := by decide

theorem witness_PresenceSampleJudgesChannels_taken :
    let s := withPresence ⟨.present, some .bothPresent, 10, 0⟩
    let u := { s with taken := { s.taken with presence := s.taken.presence.set 0 true } }
    u.sysreset = false ∧ u.zones.channels.get 0 = ⟨.present, some .bothPresent, 10, 0⟩ ∧
      u.readingTaken 0 (readingAt 1 1 0) = true ∧ u.readingTaken 0 (readingAt 0 0 0) = false ∧
      u.readingTaken 0 (readingAt 1 0 0) = false := by decide

theorem witness_PresenceEventsChangeTheChannel :
    let p : Presence := ⟨.clear, some .bothPresent, 9, 0⟩
    let q : Presence := ⟨.clear, some .split, 0, 20⟩
    ((withPresence p).sysreset = false ∧ (withPresence p).zones.channels.get 0 = p ∧ p.state ≠ .present ∧
        (withPresence p).zones.debounce ≤ (if p.last = some .bothPresent then min 50 (p.agree + 1) else 1)) ∧
      (withPresence q).sysreset = false ∧ (withPresence q).zones.channels.get 0 = q ∧ q.state ≠ .fault ∧ 20 ≤ q.split := by
  decide

/-- A seeking cue with the crane in CREW 3 and CREW 4, which match PLAYBACK alone. -/
def seekingInside (active : Bool) (p : Presence) : State :=
  let s := holding (.seeking (timed false)) .seek
  let z : Zone := ⟨{ crewEntry with modeMatch := .playback }, active, false⟩
  { s with zones := { s.zones with
      crewTable := (s.zones.crewTable.set 3 z).set 4 z, channels := s.zones.channels.set 0 p } }

/-- R95: one test finds both, and the second is raised although the first raise cancels the cue and makes it inactive. -/
theorem test_each_found_is_raised :
    let t := after .update (seekingInside true ⟨.present, some .bothPresent, 50, 0⟩)
    t.stop.memory = [.zoneOccupied ⟨.crew, 3⟩, .zoneOccupied ⟨.crew, 4⟩] ∧ (t.zone ⟨.crew, 4⟩).active = false ∧
      (t.zone ⟨.crew, 4⟩).occupied = false := by decide +kernel

/-- The same where the entries become active. -/
theorem test_each_entering_is_raised :
    (after (.presenceStateChange 0 true) (seekingInside false ⟨.clear, some .bothPresent, 9, 0⟩)).stop.memory =
      [.zoneOccupied ⟨.crew, 3⟩, .zoneOccupied ⟨.crew, 4⟩] := by decide +kernel

theorem witness_PresenceEventsChangeTheChannel_each :
    let s := seekingInside false ⟨.clear, some .bothPresent, 9, 0⟩
    let z : ZoneId := ⟨.crew, 4⟩
    let t := after (.presenceStateChange 0 true) s
    let u := after (.presenceSample 1 1) s
    let f := seekingInside false ⟨.clear, some .split, 0, 20⟩
    (s.sysreset = false ∧ (s.zone z).active = false ∧ (s.zone z).occupied = false ∧ (s.zone z).entry.kind = .hard) ∧
      { s with zones := { s.zones with channels := t.zones.channels } }.ActiveBy88 .crew (s.zone z).entry ∧
      { s with zones := { s.zones with channels := u.zones.channels } }.ActiveBy88 .crew (s.zone z).entry ∧
      { f with zones := { f.zones with channels := (after (.presenceFault 0) f).zones.channels } }.ActiveBy88 .crew
        (f.zone z).entry ∧ s.Inside (s.zone z).entry :=
  ⟨by decide, (State.active_iff _ _ _).2 (by decide +kernel), (State.active_iff _ _ _).2 (by decide +kernel),
    (State.active_iff _ _ _).2 (by decide +kernel), (State.inside_iff _ _).2 (by decide)⟩

/-- The sample, and the event as a command of its own, make CREW 3 active while the crane stands in it. -/
theorem witness_PresenceSampleJudgesChannels_zones :
    let s := trespassing (withPresence ⟨.clear, some .bothPresent, 9, 0⟩) false
    let z : ZoneId := ⟨.crew, 3⟩
    (s.sysreset = false ∧ s.stop.level ≤ 2 ∧ (s.zone z).active = false ∧ (s.zone z).occupied = false ∧
        (s.zone z).entry = crewEntry ∧ crewEntry.kind = .hard) ∧ s.Inside crewEntry ∧
      ((after (.presenceSample 1 1) s).zone z).active = true ∧
      ((after (.presenceStateChange 0 true) s).zone z).active = true :=
  ⟨by decide, (State.inside_iff _ _).2 (by decide), by decide +kernel, by decide +kernel⟩

theorem witness_PresenceEventsChangeTheChannel_zones :
    let s := trespassing (withPresence ⟨.clear, some .split, 0, 20⟩) false
    let z : ZoneId := ⟨.crew, 3⟩
    (s.sysreset = false ∧ s.stop.level ≤ 2 ∧ (s.zone z).active = false ∧ (s.zone z).occupied = false ∧
        (s.zone z).entry = crewEntry) ∧ s.Inside crewEntry ∧ ((after (.presenceFault 0) s).zone z).active = true :=
  ⟨by decide, (State.inside_iff _ _).2 (by decide), by decide +kernel⟩

theorem witness_ChainSamplesAreJudged :
    let s := { manned with stop := { manned.stop with chain := .split, chainSplit := 19 } }
    let u := { manned with stop := { manned.stop with chain := .split, chainSplit := 20 } }
    (s.sysreset = false ∧ s.taken.chain = false ∧ s.stop.chain ≠ .isOpen ∧ s.stop.chainSplit < 20 ∧ s.stop.chain ≠ .fault ∧
        (true : Bool) ≠ false ∧ s.stop.level < 3) ∧
      u.sysreset = false ∧ u.taken.chain = false ∧ 20 ≤ u.stop.chainSplit ∧ u.stop.chain ≠ .fault := by decide

theorem witness_ChainSamplesAreJudged_taken :
    let s := { manned with
      stop := { manned.stop with chain := .fault, chainSplit := 21 }, taken := { manned.taken with chain := true } }
    s.sysreset = false ∧ s.taken.chain = true ∧ s.stop.chain ≠ .closed ∧ (true : Bool) ≠ false ∧ s.stop.chain ≠ .isOpen := by
  decide

/-! ### Witnesses: marks and links -/

/-- A mark by the MARK input. -/
def mark0 : Mark := ⟨.input, 5, none, none, Tab.const 10 none, Tab.const 3 none⟩

/-- The manned crane with a published mark, and a later one that waits for its open reader. -/
def reading (n : Nat) : State :=
  { manned with marks := { manned.marks with
      newest := some { mark0 with timebase := 9 }, published := some mark0, pending := true, count := 2
      readers := manned.marks.readers.set 2 (some n) } }

theorem witness_MarksAreLatched : manned.sysreset = false ∧ manned.marks.lockout = 0 ∧ manned.Serves 1 [] ∧
    (∀ o, manned.marks.readers.get o = none) ∧ (reading 0).marks.readers.get 2 ≠ none ∧ (reading 0).marks.lockout = 0 ∧
    0 < ({ manned with marks := { manned.marks with lockout := 1 } } : State).marks.lockout := by decide

theorem witness_MarkReadersOpenAndClose :
    (reading 199).sysreset = false ∧ (reading 199).marks.published = some mark0 ∧ (reading 199).Serves 2 [0] ∧
      (reading 199).Serves 2 [1] ∧ (reading 199).Serves 2 [2] ∧ (reading 199).marks.readers.get 2 = some 199 ∧
      (reading 199).marks.pending = true ∧ (reading 199).marks.newest = some { mark0 with timebase := 9 } ∧
      (∀ o, o ≠ 2 → (reading 199).marks.readers.get o = none) ∧
      ({ reading 0 with marks := { (reading 0).marks with readers := Tab.const 4 (some 199) } } : State).marks.readers.get
        3 ≠ none := by decide

/-- A mark with a take in each place and a user value, within the fields of part 0. -/
theorem witness_MarkReadersOpenAndClose_parts :
    let m : Mark := { mark0 with
      playing := some (31, 134217727), recording := some (0, 0), userValues := ⟨[some 1048575, none, some 0], rfl⟩ }
    m.playing = some (31, 134217727) ∧ m.recording = some (0, 0) ∧ (0 : Nat) < 134217728 ∧ (134217727 : Nat) < 134217728 ∧
      ∀ l u, m.userValues.get l = some u → u < 1048576 := by
  refine ⟨rfl, rfl, by decide, by decide, fun l u h => ?_⟩
  fin_cases l <;> cases h <;> decide

theorem witness_MarkReadersOpenAndClose_refused :
    (manned.Serves 2 [3] ∧ 2 < (3 : Byte).toNat ∧ manned.Serves 2 [255]) ∧
      (manned.Serves 2 [0] ∧ manned.marks.published = none) ∧
      (reading 0).Serves 1 [1] ∧ (reading 0).Serves 1 [2] ∧ (reading 0).marks.readers.get 1 = none := by decide

/-- The crane with the link of S2 changed. -/
def withLink (l : Link) : State := { crane with links := crane.links.set 2 l }

theorem witness_AlignmentBringsALinkUp :
    (withLink Link.atReset).sysreset = false ∧ (withLink Link.atReset).linkState 2 = .down ∧
      (withLink { Link.atReset with state := .aligning, idleRun := 14 }).linkState 2 = .aligning ∧
      ((withLink { Link.atReset with state := .aligning, idleRun := 14 }).links.get 2).idleRun < 15 ∧
      (withLink { Link.atReset with state := .aligning, idleRun := 15 }).linkState 2 = .aligning ∧
      15 ≤ ((withLink { Link.atReset with state := .aligning, idleRun := 15 }).links.get 2).idleRun := by decide

theorem witness_BadFramesAreCounted :
    let s := withLink { Link.atReset with state := .up, badRun := 30 }
    let u := withLink { Link.atReset with state := .test, badRun := 31 }
    s.sysreset = false ∧ s.linkState 2 = .up ∧ isBadFrame [.data 8, .codeError] = true ∧ (s.links.get 2).badRun < 31 ∧
      u.sysreset = false ∧ u.linkState 2 = .test ∧ 31 ≤ (u.links.get 2).badRun ∧ u.ownsUnderTake 2 = false := by decide

/-- A link with replies waiting. -/
def queued (n : Nat) : Link := { Link.atReset with state := .up, replies := List.replicate n ⟨1, 1, .ok, []⟩ }

theorem witness_RequestsThatReachNoRule :
    let holding := withLink { queued 7 with assembly := some ⟨1, 6, [0]⟩ }
    let full := withLink { queued 7 with overrun := some ⟨1, 1, 255⟩ }
    (crane.Hears 2 [0] ∧ (crane.links.get 2).assembly = none) ∧
      (holding.Hears 2 [0] ∧ (holding.links.get 2).assembly = some ⟨1, 6, [0]⟩ ∧ (holding.links.get 2).replies.length < 8 ∧
        (holding.links.get 2).overrun = none) ∧
      (crane.Serves 2 [] ∧ 43 < (44 : Byte).toNat ∧ crane.Serves 2 [0] ∧ claimArgs [0] = none) ∧
      ((withLink (queued 8)).Hears 2 [0] ∧ ((withLink (queued 8)).links.get 2).assembly = none ∧
        8 ≤ ((withLink (queued 8)).links.get 2).replies.length ∧ ((withLink (queued 8)).links.get 2).overrun = none) ∧
      full.Hears 2 [0] ∧ (full.links.get 2).assembly = none ∧ (full.links.get 2).overrun = some ⟨1, 1, 255⟩ := by decide

theorem witness_RequestsThatReachNoRule_test :
    let s := withLink { Link.atReset with state := .test, replies := List.replicate 7 ⟨1, 1, .ok, []⟩ }
    (s.sysreset = false ∧ s.linkState 2 = .test ∧ (List.replicate 24 (0 : Byte)).length ≤ 24 ∧
        (s.links.get 2).assembly = none ∧ (s.links.get 2).replies.length < 8 ∧ (s.links.get 2).overrun = none) ∧
      ((Instr.testStart 2 1 []).request? = some (2, 1, 42, []) ∧ (42 : Byte) ≠ 43) ∧
      (Instr.claim 2 1 [0]).request? = some (2, 1, 1, [0]) ∧ ((0 : Byte) = 0 ∨ 43 < (0 : Byte).toNat) ∧
      43 < (44 : Byte).toNat := by decide

theorem witness_RepliesAreSentBeforeReports :
    let full := withLink { queued 0 with overrun := some ⟨1, 1, 3⟩ }
    let report := withLink { queued 0 with reportFrames := [⟨0, 0, [1]⟩] }
    ((withLink (queued 1)).sysreset = false ∧ (withLink (queued 1)).linkState 2 = .up ∧
        ((withLink (queued 1)).links.get 2).replies = ⟨1, 1, .ok, []⟩ :: []) ∧
      (full.linkState 2 = .up ∧ (full.links.get 2).replies = [] ∧ (full.links.get 2).overrun = some ⟨1, 1, 3⟩) ∧
      report.linkState 2 = .up ∧ (report.links.get 2).replies = [] ∧ (report.links.get 2).overrun = none ∧
      (report.links.get 2).reportFrames = ⟨0, 0, [1]⟩ :: [] := by decide

/-! ### Witnesses: stream frames -/

theorem witness_MoveFramesSetCommands : manned.Hears 0 [0, 16, 0, 1, 0, 0, 0, 200] ∧
    movePayload [0, 16, 0, 1, 0, 0, 0, 200] = some [(0, .pos 200)] ∧ (manned.auth.get 0).owner = some 0 ∧
    manned.mode 0 = .manual ∧ (Command.pos 200).misplaced 0 = false ∧ (Command.user 5).misplaced 0 = true ∧
    (manned.channels.get 0).limits = some wide := by decide

/-- A frame with a DELTA for axis 0 and user values for axes 7 and 8, of which only axis 7 has a map. -/
theorem witness_MoveFramesSetCommands_user :
    let own : AuthEntry := ⟨some 0, .manual, none, .vel 0, false⟩
    let s := { manned with
      channels := manned.channels.map fun c : AxisChannel => { c with limits := some wide }
      auth := (manned.auth.set 7 own).set 8 own
      maps := manned.maps.set 0 ⟨some ⟨[(600, -500), (1000, 3000)], true⟩, 1⟩ }
    let p : List Byte := [24, 18, 128, 3, 0, 0, 0, 5, 0, 3, 32, 0, 1, 0]
    s.Hears 0 p ∧ movePayload p = some [(0, .delta 5), (7, .user 800), (8, .user 256)] ∧
      (∀ j : Axis, j = 0 ∨ j = 7 ∨ j = 8 → (s.auth.get j).owner = some 0 ∧ s.mode j = .manual ∧
        (s.channels.get j).limits = some wide) ∧
      (Command.delta 5).misplaced 0 = false ∧ (Command.user 800).misplaced 7 = false ∧ lensAxis 0 = 7 ∧ lensAxis 1 = 8 ∧
      (s.maps.get 0).map = some ⟨[(600, -500), (1000, 3000)], true⟩ ∧ (s.maps.get 1).map = none := by decide

/-- Axis 7 under a take, with a trim step. -/
def trimming (st : Option Station) : State :=
  { manned with
    channels := manned.channels.set 7 { heldAt 0 with limits := some trimmed }
    auth := manned.auth.set 7 ⟨some 1, .playback, st, .vel 0, false⟩ }

theorem witness_TrimIsSetByItsStation :
    (trimming (some 0)).Hears 0 [7, 0, 0, 1, 7, 0, 4, 0] ∧
      trimPayload [7, 0, 0, 1, 7, 0, 4, 0] = some ([(7, 1)] ++ [((7 : Axis).val, 1024)]) ∧
      (trimming (some 0)).limits 7 = some trimmed ∧ ((trimming (some 0)).auth.get 7).trimStation = some 0 ∧
      (trimming none).Serves 0 [BitVec.ofNat 8 (7 : Axis).val] ∧ (trimming none).holds 0 .trim = true ∧
      ((trimming none).mode 7).underTake = true ∧ (trimming none).limits 7 = some trimmed ∧ 0 < trimmed.trimStep ∧
      ((trimming none).auth.get 7).trimStation = none ∧ (trimming (some 0)).Serves 1 [BitVec.ofNat 8 (7 : Axis).val] ∧
      ((trimming (some 0)).auth.get 7).owner = some 1 := by decide

theorem witness_TrimIsSetByItsStation_others :
    (trimming (some 0)).Hears 0 [7, 0, 0, 1, 7, 0, 4, 0, 8, 0, 0, 5] ∧
      trimPayload [7, 0, 0, 1, 7, 0, 4, 0, 8, 0, 0, 5] = some ([(7, 1)] ++ ((7 : Axis).val, 1024) :: [(8, 5)]) ∧
      (∀ e ∈ [((8 : Nat), (5 : Int))], e.1 ≠ (7 : Axis).val) ∧ ((trimming (some 0)).auth.get 8).trimStation ≠ some 0 := by
  decide

theorem witness_TrimIsSetByItsStation_refused :
    (manned.Serves 0 [10] ∧ 9 < (10 : Byte).toNat) ∧
      ((trimming none).Serves 1 [BitVec.ofNat 8 (7 : Axis).val] ∧ ((trimming none).auth.get 7).trimStation = none) ∧
      (trimming (some 0)).Serves 2 [BitVec.ofNat 8 (7 : Axis).val] ∧
      ((trimming (some 0)).auth.get 7).trimStation ≠ some 2 ∧ ((trimming (some 0)).auth.get 7).owner ≠ some 2 := by decide

/-- The manned crane in a sync mode. -/
def syncing (m : SyncMode) : State :=
  { manned with time := { manned.time with settings := { manned.time.settings with mode := m, tolerance := 3 } } }

theorem witness_SyncFramesLoadOrCheckTheTimebase :
    manned.Hears 0 [255, 255, 255, 255, 255] ∧ syncPayload [255, 255, 255, 255, 255] = some 0xFFFFFFFFFF ∧
      (syncing .adopt).holds 0 .play = true ∧ (syncing .adopt).time.settings.mode = .adopt ∧
      (syncing .check).holds 0 .play = true ∧ (syncing .check).time.settings.mode = .check ∧
      (syncing .check).Hears 0 [0, 0, 0, 0, 4] ∧ (syncing .adopt).Hears 0 [0, 0, 0, 0, 4] ∧
      manned.time.settings.mode = .free ∧ manned.holds 1 .play = false := by decide

theorem witness_LinkTestJudgesItsWords :
    let s := withLink { Link.atReset with state := .test }
    (manned.Serves 2 [] ∧ ∀ j, (manned.auth.get j).owner ≠ some 2 ∧ (manned.auth.get j).trimStation ≠ some 2) ∧
      s.sysreset = false ∧ s.linkState 2 = .test ∧ testPayload [0x7F, 0xFF] = some [0x7FFF] ∧
      (s.links.get 2).assembly = none ∧ (s.links.get 2).replies.length < 8 ∧ (s.links.get 2).overrun = none := by decide

/-! ### Witnesses: authority and settings -/

theorem witness_AxesAreClaimedAndReleased :
    let s := { manned with stations := manned.stations.modify 3 fun r => { r with rank := 5, rights := 0x1FF } }
    (s.Serves 3 [3, 255, 1] ∧ (0x3FF : BitVec 16).toNat < 1024 ∧ (∀ j : Axis, (s.mode j).underTake = false) ∧
        claimArgs [3, 255, 1] = some (0x3FF, true) ∧ (∀ j : Axis, s.holds 3 (groupRight j) = true) ∧
        (s.auth.get 0).owner = some 0 ∧ (s.stations.get 0).rank < (s.stations.get 3).rank ∧ s.mode 0 = .manual ∧
        ∀ j : Axis, j ≠ 0 → (s.auth.get j).owner = none) ∧
      manned.Serves 0 [0, 1] ∧ axisSetArg [0, 1] = some 1 ∧
      ∀ j : Axis, ((1 : BitVec 16).setWidth 10).getLsbD j.val = true → (manned.auth.get j).owner = some 0 := by decide

theorem witness_SettingsAreReplaced :
    let table : List Byte := [1, 1, 0, 2, 0, 0, 3, 0, 0, 4, 0, 0]
    let sync : List Byte := [2, 0, 120, 3, 232, 1, 0, 40, 0, 2]
    (manned.Serves 0 table ∧ manned.holds 0 .config = true ∧
        stationTableArgs table = some ⟨[(1, 256), (2, 0), (3, 0), (4, 0)], rfl⟩ ∧
        hasRight (256 : Rights) .config = true) ∧
      (wordArg [0, 50] = some 50 ∧ playSetupArgs [15, 66, 64, 15, 66, 64] = some (1000000, 1000000)) ∧
      syncSetupArgs sync = some ⟨2, 120, 1000, 1, 40, 2⟩ ∧
      settingsOf ⟨2, 120, 1000, 1, 40, 2⟩ = some ⟨.check, 120, 1000, .rate, 40, 2⟩ ∧
      CounterMode.rate ≠ manned.time.settings.counter := by decide

theorem witness_CountsAreCleared : manned.Serves 0 [] ∧ manned.holds 0 .play = true ∧ manned.holds 0 .take = true ∧
    manned.holds 0 .release2 = true ∧ manned.stop.level = 0 := by decide

theorem witness_CountsAreCleared_refused :
    ((atLevel manned 1).Serves 0 [] ∧ (atLevel manned 1).holds 0 .release2 = true ∧ 0 < (atLevel manned 1).stop.level) ∧
      manned.Serves 1 [] ∧ manned.holds 1 .play = false ∧ manned.holds 1 .take = false ∧
      manned.holds 1 .release2 = false := by decide

/-! ### Witnesses: limits, lens maps and drives -/

theorem witness_LimitsAreLoaded :
    let bytes := 9 :: limitsBytes trimmed
    let s := { crane with links := crane.links.modify 0 fun l => { l with assembly := some ⟨4, 6, bytes.take 24⟩ } }
    s.Hears 0 (bytes.drop 24) ∧ (s.links.get 0).assembly = some ⟨4, 6, bytes.take 24⟩ ∧
      (s.links.get 0).replies.length < 8 ∧ (s.links.get 0).overrun = none ∧
      loadLimitsArgs (bytes.take 24 ++ bytes.drop 24) = some (9, trimmed) ∧ s.holds 0 .config = true ∧
      validLimits 9 trimmed = true ∧ s.driveState 9 = .off ∧ (s.mode 9).underTake = false := by decide

/-- Axis 7 LIMITED, with its map staged in full by S0, and ACTIVE at a target kept in user units. -/
def staged : State :=
  { withAxis crane 7 0 0 with
    channels := crane.channels.set 7
      { heldAt 0 with limits := some trimmed, commissioning := .limited, moving := some ⟨0, 0, .position 0 (some 700)⟩ }
    mapStaging := crane.mapStaging.set 0 (some ⟨0, [(600, -500), (1000, 3000)].map some⟩) }

theorem witness_LensMapsAreBuiltAndLoaded :
    (staged.Serves 0 [7, 24] ∧ staged.holds 0 .config = true ∧ twoBytes [7, 24] = some ((0 : Lens).val + 7, 24)) ∧
      (mapPointsArgs [7, 2, 0, 3, 232, 0, 0, 11, 184] = some ((0 : Lens).val + 7, 2, [(1000, 3000)]) ∧
        staged.Serves 0 [7, 2, 0, 3, 232, 0, 0, 11, 184] ∧
        staged.mapStaging.get 0 = some ⟨0, [some (600, -500), some (1000, 3000)]⟩ ∧ 2 + 1 ≤ 2 + 1 ∧
        (userRange 0).1 ≤ 1000 ∧ 1000 ≤ (userRange 0).2) ∧
      staged.Serves 0 [7] ∧ oneByte [7] = some ((0 : Lens).val + 7) ∧ staged.limits (lensAxis 0) = some trimmed ∧
      mapOf 0 trimmed [(600, -500), (1000, 3000)] = some ⟨[(600, -500), (1000, 3000)], true⟩ ∧
      (staged.channels.get (lensAxis 0)).commissioning ≠ .unset ∧ (staged.mode (lensAxis 0)).underTake = false := by decide

theorem witness_DriveRequestsMoveTheirDrives :
    let parked := withDrive ⟨.parked, none, 0, 0, false⟩
    let faulty := withDrive ⟨.fault, some (.braked, 0), 0, 0, false⟩
    let axes : AxisSet := (1 : BitVec 16).setWidth 10
    (parked.Serves 0 [0, 1] ∧ axisSetArg [0, 1] = some 1 ∧ parked.stop.level = 0 ∧
        ∀ j : Axis, axes.getLsbD j.val = true → parked.holds 0 (groupRight j) = true ∧
          (parked.channels.get j).commissioning = .ready ∧ parked.driveState j = .parked) ∧
      (manned.Serves 0 [0, 1] ∧ ∀ j : Axis, axes.getLsbD j.val = true → manned.driveState j = .active ∧
        (manned.mode j).underTake = false ∧ (manned.channels.get j).moving = some ⟨25600, 0, .velocity 0⟩) ∧
      faulty.Serves 0 [0, 1] ∧ ∀ j : Axis, axes.getLsbD j.val = true → faulty.driveState j = .fault ∧
        (faulty.port.drives.get j).lastReport = some (.braked, 0) := by decide

/-- The manned crane while S0 records axis 0, with `n` samples stored. -/
def recording (n : Nat) : State :=
  { manned with takes := { manned.takes with
      slots := manned.takes.slots.set 0 (.recording { take0 with count := n }), recorder := some ⟨0, 0, 0⟩ } }

theorem witness_DriveRequestsMoveTheirDrives_recording :
    let s := { recording 2 with takes := { (recording 2).takes with
      slots := manned.takes.slots.set 0 (.recording { take0 with axes := 2 }) } }
    manned.takes.recordingTake = none ∧ (recording 2).takes.recordingTake = some (⟨0, 0, 0⟩, take0) ∧
      take0.axes.getLsbD (0 : Axis).val = true ∧ (recording 2).driveState 0 = .active ∧
      s.takes.recordingTake = some (⟨0, 0, 0⟩, { take0 with axes := 2 }) ∧
      ({ take0 with axes := 2 } : Take).axes.getLsbD (0 : Axis).val = false := by decide

/-! ### Witnesses: zones and stops -/

/-- The manned crane with the entry staged by S0 for SET 0. -/
def zoning : State :=
  { manned with zones := { manned.zones with staging := manned.zones.staging.set 0 (some ⟨⟨.set, 0⟩, hardEntry⟩) } }

theorem witness_ZoneEntriesAreBuiltAndLoaded :
    let item : List Byte := [6, 0, 255, 255, 255, 0, 0, 0, 1, 0]
    (zoning.Serves 0 item ∧ zoneRangeArgs item = some [(6, some (-256, 256))] ∧ rangeValid (some (-256, 256)) = true) ∧
      (zoning.Serves 0 [] ∧ zoning.zones.staging.get 0 = some ⟨⟨.set, 0⟩, hardEntry⟩ ∧ hardEntry.hasRange = true ∧
        hardEntry.complete .set = true ∧ zoning.restForZones = true ∧ zoning.wouldBeOccupied .set hardEntry = false) ∧
      zoning.Serves 0 [0, 0, 0] ∧ zoneEnableArgs [0, 0, 0] = some (0, 0, false) ∧ tableOf 0 = some .set := by decide

/-- CREW 7 as a HARD entry with every mask bit, SET 0 as SLOW entries at either end of the cap. -/
theorem witness_ZoneEntriesAreBuiltAndLoaded_open :
    (zoning.Serves 0 [1, 7, if true then 1 else 0, 0, 0, 2, 255] ∧ zoning.holds 0 .config = true ∧
        [ZoneTable.set, .crew][(1 : Byte).toNat]? = some .crew ∧ (7 : Byte).toNat = (7 : Fin 8).val ∧
        [ZoneKind.hard, .slow][(0 : Byte).toNat]? = some .hard ∧
        [ModeMatch.manual, .playback, .both][(2 : Byte).toNat]? = some .both ∧ (255 : ChannelSet) ≠ 0) ∧
      ∀ cap : Byte, cap = 5 ∨ cap = 100 → zoning.Serves 0 [0, 0, if false then 1 else 0, 1, cap, 0, 0] ∧
        [ZoneTable.set, .crew][(0 : Byte).toNat]? = some .set ∧ [ZoneKind.hard, .slow][(1 : Byte).toNat]? = some .slow ∧
        5 ≤ cap.toNat ∧ cap.toNat ≤ 100 := by
  refine ⟨by decide, ?_⟩
  rintro _ (rfl | rfl) <;> decide

/-- The payload of ZONE_RANGE with two items: axis 6 from −256 to 256, then another axis ANY. -/
def twoItems (other : Byte) : List Byte := [6, 0, 255, 255, 255, 0, 0, 0, 1, 0, other, 1, 0, 0, 0, 0, 0, 0, 0, 0]

/-- Two items on two axes, and two on one. -/
theorem witness_ZoneEntriesAreBuiltAndLoaded_twoAxes : zoning.Serves 0 (twoItems 0) ∧ zoning.Serves 0 (twoItems 6) ∧
    zoneRangeArgs (twoItems 0) = some ([] ++ ((6 : Motion).val, some (-256, 256)) :: [(0, none)]) ∧
    zoneRangeArgs (twoItems 0) = some ([(6, some (-256, 256))] ++ ((0 : Motion).val, none) :: []) ∧
    zoneRangeArgs (twoItems 6) = some ([(6, some (-256, 256))] ++ ((6 : Motion).val, none) :: []) ∧
    rangeValid (some (-256, 256)) = true ∧ rangeValid none = true ∧ (0 : Nat) ≠ (6 : Motion).val :=
  ⟨by decide, by decide, by decide, by decide, by decide, by decide, by decide, by decide⟩

/-- R98: each of two items sets the range of its own axis. -/
theorem test_zone_range_two : ((after (.zoneRange 0 1 (twoItems 0)) zoning).zones.staging.get 0).map
    (fun g => (g.entry.ranges.get 6, g.entry.ranges.get 0)) = some (some (-256, 256), none) := by decide

theorem witness_StopRequestsStopTheCrane : manned.Serves 3 [1] ∧ oneByte [1] = some 1 ∧ manned.Serves 3 [3] ∧
    oneByte [3] = some 3 ∧ manned.stop.level ≤ 3 ∧ manned.stop.level < 1 ∧ manned.play.state = .idle := by decide

theorem witness_StopsAreReleased :
    let three (seen : Bool) := { atLevel manned 3 with stop := { (atLevel manned 3).stop with localResetSeen := seen } }
    let split := { atLevel manned 2 with stop := { (atLevel manned 2).stop with chain := .split } }
    (manned.Serves 0 [] ∧ manned.stop.level = 0) ∧
      ((three false).Serves 0 [] ∧ (three false).stop.level = 3 ∧ (three false).stop.localResetSeen = false) ∧
      (split.Serves 0 [] ∧ split.stop.level = 2 ∧ split.holds 0 .release2 = true ∧ split.stop.chain ≠ .closed) ∧
      ((three true).Serves 0 [] ∧ (three true).stop.level = 3 ∧ (three true).holds 0 .release2 = true ∧
        (three true).stop.localResetSeen = true) ∧
      (atLevel manned 1).Serves 0 [] ∧ (atLevel manned 1).stop.level = 1 ∧
      ((atLevel manned 1).auth.get 0).owner = some 0 ∧ (atLevel manned 1).stop.chain = .closed ∧
      (∀ c, ((atLevel manned 1).zones.channels.get c).state ≠ .fault) ∧
      (∀ i, ((atLevel manned 1).zone ⟨.set, i⟩).active = false ∧ ((atLevel manned 1).zone ⟨.crew, i⟩).active = false) ∧
      ∀ j, (atLevel manned 1).driveState j ≠ .fault := by decide

theorem witness_StopsAreReleased_noRight :
    let three := { atLevel manned 3 with stop := { (atLevel manned 3).stop with localResetSeen := true } }
    ((atLevel manned 1).Serves 1 [] ∧ (atLevel manned 1).stop.level = 1 ∧
        (∀ j, ((atLevel manned 1).auth.get j).owner ≠ some 1) ∧ (atLevel manned 1).holds 1 .play = false ∧
        (atLevel manned 1).holds 1 .release2 = false) ∧
      ((atLevel manned 2).Serves 1 [] ∧ (atLevel manned 2).stop.level = 2 ∧ (atLevel manned 2).holds 1 .release2 = false) ∧
      three.Serves 1 [] ∧ three.stop.level = 3 ∧ three.holds 1 .release2 = false := by decide

theorem witness_StopsAreReleased_conditions :
    let s := atLevel manned 2
    let c := { s with zones := { s.zones with channels := s.zones.channels.set 7 ⟨.fault, some .split, 0, 21⟩ } }
    let z := { s with zones := { s.zones with crewTable := s.zones.crewTable.set 7 ⟨hardEntry, true, true⟩ } }
    let d := { s with port := { s.port with drives := s.port.drives.set 9 ⟨.fault, none, 0, 0, false⟩ } }
    (c.Serves 0 [] ∧ c.stop.level = 2 ∧ c.holds 0 .release2 = true ∧ c.stop.chain = .closed ∧
        (c.zones.channels.get 7).state = .fault ∧ ∀ i : Channel, i.val < 7 → (c.zones.channels.get i).state ≠ .fault) ∧
      (z.Serves 0 [] ∧ z.stop.level = 2 ∧ z.holds 0 .release2 = true ∧ z.stop.chain = .closed ∧
        (∀ i, (z.zones.channels.get i).state ≠ .fault) ∧ allZones = allZones.dropLast ++ ⟨.crew, 7⟩ :: [] ∧
        (z.zone ⟨.crew, 7⟩).active = true ∧ (z.zone ⟨.crew, 7⟩).entry.kind = .hard ∧ (z.zone ⟨.crew, 7⟩).occupied = true ∧
        ∀ y ∈ allZones.dropLast, (z.zone y).occupied = false) ∧
      d.Serves 0 [] ∧ d.stop.level = 2 ∧ d.holds 0 .release2 = true ∧ d.stop.chain = .closed ∧
      (∀ i, (d.zones.channels.get i).state ≠ .fault) ∧
      (∀ i, (d.zone ⟨.set, i⟩).occupied = false ∧ (d.zone ⟨.crew, i⟩).occupied = false) ∧ d.driveState 9 = .fault ∧
      ∀ i : Axis, i.val < 9 → d.driveState i ≠ .fault := by decide

theorem witness_ReadsOnlyAnswer :
    (State.reset.stop.records[0]? = some StopRecord.start ∧ library.stop.records[7]? = none) ∧
      (library.Serves 0 [7, 4] ∧ twoBytes [7, 4] = some (7, 4)) ∧
      (library.Serves 0 [0, 13] ∧ twoBytes [0, 13] = some (0, 13) ∧ library.takes.slots.get 0 = .closed take0 .stopped) ∧
      library.Serves 0 [31, 0] ∧ twoBytes [31, 0] = some (31, 0) ∧ library.takes.slots.get 31 = .empty := by decide

theorem witness_ReadsOnlyAnswer_refused :
    (library.Serves 0 [8, 0] ∧ twoBytes [8, 0] = some (8, 0)) ∧ (library.Serves 0 [7, 5] ∧ twoBytes [7, 5] = some (7, 5)) ∧
      (library.Serves 0 [32, 0] ∧ twoBytes [32, 0] = some (32, 0)) ∧
      library.Serves 0 [31, 14] ∧ twoBytes [31, 14] = some (31, 14) := by decide

theorem witness_ReadsOnlyAnswer_slots :
    let s (k : TakeSlot) := { library with takes := { library.takes with slots := library.takes.slots.set 31 k } }
    ((s (.loading 3 [0])).Serves 0 [31, 0] ∧ (s (.loading 3 [0])).Serves 0 [31, 13] ∧ twoBytes [31, 13] = some (31, 13) ∧
        (s (.loading 3 [0])).takes.slots.get 31 = .loading 3 [0]) ∧
      (s (.recording take0)).Serves 0 [31, 13] ∧ (s (.recording take0)).takes.slots.get 31 = .recording take0 := by decide

theorem witness_ReadsOnlyAnswer_record :
    let s := { crane with stop := { crane.stop with records := [StopRecord.start] } }
    s.Serves 0 [0, 4] ∧ twoBytes [0, 4] = some (0, 4) ∧ s.stop.records[0]? = some StopRecord.start := by decide

/-! ### Witnesses: takes and the flash -/

theorem witness_TakesAreRecordedAndKept_record :
    let label : List Byte := [32, 65, 65, 65, 65, 65, 65, 126]
    library.Serves 0 ([0, 1, 8] ++ label) ∧ library.holds 0 .take = true ∧
      recordArgs ([0, 1, 8] ++ label) = some (1, 8, ⟨label, rfl⟩) ∧ (∀ b ∈ label, 32 ≤ b.toNat ∧ b.toNat ≤ 126) ∧
      library.stop.level = 0 ∧ library.takes.recorder = none ∧ library.takes.slots.get 1 = .empty ∧
      (∀ k : TakeNo, k.val < 1 → library.takes.slots.get k ≠ .empty) ∧ library.takes.freeList ≠ [] ∧
      ∀ j : Axis, ((1 : BitVec 16).setWidth 10).getLsbD j.val = true → library.driveState j = .active := by decide

theorem witness_TakesAreRecordedAndKept_others :
    ((recording 2).Serves 0 [] ∧ (recording 2).takes.recorder = some ⟨0, 0, 0⟩ ∧
        (recording 2).takes.slots.get 0 = .recording take0 ∧ 2 ≤ take0.count ∧ (recording 1).Serves 0 [] ∧
        (recording 1).takes.slots.get 0 = .recording { take0 with count := 1 } ∧ (recording 1).linkState 0 = .up) ∧
      (library.Serves 0 [0] ∧ oneByte [0] = some (0 : TakeNo).val ∧ library.takes.slots.get 0 = .closed take0 .stopped ∧
        take0.isProtected = false ∧ library.play.state.heldSlot ≠ some 0 ∧ library.saving 0 = false) ∧
      library.Serves 0 [0, 1] ∧ protectArgs [0, 1] = some ((0 : TakeNo).val, true) := by decide

/-- The manned crane while S0 records axis 0: the samples stored, the updates to the next, and the free blocks. -/
def recordingTo (count toNext : Nat) (free : List Nat) : State :=
  { recording count with takes := { (recording count).takes with
      recorder := some ⟨0, 0, toNext⟩, freeList := free } }

theorem witness_TakesAreRecordedAndKept_update :
    let k (n : Nat) : Take := { take0 with count := n }
    (∀ s, s = recordingTo 2 1 [1] ∨ s = recordingTo 1024 0 [] ∨ s = recordingTo 0 0 [] ∨ s = recordingTo 0 0 [1] ∨
        s = recordingTo 1023 0 [] → s.Quiet ∧ s.KeepsRunning ∧ s.stop.level = 0) ∧
      ((recordingTo 2 1 [1]).takes.recordingTake = some (⟨0, 0, 1⟩, k 2) ∧
        (recordingTo 1024 0 []).takes.recordingTake = some (⟨0, 0, 0⟩, k 1024) ∧
        (recordingTo 0 0 []).takes.recordingTake = some (⟨0, 0, 0⟩, k 0) ∧
        (recordingTo 0 0 [1]).takes.recordingTake = some (⟨0, 0, 0⟩, k 0) ∧
        (recordingTo 1023 0 []).takes.recordingTake = some (⟨0, 0, 0⟩, k 1023)) ∧
      (1024 / setSize take0.axes = 1024 ∧ (recordingTo 1024 0 []).takes.freeList = [] ∧
        (recordingTo 0 0 [1]).takes.freeList = 1 :: []) ∧
      ((recordingTo 0 0 [1]).channels.get 0).moving = some ⟨25600, 0, .velocity 0⟩ ∧ take0.data.isSome = true := by
  refine ⟨?_, by decide, by decide, by decide, by decide⟩
  rintro s (h | h | h | h | h) <;> subst h <;>
    exact ⟨quiet_of_calm _ (by decide), keepsRunning_of_goesOn _ (by decide), by decide⟩

/-- A save of five bytes and an end record into sector 16. -/
def saveOp (image : List Byte) : FlashOp := ⟨.saveTake, 16, 16, 0, 0, some 0, image, none⟩

theorem witness_TakesAreSaved :
    (library.Serves 0 [0, 0, 16, 31, 255] ∧ library.holds 0 .take = true ∧
        saveTakeArgs [0, 0, 16, 31, 255] = some ((0 : TakeNo).val, 16, 8191) ∧ library.flashPort = none ∧
        library.takes.slots.get 0 = .closed take0 .stopped) ∧
      ((saveOp [1, 2, 3]).kind = .saveTake ∧ (saveOp [1, 2, 3]).first ≤ (saveOp [1, 2, 3]).last ∧
        Memory.wf erasedByte library.flash ∧ (saveOp [1, 2, 3]).done < (saveOp [1, 2, 3]).reached ∧
        library.linkState (saveOp [1, 2, 3]).requester = .up ∧ (saveOp [1, 2, 3]).image.length ≤ (saveOp [1, 2, 3]).room) := by
  decide

theorem witness_TakesAreSaved_image : take0.fits (take0.data.getD TakeData.blank) ∧
    ∀ q (j : Axis), q < take0.count → take0.axes.getLsbD j.val = true →
      -549755813888 ≤ library.takes.sample take0 q j ∧ library.takes.sample take0 q j < 549755813888 := by
  have lens : ∀ l, (take0.data.getD TakeData.blank).lens.get l = none := by decide
  refine ⟨⟨rfl, by decide, by decide, by decide, by decide, fun i e h => ?_, fun l g h => ?_, by decide⟩, ?_⟩
  · cases h
  · rw [lens l] at h; cases h
  · have samples : ∀ (j : Axis) (q : Fin 2), -549755813888 ≤ library.takes.sample take0 q.val j ∧
        library.takes.sample take0 q.val j < 549755813888 := by decide +kernel
    exact fun q j hq _ => samples j ⟨q, hq⟩

theorem witness_TakesAreSaved_full : (saveOp (List.replicate 4097 0)).room < (saveOp (List.replicate 4097 0)).image.length := by
  show 4096 < (List.replicate 4097 (0 : Byte)).length
  exact (List.length_replicate (n := 4097) (a := (0 : Byte))).symm ▸ Nat.lt_succ_self 4096

/-- The flash that holds the archived take in sector 16. -/
def archive : List Host.Cell := writeSector [] 16 (archiveImage library.takes take0 .stopped)

/-- The header of the archived take. -/
def header0 : TakeHeader := ⟨take0.label, 1, 1, 2, false, .manual, take0.data.getD TakeData.blank⟩

/-- The library while it loads from sector 16 into slot 1. -/
def loading (h : Option TakeHeader) (q : Nat) (flash : List Host.Cell) : State :=
  { library with
    flash := flash
    takes := { library.takes with slots := library.takes.slots.set 1 (.loading q (if q = 0 then [] else [1])) }
    flashPort := some ⟨.loadTake, 16, 16, 0, 0, some 1, [], h⟩ }

theorem witness_TakesAreLoaded_request : library.Serves 0 [0, 16, 31, 255] ∧ library.holds 0 .take = true ∧
    loadTakeArgs [0, 16, 31, 255] = some (16, 8191) ∧ library.flashPort = none ∧ library.takes.slots.get 1 = .empty ∧
    ∀ k : TakeNo, k.val < 1 → library.takes.slots.get k ≠ .empty := by decide

theorem witness_TakesAreLoaded_sample :
    let op : FlashOp := ⟨.loadTake, 16, 16, 0, 0, some 1, [], some header0⟩
    (loading (some header0) 0 []).flashPort = some op ∧ op.header = some header0 ∧ 0 < header0.count ∧
      (loading (some header0) 0 []).takes.slots.get 1 = .loading 0 [] ∧
      (loading (some header0) 0 []).sampleFails op header0 0 [] = none ∧ op.done < op.sectors := by decide

/-- The archived take less its end record. -/
def archived : List Byte := headerBytes take0 .stopped ++ sampleBytes library.takes take0

/-- The bytes of the archived take read back. -/
theorem test_archive_bytes (place n : Nat) (h : place + n ≤ 530) : flashBytes archive (sectorAddress 16 + place) n =
    ((archiveImage library.takes take0 .stopped).drop place).take n := by
  have length : (archiveImage library.takes take0 .stopped).length = 530 := by decide +kernel
  exact flashBytes_writeSector 16 place n _ (by rw [length]; decide) (by rw [length]; exact h) ⟨by decide, by decide⟩

theorem test_loading_flash (h : Option TakeHeader) (q : Nat) (f : List Host.Cell) : (loading h q f).flash = f := rfl

theorem witness_TakesAreLoaded_header :
    headerValid (flashBytes (loading none 0 archive).flash (sectorAddress 16 + 0) 512) = true ∧
      headerValid (flashBytes (loading none 0 []).flash (sectorAddress 16 + 0) 512) = false := by
  constructor
  · rw [test_loading_flash, test_archive_bytes 0 512 (by decide)]
    decide +kernel
  · decide +kernel

theorem test_archive_parts : archiveImage library.takes take0 .stopped = archived ++ endRecord archived := by
  unfold archiveImage archived
  rfl

theorem test_archived_length : archived.length = 522 ∧ header0.bodyLength = 522 := by decide +kernel

theorem test_archive_slices : flashBytes archive (sectorAddress 16 + 0) 522 = archived ∧
    flashBytes archive (sectorAddress 16 + 522) 4 = [0x5A, 0xE0, 0x0D, 0x01] ∧
    flashBytes archive (sectorAddress 16 + 522) 8 = endRecord archived := by
  rw [test_archive_bytes 0 522 (by decide), test_archive_bytes 522 4 (by decide), test_archive_bytes 522 8 (by decide),
    test_archive_parts]
  exact endRecord_parts archived test_archived_length.1

theorem witness_TakesAreLoaded_end :
    (loading (some header0) 2 archive).endRecordFails ⟨.loadTake, 16, 16, 0, 0, some 1, [], some header0⟩ header0 = none := by
  obtain ⟨a, b, c⟩ := test_archive_slices
  unfold State.endRecordFails State.rangeBytesAt
  rw [test_archived_length.2, test_loading_flash, a, b, c, if_neg (by decide), if_neg (fun h => h rfl),
    if_neg (fun h => h rfl)]

/-- The header of the archived take with another sample count. -/
def headerOfCount (n : Nat) : TakeHeader := { header0 with count := n }

/-- A load at the sample count `q` of `n` over a flash, with the free blocks. -/
def loadingAt (n q : Nat) (flash : List Host.Cell) (free : List Nat) : State :=
  let s := loading (some (headerOfCount n)) q flash
  { s with takes := { s.takes with freeList := free } }

theorem witness_TakesAreLoaded_fails (n q : Nat) (flash : List Host.Cell) (free : List Nat) :
    let op : FlashOp := ⟨.loadTake, 16, 16, 0, 0, some 1, [], some (headerOfCount n)⟩
    (loadingAt n q flash free).sysreset = false ∧ (loadingAt n q flash free).flashPort = some op ∧
      op.header = some (headerOfCount n) ∧
      (loadingAt n q flash free).takes.slots.get 1 = .loading q (if q = 0 then [] else [1]) ∧ op.room = 4096 :=
  ⟨rfl, rfl, rfl, rfl, by simp [FlashOp.room, FlashOp.sectors]⟩

theorem witness_TakesAreLoaded_short :
    (716 < (headerOfCount 717).count ∧ 4096 < 512 + 5 * setSize (headerOfCount 717).axes * (716 + 1)) ∧
      (512 + 5 * setSize (headerOfCount 717).axes * (715 + 1) ≤ 4096 ∧
        512 + 5 * setSize (headerOfCount 2).axes * (0 + 1) ≤ 4096 ∧ 0 % (1024 / setSize (headerOfCount 2).axes) = 0 ∧
        (loadingAt 2 0 [] []).takes.freeList = []) ∧
      4096 < 512 + 5 * setSize (headerOfCount 716).axes * 716 + 8 ∧
      512 + 5 * setSize (headerOfCount 715).axes * 715 + 8 ≤ 4096 ∧
      512 + 5 * setSize (headerOfCount 2).axes * 2 = 522 := by decide

/-- The end marker after two samples that read as erased flash, with a CRC-32 of which one byte is given. -/
def marked (b : Byte) : List Host.Cell := [(66058, 0x5A), (66059, 0xE0), (66060, 0x0D), (66061, 0x01), (66062, b)]

theorem witness_TakesAreLoaded_noEnd : flashBytes [] (16 * 4096 + 522) 4 ≠ [0x5A, 0xE0, 0x0D, 0x01] := by decide +kernel

/-- No two values of one byte of the CRC-32 both match, so one of them is a checksum that fails. -/
theorem witness_TakesAreLoaded_checksum : ∃ b : Byte,
    flashBytes (marked b) (16 * 4096 + 522) 4 = [0x5A, 0xE0, 0x0D, 0x01] ∧
      flashBytes (marked b) (16 * 4096 + 522) 8 ≠ endRecord (flashBytes (marked b) (16 * 4096) 522) := by
  have zero : flashBytes (marked 0) (16 * 4096) 522 = List.replicate 522 255 := by decide +kernel
  have one : flashBytes (marked 1) (16 * 4096) 522 = List.replicate 522 255 := by decide +kernel
  by_cases h : endRecord (List.replicate 522 255) = [0x5A, 0xE0, 0x0D, 0x01, 0, 255, 255, 255]
  · refine ⟨1, by decide +kernel, ?_⟩
    rw [one, h]
    decide +kernel
  · refine ⟨0, by decide +kernel, fun e => h ?_⟩
    rw [← zero, ← e]
    decide +kernel

/-- The operation of a SAVE_CONFIG with an image of 1,963 bytes. -/
def configOp : FlashOp := ⟨.saveConfig, 0, 0, 0, 0, none, List.replicate 1963 0, none⟩

theorem witness_ConfigurationIsSaved :
    let s := { manned with flashPort := some configOp }
    (manned.Serves 0 [] ∧ manned.holds 0 .config = true ∧ manned.flashPort = none) ∧
      (s.sysreset = false ∧ s.flashPort = some configOp ∧ configOp.kind = .saveConfig ∧ configOp.first = 0 ∧
        configOp.last = 0 ∧ configOp.done = 0) ∧ configOp.image.length = 1963 ∧ Memory.wf erasedByte s.flash ∧
      s.linkState configOp.requester = .up :=
  ⟨by decide, ⟨rfl, rfl, rfl, rfl, rfl, rfl⟩, List.length_replicate, by decide, by decide⟩

theorem witness_ConfigurationIsSaved_back : (List.replicate 1963 (0 : Byte)).length = 1963 ∧
    endMatches (List.replicate 1963 0) = false ∧ (configBytes crane.config).length = 1963 ∧
    endMatches (configBytes crane.config) = true :=
  ⟨List.length_replicate, by decide +kernel, by decide +kernel, endMatches_configBytes _ (by decide +kernel)⟩

/-! ### Witnesses: playback and start -/

theorem witness_CuesBeginASeek :
    let p : List Byte := [0, 1, 0, 0, 0, 0, 1, 0]
    (library.Serves 0 p ∧ cueArgs p = some ((0 : TakeNo).val, some 1, false) ∧ library.holds 0 .play = true ∧
        (holding (.paused ⟨0, 0, false⟩ 1) .paused).play.state ≠ .idle) ∧
      library.play.state = .idle ∧ library.stop.level = 0 ∧ library.takes.slots.get 0 = .closed take0 .stopped ∧
      (∀ j : Axis, take0.axes.getLsbD j.val = true → (library.auth.get j).owner = some 0 ∧ library.mode j = .manual ∧
        library.driveState j = .active ∧ library.breaksLimits take0 j = false) ∧
      library.lensChanged take0 = false ∧ library.time.drift = false ∧
      library.time.now.toNat < (library.effectiveStart 1).toNat ∧
      library.insideZone (library.startPosition take0 0 false) = false ∧
      ∀ i, (library.zone ⟨.set, i⟩).entry.enabled = false ∧ (library.zone ⟨.crew, i⟩).entry.enabled = false := by decide

/-- The same cue once its effective start has come, with an axis outside the take. -/
theorem witness_CuesBeginASeek_late :
    let s : State := { library with time := { library.time with now := library.effectiveStart 1 } }
    (s.Serves 0 [0, 1, 0, 0, 0, 0, 1, 0] ∧ s.holds 0 .play = true ∧ s.play.state = .idle ∧ s.stop.level = 0 ∧
        s.takes.slots.get 0 = .closed take0 .stopped ∧
        (∀ j : Axis, take0.axes.getLsbD j.val = true → (s.auth.get j).owner = some 0 ∧ s.mode j = .manual ∧
          s.driveState j = .active ∧ s.breaksLimits take0 j = false) ∧
        s.lensChanged take0 = false ∧ s.time.drift = false ∧ (s.effectiveStart 1).toNat ≤ s.time.now.toNat) ∧
      take0.axes.getLsbD (0 : Axis).val = true ∧ (library.channels.get 0).moving.isSome = true ∧
      take0.axes.getLsbD (9 : Axis).val = false ∧ (library.mode 9).underTake = false := by decide

theorem witness_GoIsTakenInItsWindow :
    let s (now : Time) := { holding (.seeking (timed false)) .seek with
      time := { manned.time with now := now }, play := { library.play with state := .seeking (timed false), goLead := 100 } }
    let c : Cue := ⟨⟨0, 0, false⟩, none, false, 0⟩
    ((s 899).Serves 0 [] ∧ (s 899).holds 0 .go = true ∧ (timed false).start = some 1000 ∧
        (s 899).play.state = .seeking (timed false) ∧
        (s 899).time.now.toNat < (1000 : Time).toNat - (s 899).play.goLead) ∧
      ((s 900).Serves 0 [] ∧ (1000 : Time).toNat - (s 900).play.goLead ≤ (s 900).time.now.toNat ∧
        (s 900).time.now.toNat < (1000 : Time).toNat) ∧
      ((s 1000).Serves 0 [] ∧ (1000 : Time).toNat ≤ (s 1000).time.now.toNat) ∧
      (holding (.seeking c) .seek).Serves 0 [] ∧ (holding (.seeking c) .seek).play.state = .seeking c ∧
      (holding (.ready c) .seek).Serves 0 [] ∧ (holding (.ready c) .seek).play.state = .ready c := by decide

theorem witness_GoIsTakenInItsWindow_refused :
    (manned.Serves 1 [] ∧ manned.holds 1 .go = false) ∧
      (manned.Serves 0 [] ∧ manned.holds 0 .go = true ∧ manned.play.state = .idle) ∧
      (holding (.running ⟨0, 0, false⟩ 0) .playback).Serves 0 [] ∧
      (holding (.running ⟨0, 0, false⟩ 0) .playback).holds 0 .go = true ∧
      (holding (.paused ⟨0, 0, false⟩ 0) .paused).Serves 0 [] := by decide

theorem witness_PausedTakesAreResumed :
    let s := holding (.paused ⟨0, 0, false⟩ 1) .paused
    s.Serves 0 [] ∧ s.holds 0 .play = true ∧ s.play.state = .paused ⟨0, 0, false⟩ 1 ∧ s.stop.level = 0 ∧
      s.linkState 0 = .up ∧ s.takes.closedTake 0 = some take0 ∧
      (∀ j : Axis, take0.axes.getLsbD j.val = true → s.driveState j = .active) ∧
      s.insideZone (s.startPosition take0 1 true) = false ∧
      ∀ i, (s.zone ⟨.set, i⟩).entry.enabled = false ∧ (s.zone ⟨.crew, i⟩).entry.enabled = false := by decide

theorem witness_TakesAreGivenUp :
    let running := holding (.running ⟨0, 0, false⟩ 5) .playback
    let seeking := holding (.seeking (timed false)) .seek
    (running.Serves 0 [] ∧ running.holds 0 .play = true ∧ running.play.state = .running ⟨0, 0, false⟩ 5 ∧
        (running.takeAxes 0).getLsbD (0 : Axis).val = true ∧ (running.auth.get 0).owner = some 0 ∧
        running.linkState 0 = .up ∧ running.stop.level ≤ 2) ∧
      (seeking.Serves 0 [] ∧ (timed false).hold = ⟨0, 0, false⟩ ∧ seeking.play.state = .seeking (timed false)) ∧
      (holding (.paused ⟨0, 0, false⟩ 1) .paused).Serves 0 [] ∧
      (holding (.paused ⟨0, 0, false⟩ 1) .paused).play.state = .paused ⟨0, 0, false⟩ 1 := by decide

theorem witness_PausedTakesAreResumed_arrival :
    let u : Cue := ⟨⟨0, 0, false⟩, none, false, 0⟩
    let s := holding (.seeking (timed true)) .seek
    let r := holding (.ready u) .seek
    (s.Quiet ∧ r.Quiet) ∧ (s.stop.level = 0 ∧ s.takes.closedTake 0 = some take0 ∧ s.play.state = .seeking (timed true)) ∧
      r.stop.level = 0 ∧ r.takes.closedTake 0 = some take0 ∧ r.play.state = .ready u ∧ ¬(u.start = none ∧ u.go = true) :=
  ⟨⟨quiet_of_calm _ (by decide), quiet_of_calm _ (by decide)⟩, by decide⟩

theorem witness_TakesAreGivenUp_atEnd :
    let s := holding (.running ⟨0, 0, false⟩ 0) .playback
    s.Quiet ∧ s.stop.level = 0 ∧ s.play.state = .running ⟨0, 0, false⟩ 0 ∧ s.taken.running = false ∧
      s.takes.closedTake 0 = some take0 ∧
      (∀ j : Axis, take0.axes.getLsbD j.val = true → (take0.count - 1) * take0.divisor ≤ 0 + 1 + s.lead j) ∧
      (s.auth.get 0).owner = some 0 ∧ s.reportCount < 9 ∧ s.linkState 0 = .up :=
  ⟨quiet_of_calm _ (by decide), by decide⟩

theorem witness_StartsComeUpAtReset :
    let held := { recording 2 with sysreset := true }
    manned.sysreset = false ∧ held.sysreset = true ∧ held.flashPort = none ∧
      held.takes.slots.get 0 = .recording take0 ∧ held.takes.recorder = some ⟨0, 0, 0⟩ ∧ readConfig held.flash = none ∧
      (loading none 0 []).takes.slots.get 0 = .closed take0 .stopped ∧
      (loading none 0 []).takes.slots.get 1 = .loading 0 [] := by decide +kernel

theorem witness_StartsComeUpAtReset_flash :
    let s (op : FlashOp) := { manned with flashPort := some op, sysreset := true }
    let load : FlashOp := ⟨.loadTake, 16, 16, 0, 0, some 1, [], none⟩
    ((s load).sysreset = true ∧ (s load).flashPort = some load ∧ load.kind = .loadTake) ∧
      ((s (saveOp [1, 2, 3])).flashPort = some (saveOp [1, 2, 3]) ∧ (saveOp [1, 2, 3]).kind = .saveTake ∧
        (saveOp [1, 2, 3]).done < (saveOp [1, 2, 3]).reached ∧
        { saveOp [1, 2, 3] with done := 1 }.reached ≤ { saveOp [1, 2, 3] with done := 1 }.done) ∧
      (configOp.kind = .saveConfig ∧ configOp.first = 0 ∧ configOp.last = 0 ∧ configOp.done = 0) ∧
      configOp.done < configOp.reached ∧ configOp.image.length = 1963 ∧ Memory.wf erasedByte (s configOp).flash := by
  refine ⟨by decide, by decide, by decide, ?_, List.length_replicate, by decide⟩
  unfold FlashOp.reached
  rw [show configOp.image.length = 1963 from List.length_replicate]
  decide

/-- The configuration image of the default settings, and its parts read back. -/
def image : List Byte := configBytes crane.config

theorem test_image_stations : allSome (Tab.ofFn (n := 4) fun st => stationAt image st) = some crane.config.stations := by
  decide +kernel

theorem test_image_limits : allSome (Tab.ofFn (n := 10) fun j => limitsAt image j) = some crane.config.limits := by
  decide +kernel

theorem test_image_maps : allSome (Tab.ofFn (n := 3) fun l => mapAt image l (crane.config.limits.get (lensAxis l))) =
    some crane.config.maps := by decide +kernel

theorem test_image_set : allSome (Tab.ofFn (n := 8) fun i => zoneAt image .set (849 + 68 * i.val)) =
    some crane.config.setTable := by
  simp only [zoneAt_drop image]
  decide +kernel

theorem test_image_crew : allSome (Tab.ofFn (n := 8) fun i => zoneAt image .crew (1393 + 68 * i.val)) =
    some crane.config.crewTable := by
  simp only [zoneAt_drop image]
  decide +kernel

theorem test_image_numbers : natAt image 1937 2 = 10 ∧ natAt image 1939 1 = 0 ∧ natAt image 1940 2 = 0 ∧
    natAt image 1942 2 = 0 ∧ natAt image 1944 1 = 0 ∧ natAt image 1945 2 = 1000 ∧ natAt image 1947 2 = 1 ∧
    natAt image 1949 3 = 0 ∧ natAt image 1952 3 = 0 := by
  rw [natAt_drop image 1937 0, natAt_drop image 1937 2, natAt_drop image 1937 3, natAt_drop image 1937 5,
    natAt_drop image 1937 7, natAt_drop image 1937 8, natAt_drop image 1937 10, natAt_drop image 1937 12,
    natAt_drop image 1937 15]
  decide +kernel

theorem witness_StartsComeUpAtReset_image : readConfig (writeSector [] 0 image) = some crane.config := by
  have body : (configBody crane.config).length = 1955 := by decide +kernel
  have length : image.length = 1963 := by decide +kernel
  have e := flashBytes_writeSector (flash := []) 0 0 1963 image (by rw [length]; decide) (by rw [length])
    ⟨by decide, by decide⟩
  rw [List.drop_zero, List.take_of_length_le (by rw [length])] at e
  have e' : flashBytes (writeSector [] 0 image) 0 configLength = image := e
  have start : slice image 0 4 = [0xC0, 0x4E, 0x19, 0x3A] ∧ natAt image 4 2 = 1955 := by decide +kernel
  obtain ⟨n0, n1, n2, n3, n4, n5, n6, n7, n8⟩ := test_image_numbers
  have sync : syncSettingsOf 0 0 0 0 1000 1 = some crane.config.sync := by decide
  have items : configItems image = some crane.config := by
    simp only [configItems, test_image_stations, test_image_limits, test_image_maps, test_image_set, test_image_crew, n0, n1,
      n2, n3, n4, n5, n6, n7, n8, sync]
    decide
  have good : endMatches image = true := endMatches_configBytes _ body
  unfold readConfig
  rw [e']
  simp only [start, good, items, and_self, if_true]

end Sys2Proof.Tests
end

section
/-! The permitted speed of R7 (section 1.5): the bit search finds the largest speed that meets the test, so a speed is
permitted exactly when it meets the test. -/

namespace Sys2Proof.Machine

/-- The left side of the test of R7 grows with the speed. -/
theorem brakingTest_mono (a : Nat) {v w : Nat} (h : v ≤ w) : v * (v + a) ≤ w * (w + a) :=
  Nat.mul_le_mul h (Nat.add_le_add_right h a)

/-- The search keeps its bracket: `w` is a speed that meets the test, and `w + 2 ^ k` fails it. -/
theorem le_greatestSpeed_iff (a b v : Nat) : ∀ k w : Nat, w * (w + a) ≤ b → b < (w + 2 ^ k) * (w + 2 ^ k + a) →
    (v ≤ greatestSpeed a b k w ↔ v * (v + a) ≤ b) := by
  intro k
  induction k with
  | zero =>
    intro w meets fails
    refine ⟨fun le => (brakingTest_mono a le).trans meets, fun test => ?_⟩
    by_contra above
    have next : w + 2 ^ 0 ≤ v := Nat.lt_of_not_le above
    exact absurd ((brakingTest_mono a next).trans test) (Nat.not_le.mpr fails)
  | succ k ih =>
    intro w meets fails
    have halves : w + 2 ^ (k + 1) = w + 2 ^ k + 2 ^ k := by rw [pow_succ]; omega
    rw [greatestSpeed]
    split
    case isTrue bit => exact ih _ bit (halves ▸ fails)
    case isFalse bit => exact ih w meets (Nat.lt_of_not_le bit)

theorem permittedSpeed_of_nonpos {g : Int} (h : g ≤ 0) (a : Nat) : permittedSpeed g a = 0 := if_pos h

/-- The search starts with enough bits: the first speed beyond them fails the test. -/
theorem lt_brakingTest_log2 (a b : Nat) : b < (0 + 2 ^ (b.log2 + 1)) * (0 + 2 ^ (b.log2 + 1) + a) :=
  calc b < 2 ^ (b.log2 + 1) := Nat.lt_log2_self
    _ ≤ 2 ^ (b.log2 + 1) * (2 ^ (b.log2 + 1) + a) :=
      Nat.le_mul_of_pos_right _ (Nat.add_pos_left (Nat.two_pow_pos _) a)
    _ = _ := by rw [Nat.zero_add]

/-- R7: for a positive gap, a speed is permitted exactly when it meets the test. -/
theorem le_permittedSpeed_iff {g : Int} (h : 0 < g) (a v : Nat) :
    v ≤ permittedSpeed g a ↔ (v : Int) * (v + a) ≤ 2 * a * g := by
  lift g to Nat using h.le
  rw [permittedSpeed, if_neg (Int.not_le.mpr h), Int.toNat_natCast,
    le_greatestSpeed_iff a _ v _ 0 (by simp) (lt_brakingTest_log2 a _)]
  norm_cast

/-- Braking by `a` after a step of `s` leaves the test met: the left side falls by exactly 2 × a × s. -/
theorem brakingTest_after_step {g s a : Int} (h : s * (s + a) ≤ 2 * a * g) :
    (s - a) * (s - a + a) ≤ 2 * a * (g - s) :=
  calc (s - a) * (s - a + a) = s * (s + a) - 2 * a * s := by ring
    _ ≤ 2 * a * g - 2 * a * s := Int.sub_le_sub_right h _
    _ = 2 * a * (g - s) := by ring

/-- A permitted step longer than the deceleration does not use up the gap. -/
theorem gap_after_step_pos {g s a : Int} (ha : 0 < a) (long : a < s) (h : s * (s + a) ≤ 2 * a * g) : 0 < g - s := by
  have speed : 0 < (s - a) * (s - a + a) := by apply mul_pos <;> omega
  exact pos_of_mul_pos_right (speed.trans_le (brakingTest_after_step h)) (by omega)

theorem sub_le_permittedSpeed_after_step {g : Int} {a s : Nat} (ha : 0 < a) (h : s ≤ permittedSpeed g a) :
    s - a ≤ permittedSpeed (g - s) a := by
  rcases le_or_gt s a with short | long
  · rw [Nat.sub_eq_zero_of_le short]
    exact Nat.zero_le _
  · have gap : 0 < g := by
      by_contra noGap
      rw [permittedSpeed_of_nonpos (Int.not_lt.mp noGap)] at h
      omega
    have test := (le_permittedSpeed_iff gap a s).mp h
    rw [le_permittedSpeed_iff (gap_after_step_pos (by omega) (by omega) test), Nat.cast_sub long.le]
    exact brakingTest_after_step test

/-- Settles O13: the search characterises the permitted speed, and the test is carried over a braking step. -/
theorem permittedSpeedIsTheLargest : Obligations.PermittedSpeedIsTheLargest := fun _ a ha =>
  ⟨fun h => permittedSpeed_of_nonpos h a,
    fun h => ⟨(le_permittedSpeed_iff h a _).mp le_rfl, fun w => (le_permittedSpeed_iff h a w).mpr⟩,
    fun _ => sub_le_permittedSpeed_after_step ha⟩

end Sys2Proof.Machine
end

section
/-! The Timebase Unit's SYNC frames (sections 7.1 and 7.2), and the requests that zero counts: what a SYNC value does in each
mode, and what a judged request leaves when its verdict refuses it or lets it through. -/

namespace Sys2Proof.Machine

/-! ### SYNC frames (R130, R131) -/

theorem TimebaseUnit.sync_free {u : TimebaseUnit} (value : Time) (mode : u.settings.mode = .free) : u.sync value = u := by
  simp [TimebaseUnit.sync, mode]

theorem TimebaseUnit.sync_adopt {u : TimebaseUnit} (value : Time) (mode : u.settings.mode = .adopt) :
    u.sync value =
      { u with now := u.stationTime value, lastDifference := some (saturate32 (u.difference value)) } := by
  simp [TimebaseUnit.sync, mode]

theorem TimebaseUnit.sync_check {u : TimebaseUnit} (value : Time) (mode : u.settings.mode = .check) :
    u.sync value =
      { u with
        lastDifference := some (saturate32 (u.difference value))
        tally := if u.settings.tolerance < (u.difference value).natAbs then min 4294967295 (u.tally + 1)
          else u.tally } := by
  simp [TimebaseUnit.sync, mode]

/-- A SYNC frame that is heard and decodes reaches the Timebase Unit in the state after the frame. -/
theorem exec_sync_hears {s : State} {st : Station} {p : List Byte} {value : Time} (h : s.Hears st p)
    (decodes : syncPayload p = some value) : exec (.sync st p) s = .next ((s.afterFrame st).takeSync st value) := by
  change execSync st p s = _
  rw [execSync, awake_next _ h.1, onStream_hears h decodes]

theorem exec_sync_with_play {s : State} {st : Station} {p : List Byte} {value : Time} (h : s.Hears st p)
    (decodes : syncPayload p = some value) (play : s.holds st .play = true) :
    exec (.sync st p) s = .next { s.afterFrame st with time := s.time.sync value } := by
  rw [exec_sync_hears h decodes, State.takeSync, if_pos (by simpa using play), State.afterFrame_time]

theorem exec_sync_without_play {s : State} {st : Station} {p : List Byte} {value : Time} (h : s.Hears st p)
    (decodes : syncPayload p = some value) (noPlay : s.holds st .play = false) :
    exec (.sync st p) s = .next (s.afterFrame st) := by
  rw [exec_sync_hears h decodes, State.takeSync, if_neg (by simpa using noPlay)]

/-- Settles O40: the frame reaches the Timebase Unit, which acts on it under PLAY alone, as its sync mode says. -/
theorem syncFramesLoadOrCheckTheTimebase : Obligations.SyncFramesLoadOrCheckTheTimebase := by
  rintro s st p value _ _ h decodes rfl rfl
  refine ⟨?ignored, fun play adopt => ?adopt, fun play check => ?check⟩
  case ignored =>
    intro ignored
    cases play : s.holds st .play with
    | false => exact exec_sync_without_play h decodes play
    | true =>
      have free : s.time.settings.mode = .free := by simpa [play] using ignored
      rw [exec_sync_with_play h decodes play, TimebaseUnit.sync_free value free]
      rfl
  case adopt =>
    rw [exec_sync_with_play h decodes play, TimebaseUnit.sync_adopt value adopt]
    rfl
  case check =>
    rw [exec_sync_with_play h decodes play, TimebaseUnit.sync_check value check]
    rfl

/-! ### The requests that zero counts (R125, R133, R142, R185) -/

section Judged

variable {α : Type} {s : State} {st : Station} {tag code : Byte} {payload : List Byte} {decode : List Byte → Option α}
  {a : α} {verdict : α → State → Option Answer} {taken : α → State → State} {detail : List Byte}

/-- A served request that its verdict lets through leaves its effect on the state after the frame, and an answer OK. -/
theorem request_taken (h : s.Serves st payload) (decodes : decode payload = some a)
    (allowed : verdict a (s.afterFrame st) = none) :
    request st tag code payload decode (fun x t => judged (verdict x t) t (taken x t) detail) s =
      .next ((taken a (s.afterFrame st)).withReply st ⟨tag, code, .ok, detail⟩) := by
  rw [request_serves h decodes, allowed, judged_taken]

/-- A served request that its verdict refuses is answered so, and changes nothing else. -/
theorem request_refused {r : Result} (h : s.Serves st payload) (decodes : decode payload = some a)
    (refused : verdict a (s.afterFrame st) = refuse r) :
    request st tag code payload decode (fun x t => judged (verdict x t) t (taken x t) detail) s =
      .next (s.answered st tag code r []) := by
  rw [request_serves h decodes, refused, refuse, judged_refused, State.answered]

end Judged

/-- Settles O44: each request is judged by its rights, CLEAR_STOPS by the level too, and zeroes its counts when taken. -/
theorem countsAreCleared : Obligations.CountsAreCleared := by
  intro s st tag h
  refine ⟨fun play => ?syncCountReset, fun take => ?markClear, fun play => ?countersClear,
    fun release calm => ?clearStops, fun release stopped => ?stillStopped, fun play => ⟨?noPlaySync, ?noPlayCounters⟩,
    fun take => ?noTake, fun release => ?noRelease⟩
  case syncCountReset => exact request_taken h rfl (by simp [State.syncCountResetVerdict, play])
  case markClear => exact request_taken h rfl (by simp [State.markClearVerdict, take])
  case countersClear => exact request_taken h rfl (by simp [State.countersClearVerdict, play])
  case clearStops => exact request_taken h rfl (by simp [State.clearStopsVerdict, release, calm])
  case stillStopped => exact request_refused h rfl (by simp [State.clearStopsVerdict, release, stopped])
  case noPlaySync => exact request_refused h rfl (by simp [State.syncCountResetVerdict, play])
  case noPlayCounters => exact request_refused h rfl (by simp [State.countersClearVerdict, play])
  case noTake => exact request_refused h rfl (by simp [State.markClearVerdict, take])
  case noRelease => exact request_refused h rfl (by simp [State.clearStopsVerdict, release])

end Sys2Proof.Machine
end

section
/-! GO (section 9.5, R173 and R174): what its verdict says of a station's right, of a timed and of an untimed cue, and
what a GO that is taken leaves in the engine. -/

namespace Sys2Proof.Machine

namespace State

variable {s : State} {st : Station} {c : Cue} {x : Time}

/-! ### The verdict -/

@[simp] theorem afterFrame_goVerdict (o : Station) : (s.afterFrame o).goVerdict st = s.goVerdict st := by
  rw [goVerdict, afterFrame_holds]
  rfl

theorem goVerdict_without_right (noRight : s.holds st .go = false) : s.goVerdict st = refuse .noRight := if_pos noRight

theorem goVerdict_no_cue (right : s.holds st .go = true) (noCue : s.play.state.cue? = none) :
    s.goVerdict st = refuse .state := by
  simp [goVerdict, right, noCue]

/-- A timed cue is judged against the timebase alone, whether it still seeks or is READY. -/
theorem goVerdict_timed (right : s.holds st .go = true) (cue : s.play.state.cue? = some c) (timed : c.start = some x) :
    s.goVerdict st =
      if s.time.now.toNat < s.windowStart x then refuse .early
      else if x.toNat ≤ s.time.now.toNat then refuse .late
      else none := by
  simp [goVerdict, right, cue, timed]

/-- An untimed cue is judged by its arrival alone. -/
theorem goVerdict_untimed (right : s.holds st .go = true) (cue : s.play.state.cue? = some c) (untimed : c.start = none) :
    s.goVerdict st = if s.play.state.isSeeking then refuse .early else none := by
  simp [goVerdict, right, cue, untimed]

theorem windowStart_le (s : State) (x : Time) : s.windowStart x ≤ x.toNat := Nat.sub_le _ _

/-! ### The effect -/

theorem goTaken_seeking (seeking : s.play.state = .seeking c) :
    s.goTaken = s.setEngine (.seeking { c with go := true }) := by
  simp [goTaken, seeking]

theorem goTaken_ready (ready : s.play.state = .ready c) : s.goTaken = s.setEngine (.ready { c with go := true }) := by
  simp [goTaken, ready]

/-- GO is received by the cue that the engine holds, and leaves it SEEKING or READY as it was. -/
theorem goTaken_held (held : s.play.state = .seeking c ∨ s.play.state = .ready c) :
    s.goTaken = s.setEngine (if s.play.state = .seeking c then .seeking { c with go := true }
      else .ready { c with go := true }) := by
  rcases held with seeking | ready
  · rw [goTaken_seeking seeking, if_pos seeking]
  · rw [goTaken_ready ready, if_neg (by simp [ready])]

end State

section Exec

variable {s : State} {st : Station} {tag : Byte}

theorem exec_go_refused {r : Result} (h : s.Serves st []) (refused : s.goVerdict st = refuse r) :
    exec (.go st tag []) s = .next (s.answered st tag 35 r []) :=
  request_refused (a := ()) h rfl ((State.afterFrame_goVerdict st).trans refused)

theorem exec_go_taken (h : s.Serves st []) (allowed : s.goVerdict st = none) :
    exec (.go st tag []) s = .next ((s.afterFrame st).goTaken.withReply st ⟨tag, 35, .ok, []⟩) :=
  request_taken (a := ()) h rfl ((State.afterFrame_goVerdict st).trans allowed)

end Exec

/-- Settles O57: the verdict decides each case, and a GO that it lets through is received by the cue held. -/
theorem goIsTakenInItsWindow : Obligations.GoIsTakenInItsWindow := by
  intro s st tag c h
  refine ⟨fun noRight => ?noRight, fun right free => ?noCue, fun x right timed held => ?timed,
    fun right untimed seeking => ?untimedSeeking, fun right untimed ready => ?untimedReady⟩
  case noRight => exact exec_go_refused h (State.goVerdict_without_right noRight)
  case noCue =>
    have noCue : s.play.state.cue? = none := by
      rcases free with idle | ⟨_, _, running | paused⟩
      · rw [idle]; rfl
      · rw [running]; rfl
      · rw [paused]; rfl
    exact exec_go_refused h (State.goVerdict_no_cue right noCue)
  case timed =>
    have cue : s.play.state.cue? = some c := by
      rcases held with seeking | ready
      · rw [seeking]; rfl
      · rw [ready]; rfl
    have verdict := State.goVerdict_timed right cue timed
    refine ⟨fun early => ?early, fun late => ?late, fun opened notLate => ?inWindow⟩
    case early => exact exec_go_refused h (verdict.trans (if_pos early))
    case late =>
      have notEarly : ¬s.time.now.toNat < s.windowStart x := Nat.not_lt.mpr ((s.windowStart_le x).trans late)
      exact exec_go_refused h (by rw [verdict, if_neg notEarly, if_pos late])
    case inWindow =>
      have notEarly : ¬s.time.now.toNat < s.windowStart x := Nat.not_lt.mpr opened
      rw [exec_go_taken h (by rw [verdict, if_neg notEarly, if_neg (Nat.not_le.mpr notLate)]),
        State.goTaken_held (s := s.afterFrame st) held]
      rfl
  case untimedSeeking =>
    have verdict := State.goVerdict_untimed right (by rw [seeking]; rfl) untimed
    exact exec_go_refused h (verdict.trans (if_pos (by rw [seeking]; rfl)))
  case untimedReady =>
    have verdict := State.goVerdict_untimed right (by rw [ready]; rfl) untimed
    rw [exec_go_taken h (verdict.trans (if_neg (by rw [ready]; exact Bool.false_ne_true))),
      State.goTaken_ready (s := s.afterFrame st) ready]
    rfl

end Sys2Proof.Machine
end

section
/-! What a command may do to the parts of the state that the invariants O6 to O11 speak of: a relation between two states that
says it once for all six, and its lemmas for the small updates, the Take Store and a stop raise. -/

namespace Sys2Proof.Machine

/-! ### The engine's hold on axes -/

/-- The held take with the mode its axes are in, none for an engine that is IDLE. -/
def EngineState.seat (e : EngineState) : Option (Hold × Mode) :=
  match e with
  | .idle => none
  | .seeking c => some (c.hold, .seek)
  | .ready c => some (c.hold, .seek)
  | .running h _ => some (h, .playback)
  | .paused h _ => some (h, .paused)

/-- The modes that a seat calls for. -/
def State.seatFits (s : State) (x : Option (Hold × Mode)) : Prop :=
  match x with
  | none => ∀ j, (s.mode j).underTake = false
  | some (h, m) => s.holdsAxes h m

theorem modesFit_iff (s : State) : s.modesFit ↔ s.seatFits s.play.state.seat := by
  unfold State.modesFit
  cases s.play.state <;> rfl

theorem heldSlot_eq (e : EngineState) : e.heldSlot = e.seat.map fun x => x.1.slot := by cases e <;> rfl

/-- The engine holds no take that seeks or runs. -/
def EngineState.isStopped (e : EngineState) : Prop := e = .idle ∨ ∃ h n, e = .paused h n

theorem isStopped_iff (e : EngineState) : e.isStopped ↔ ∀ h m, e.seat = some (h, m) → m = .paused := by
  cases e <;> simp [EngineState.isStopped, EngineState.seat]

/-! ### The Take Store -/

/-- One slot is RECORDING exactly while the recorder records into it. -/
def TakeStore.recorderFits (ts : TakeStore) : Prop :=
  ∀ i, (ts.slots.get i).isRecording = true ↔ ∃ r, ts.recorder = some r ∧ r.slot = i

/-- The blocks of a store, those of the free list first. -/
def TakeStore.allBlocks (ts : TakeStore) : List Nat := ts.freeList ++ ts.slots.list.flatMap TakeSlot.blocks

/-- What a command other than RECORD and a start does to the Take Store while the engine holds a slot. -/
structure TakeStore.Step (held : Option TakeNo) (a b : TakeStore) : Prop where
  values : Memory.wf 0 a.values → Memory.wf 0 b.values
  blocks : b.allBlocks.Perm a.allBlocks
  closed : ∀ i k, held = some i → a.closedTake i = some k → ∃ k', b.closedTake i = some k' ∧ k'.axes = k.axes
  recorder : a.recorderFits → b.recorderFits
  idle : a.recorder = none → b.recorder = none

theorem TakeStore.Step.refl (held : Option TakeNo) (a : TakeStore) : TakeStore.Step held a a :=
  ⟨id, .refl _, fun _ k _ h => ⟨k, h, rfl⟩, id, id⟩

theorem TakeStore.Step.trans {held : Option TakeNo} {a b c : TakeStore} (h : TakeStore.Step held a b)
    (h' : TakeStore.Step held b c) : TakeStore.Step held a c where
  values w := h'.values (h.values w)
  blocks := h'.blocks.trans h.blocks
  closed i k hi hk := by
    obtain ⟨k', h1, e1⟩ := h.closed i k hi hk
    obtain ⟨k'', h2, e2⟩ := h'.closed i k' hi h1
    exact ⟨k'', h2, e2.trans e1⟩
  recorder r := h'.recorder (h.recorder r)
  idle r := h'.idle (h.idle r)

/-- The blocks of the slots, with those of one slot and those of the others apart. -/
theorem slotBlocks_perm (slots : Tab 32 TakeSlot) (i : TakeNo) : ∃ rest : List Nat,
    (slots.list.flatMap TakeSlot.blocks).Perm ((slots.get i).blocks ++ rest) ∧
      ∀ k : TakeSlot, ((slots.set i k).list.flatMap TakeSlot.blocks).Perm (k.blocks ++ rest) := by
  have split (x : Tab 32 TakeSlot) : (x.list.flatMap TakeSlot.blocks).Perm
      ((x.get i).blocks ++ (x.list.eraseIdx i.val).flatMap TakeSlot.blocks) := by
    have := (List.getElem_cons_eraseIdx_perm (l := x.list) (n := i.val) (by rw [x.len]; exact i.isLt)).symm.flatMap_right
      TakeSlot.blocks
    simpa [Tab.get] using this
  refine ⟨(slots.list.eraseIdx i.val).flatMap TakeSlot.blocks, split slots, fun k => ?_⟩
  have := split (slots.set i k)
  rwa [Tab.get_set_same, show (slots.set i k).list.eraseIdx i.val = slots.list.eraseIdx i.val from
    List.eraseIdx_set_eq] at this

open scoped List in
/-- One slot changed, with its blocks and the free list regrouped, keeps every block. -/
theorem allBlocks_set {a b : TakeStore} (i : TakeNo) (k : TakeSlot) (slots : b.slots = a.slots.set i k)
    (blocks : (b.freeList ++ k.blocks).Perm (a.freeList ++ (a.slots.get i).blocks)) :
    b.allBlocks.Perm a.allBlocks := by
  obtain ⟨rest, before, after⟩ := slotBlocks_perm a.slots i
  calc b.allBlocks
    _ = b.freeList ++ (a.slots.set i k).list.flatMap TakeSlot.blocks := by rw [TakeStore.allBlocks, slots]
    _ ~ b.freeList ++ (k.blocks ++ rest) := (after k).append_left _
    _ = (b.freeList ++ k.blocks) ++ rest := (List.append_assoc ..).symm
    _ ~ (a.freeList ++ (a.slots.get i).blocks) ++ rest := blocks.append_right rest
    _ = a.freeList ++ ((a.slots.get i).blocks ++ rest) := List.append_assoc ..
    _ ~ a.allBlocks := before.symm.append_left _

theorem closedTake_eq_some {ts : TakeStore} {i : TakeNo} {k : Take} :
    ts.closedTake i = some k ↔ ∃ r, ts.slots.get i = .closed k r := by
  unfold TakeStore.closedTake
  cases ts.slots.get i <;> simp

theorem recordingTake_eq_some {ts : TakeStore} {r : Recorder} {k : Take} :
    ts.recordingTake = some (r, k) ↔ ts.recorder = some r ∧ ts.slots.get r.slot = .recording k := by
  unfold TakeStore.recordingTake
  constructor
  · intro h
    split at h
    · cases h
    · rename_i q hq
      split at h
      · rename_i t ht
        cases h
        exact ⟨hq, ht⟩
      · cases h
  · rintro ⟨hr, hk⟩
    simp only [hr, hk]

/-- A slot changed that the engine does not hold, RECORDING as before. -/
theorem TakeStore.Step.setSlot {held : Option TakeNo} {a b : TakeStore} (i : TakeNo) (k : TakeSlot)
    (values : Memory.wf 0 a.values → Memory.wf 0 b.values) (slots : b.slots = a.slots.set i k)
    (blocks : (b.freeList ++ k.blocks).Perm (a.freeList ++ (a.slots.get i).blocks))
    (closed : ∀ t, held = some i → a.closedTake i = some t → ∃ t' r, k = .closed t' r ∧ t'.axes = t.axes)
    (recording : k.isRecording = (a.slots.get i).isRecording)
    (recorder : b.recorder.map (fun r => r.slot) = a.recorder.map fun r => r.slot) : TakeStore.Step held a b where
  values := values
  blocks := allBlocks_set i k slots blocks
  closed i' t hi ht := by
    by_cases e : i' = i
    · subst e
      obtain ⟨t', r, hk, ha⟩ := closed t hi ht
      exact ⟨t', closedTake_eq_some.mpr ⟨r, by rw [slots, Tab.get_set_same, hk]⟩, ha⟩
    · obtain ⟨r, hr⟩ := closedTake_eq_some.mp ht
      exact ⟨t, closedTake_eq_some.mpr ⟨r, by rw [slots, Tab.get_set_other _ _ e, hr]⟩, rfl⟩
  recorder fits i' := by
    have same : (b.slots.get i').isRecording = (a.slots.get i').isRecording := by
      rw [slots, Tab.get_set]
      split
      · subst_vars; exact recording
      · rfl
    have slot (x : Option Recorder) : (∃ r, x = some r ∧ r.slot = i') ↔ x.map (fun r => r.slot) = some i' := by simp
    rw [same, slot, recorder, ← slot]
    exact fits i'
  idle none := by simpa [none] using recorder

/-- The recorder gone IDLE, its slot no longer RECORDING. -/
theorem TakeStore.Step.closeSlot {held : Option TakeNo} {a b : TakeStore} {r : Recorder} {t : Take} (k : TakeSlot)
    (recording : a.recordingTake = some (r, t)) (values : b.values = a.values) (slots : b.slots = a.slots.set r.slot k)
    (blocks : b.freeList ++ k.blocks = a.freeList ++ t.blocks) (other : k.isRecording = false)
    (recorder : b.recorder = none) : TakeStore.Step held a b := by
  obtain ⟨hr, ht⟩ := recordingTake_eq_some.mp recording
  refine ⟨fun w => values ▸ w, allBlocks_set r.slot k slots (by rw [blocks, ht]; rfl), fun i q _ hq => ?_, fun fits i => ?_,
    fun _ => recorder⟩
  · obtain ⟨c, hc⟩ := closedTake_eq_some.mp hq
    have e : i ≠ r.slot := by rintro rfl; rw [hc] at ht; cases ht
    exact ⟨q, closedTake_eq_some.mpr ⟨c, by rw [slots, Tab.get_set_other _ _ e, hc]⟩, rfl⟩
  · rw [recorder, slots, Tab.get_set]
    split
    · simp [other]
    · rename_i e
      have := fits i
      simp only [hr, Option.some.injEq, exists_eq_left'] at this
      simp [this, Ne.symm e]

/-- The recorder counting on in its slot. -/
theorem TakeStore.Step.countDown {held : Option TakeNo} {a : TakeStore} {r : Recorder} (recorder : a.recorder = some r)
    (n : Nat) : TakeStore.Step held a { a with recorder := some { r with toNext := n } } :=
  ⟨id, .refl _, fun _ k _ h => ⟨k, h, rfl⟩, fun fits i => by simpa [recorder] using fits i, fun none => by
    rw [none] at recorder; cases recorder⟩

/-- The recorder gone IDLE where it recorded into no slot. -/
theorem TakeStore.Step.dropRecorder {held : Option TakeNo} {a : TakeStore} (none : a.recordingTake = none) :
    TakeStore.Step held a { a with recorder := .none } := by
  refine ⟨id, .refl _, fun i k _ h => ⟨k, h, rfl⟩, fun fits i => ?_, fun _ => rfl⟩
  have idle : ∀ i, (a.slots.get i).isRecording = false := by
    intro i
    by_contra h
    obtain ⟨r, hr, rfl⟩ := (fits i).mp (by simpa using h)
    cases hs : a.slots.get r.slot with
    | recording t => rw [recordingTake_eq_some.mpr ⟨hr, hs⟩] at none; cases none
    | _ => rw [hs] at h; exact h rfl
  simp [idle i]

@[simp] theorem post_takes (s : State) (st : Station) (f) : (s.post st f).takes = s.takes := by
  unfold State.post; split <;> rfl

/-- The close of a take at the Take Store (R154). -/
theorem closeTake_step (s : State) (reason : CloseReason) (held : Option TakeNo) :
    TakeStore.Step held s.takes (s.closeTake reason).takes := by
  unfold State.closeTake
  split
  · exact .refl _ _
  · rename_i r hr
    split
    · rename_i t ht
      have recording : s.takes.recordingTake = some (r, t) := recordingTake_eq_some.mpr ⟨hr, ht⟩
      split <;> rw [post_takes]
      · exact .closeSlot _ recording rfl rfl rfl rfl rfl
      · exact .closeSlot _ recording rfl rfl (by simp [TakeSlot.blocks]) rfl rfl
    · rename_i hs
      refine .dropRecorder ?_
      unfold TakeStore.recordingTake
      simp only [hr]

/-! ### Drives and channels -/

/-- What DrivesAgree says of one axis: its channel, its drive state, whether its map is valid, and the stop level. -/
def axisFits (c : AxisChannel) (d : DriveState) (mapped : Bool) (level : Nat) : Prop :=
  (c.moving.isSome = true ↔ d = .active) ∧ (d.powered = true → c.commissioning = .ready) ∧
    (c.commissioning = .unset ↔ c.limits = none) ∧ (c.commissioning = .ready → mapped = true) ∧
    (level = 3 → d.powered = false)

/-- Whether an axis is a motion axis or has a valid map. -/
def State.mapped (s : State) (j : Axis) : Bool :=
  match lensOf j with
  | some l => (s.maps.get l).map.isSome
  | none => true

def State.AxisFits (s : State) (j : Axis) : Prop :=
  axisFits (s.channels.get j) (s.driveState j) (s.mapped j) s.stop.level

@[simp] theorem lensOf_lensAxis (l : Lens) : lensOf (lensAxis l) = some l := by revert l; decide

theorem lensOf_eq_some {j : Axis} {l : Lens} : lensOf j = some l ↔ j = lensAxis l := by revert j l; decide

theorem mapped_iff (s : State) : (∀ j, (s.channels.get j).commissioning = .ready → s.mapped j = true) ↔
    ∀ l, (s.channels.get (lensAxis l)).commissioning = .ready → (s.maps.get l).map.isSome = true := by
  constructor
  · intro h l hl
    simpa [State.mapped] using h _ hl
  · intro h j hj
    unfold State.mapped
    split
    · rename_i l hl
      rw [lensOf_eq_some.mp hl] at hj
      exact h l hj
    · rfl

theorem drivesAgree_iff (s : State) : s.DrivesAgree ↔ ∀ j, s.AxisFits j := by
  unfold State.DrivesAgree State.AxisFits axisFits
  rw [← mapped_iff]
  simp only [forall_and, State.limits]
  constructor
  · rintro ⟨a, b, c, d, e⟩; exact ⟨a, b, c, d, fun j h => e h j⟩
  · rintro ⟨a, b, c, d, e⟩; exact ⟨a, b, c, d, fun h j => e j h⟩

/-! ### One relation for the six invariants -/

/-- A state that a command has made of another: each invariant is kept, and no command waits that did not. -/
structure State.Keeps (s t : State) : Prop where
  stores : s.CanonicalStores → t.CanonicalStores
  cut : s.CutFollowsLevel → t.CutFollowsLevel
  records : s.RecordsInOrder → t.RecordsInOrder
  drives : s.DrivesAgree → t.DrivesAgree
  blocks : s.BlocksKept → t.BlocksKept
  modes : s.StopsHoldTakes → t.StopsHoldTakes
  pending : t.pending = s.pending

theorem State.Keeps.refl (s : State) : s.Keeps s := ⟨id, id, id, id, id, id, rfl⟩

theorem State.Keeps.trans {s t u : State} (h : s.Keeps t) (k : t.Keeps u) : s.Keeps u where
  stores w := k.stores (h.stores w)
  cut w := k.cut (h.cut w)
  records w := k.records (h.records w)
  drives w := k.drives (h.drives w)
  blocks w := k.blocks (h.blocks w)
  modes w := k.modes (h.modes w)
  pending := k.pending.trans h.pending

/-- A fold keeps what each of its steps keeps. -/
theorem State.Keeps.fold {α : Type} {f : State → α → State} (l : List α) (h : ∀ (t : State) a, t.Keeps (f t a)) (s : State) :
    s.Keeps (l.foldl f s) := by
  induction l generalizing s with
  | nil => exact .refl s
  | cons a l ih => exact (h s a).trans (ih _)

/-- What most commands leave alone: modes and owners, the stop level with CUT and the stop flag, the sequences of the records,
the seat of the engine and the flash; the Take Store takes a step, and each axis stays in agreement. -/
structure State.Calm (s t : State) : Prop where
  mode : ∀ j, t.mode j = s.mode j := by intro; rfl
  owner : ∀ j, (t.auth.get j).owner = (s.auth.get j).owner := by intro; rfl
  held : t.generator.held = s.generator.held := by rfl
  level : t.stop.level = s.stop.level := by rfl
  cut : t.stop.cut = s.stop.cut := by rfl
  next : t.stop.nextSequence = s.stop.nextSequence := by rfl
  records : t.stop.records.map (fun r => r.sequence) = s.stop.records.map fun r => r.sequence := by rfl
  seat : t.play.state.seat = s.play.state.seat := by rfl
  flash : t.flash = s.flash := by rfl
  sysreset : t.sysreset = s.sysreset := by rfl
  pending : t.pending = s.pending := by rfl
  store : TakeStore.Step s.play.state.heldSlot s.takes t.takes := by exact TakeStore.Step.refl _ _
  axes : ∀ j, s.AxisFits j → t.AxisFits j := by exact fun _ h => h

/-- The sequences of a list of records are all that their order speaks of. -/
theorem runsDown_congr {n : Nat} {l m : List StopRecord}
    (h : l.map (fun r => r.sequence) = m.map fun r => r.sequence) : runsDown n l ↔ runsDown n m := by
  induction l generalizing m n with
  | nil =>
    cases m with
    | nil => rfl
    | cons r m => simp at h
  | cons r l ih =>
    cases m with
    | nil => simp at h
    | cons q m =>
      simp only [List.map_cons, List.cons.injEq] at h
      simp only [runsDown, h.1, ih h.2]

/-- The modes of a held take stand as long as its set of axes, the modes and the owners do. -/
theorem holdsAxes_congr {s t : State} {h : Hold} {m : Mode} (mode : ∀ j, t.mode j = s.mode j)
    (owner : ∀ j, (t.auth.get j).owner = (s.auth.get j).owner)
    (closed : ∀ k, s.takes.closedTake h.slot = some k → ∃ k', t.takes.closedTake h.slot = some k' ∧ k'.axes = k.axes)
    (holds : s.holdsAxes h m) : t.holdsAxes h m := by
  obtain ⟨k, hk, modes⟩ := holds
  obtain ⟨k', hk', axes⟩ := closed k hk
  exact ⟨k', hk', fun j => by rw [axes, mode, owner]; exact modes j⟩

/-- The modes fit the engine, an IDLE axis alone has no owner, and the recorder its slot: what StopsHoldTakes says at every
level. -/
def State.ModesAgree (s : State) : Prop :=
  s.modesFit ∧ (∀ j, s.mode j = .idle ↔ (s.auth.get j).owner = none) ∧ s.takes.recorderFits

theorem stopsHoldTakes_iff (s : State) :
    s.StopsHoldTakes ↔ s.ModesAgree ∧ (0 < s.stop.level → s.play.state.isStopped ∧ s.takes.recorder = none) := by
  unfold State.StopsHoldTakes State.ModesAgree
  simp only [and_assoc]
  rfl

theorem State.ModesAgree.congr {s t : State} (mode : ∀ j, t.mode j = s.mode j)
    (owner : ∀ j, (t.auth.get j).owner = (s.auth.get j).owner) (seat : t.play.state.seat = s.play.state.seat)
    (store : TakeStore.Step s.play.state.heldSlot s.takes t.takes) (h : s.ModesAgree) : t.ModesAgree := by
  obtain ⟨fit, idle, recorder⟩ := h
  refine ⟨?_, fun j => by rw [mode, owner]; exact idle j, store.recorder recorder⟩
  rw [modesFit_iff] at fit ⊢
  rw [seat]
  cases e : s.play.state.seat with
  | none => rw [e] at fit; exact fun j => by rw [mode]; exact fit j
  | some x =>
    rw [e] at fit
    exact holdsAxes_congr mode owner (fun k => store.closed _ k (by rw [heldSlot_eq, e]; rfl)) fit

theorem State.Calm.keeps {s t : State} (h : s.Calm t) : s.Keeps t where
  stores := fun ⟨f, v⟩ => ⟨h.flash ▸ f, h.store.values v⟩
  cut := by unfold State.CutFollowsLevel; rw [h.held, h.level, h.cut, h.sysreset]; exact id
  records := by
    unfold State.RecordsInOrder
    have len : t.stop.records.length = s.stop.records.length := by simpa using congrArg List.length h.records
    rw [h.next, runsDown_congr h.records, len]
    exact id
  drives := by rw [drivesAgree_iff, drivesAgree_iff]; exact fun w j => h.axes j (w j)
  blocks w := h.store.blocks.trans w
  modes := by
    rw [stopsHoldTakes_iff, stopsHoldTakes_iff, h.level]
    rintro ⟨agree, stopped⟩
    refine ⟨agree.congr h.mode h.owner h.seat h.store, fun pos => ?_⟩
    obtain ⟨engine, idle⟩ := stopped pos
    exact ⟨(isStopped_iff _).mpr (by rw [h.seat]; exact (isStopped_iff _).mp engine), h.store.idle idle⟩
  pending := h.pending

end Sys2Proof.Machine
end

section
/-! A stop raise and a judgement of the zones keep the six invariants. -/

namespace Sys2Proof.Machine

-- The default fields of a structure wait for every proof before them, so these proofs are elaborated in order.
set_option Elab.async false

/-! ### The axes of a take taken up and given back -/

theorem takeAxes_of_closed {s : State} {i : TakeNo} {k : Take} (h : s.takes.closedTake i = some k) :
    s.takeAxes i = k.axes := by
  simp only [State.takeAxes, h]

theorem mode_setModes (s : State) (axes : AxisSet) (m : Mode) (j : Axis) :
    (s.setModes axes m).mode j = if axes.getLsbD j.val then m else s.mode j := by
  simp only [State.mode, State.setModes, Tab.get_imap]
  split <;> rfl

theorem owner_setModes (s : State) (axes : AxisSet) (m : Mode) (j : Axis) :
    ((s.setModes axes m).auth.get j).owner = (s.auth.get j).owner := by
  simp only [State.setModes, Tab.get_imap]
  split <;> rfl

/-- An entry that returns has an owner exactly where it is MANUAL, and is under no take (R65). -/
theorem returned_fits {a : AuthEntry} (s : State) :
    ((a.returned (s.ownerUp a)).mode = .idle ↔ (a.returned (s.ownerUp a)).owner = none) ∧
      (a.returned (s.ownerUp a)).mode.underTake = false := by
  unfold AuthEntry.returned State.ownerUp
  cases h : a.owner with
  | none => simp [AuthEntry.idle, Mode.underTake]
  | some o =>
    simp only [decide_eq_true_eq]
    split <;> simp [AuthEntry.idle, Mode.underTake]

/-- The engine takes a set of axes into a mode of its seat, or carries it on to another. -/
theorem takeUp_modes {s : State} {e : EngineState} {h : Hold} {m : Mode} {k : Take} (seat : e.seat = some (h, m))
    (under : m.underTake = true) (closed : s.takes.closedTake h.slot = some k)
    (owned : ∀ j : Axis, k.axes.getLsbD j.val = true → (s.auth.get j).owner = some h.station)
    (others : ∀ j : Axis, k.axes.getLsbD j.val = false → (s.mode j).underTake = false)
    (agree : s.ModesAgree) : ((s.setEngine e).setModes k.axes m).ModesAgree := by
  obtain ⟨-, idle, recorder⟩ := agree
  have mode (j : Axis) := mode_setModes (s.setEngine e) k.axes m j
  have owner (j : Axis) := owner_setModes (s.setEngine e) k.axes m j
  refine ⟨(modesFit_iff _).mpr ?_, fun j => ?_, recorder⟩
  · change State.seatFits _ e.seat
    rw [seat]
    refine ⟨k, closed, fun j => ?_⟩
    rw [mode, owner]
    cases hj : k.axes.getLsbD j.val with
    | true => exact ⟨rfl, owned j hj⟩
    | false => exact others j hj
  · rw [mode, owner]
    cases hj : k.axes.getLsbD j.val with
    | true =>
      have : m ≠ .idle := by rintro rfl; cases under
      simp [this, owned j hj]
    | false => exact idle j

/-- A take given up leaves no axis under a take (R65). -/
theorem dropTake_modes {s : State} {h : Hold} {m : Mode} (seat : s.play.state.seat = some (h, m)) (agree : s.ModesAgree) :
    (s.dropTake h).ModesAgree := by
  obtain ⟨fit, idle, recorder⟩ := agree
  rw [modesFit_iff, seat] at fit
  obtain ⟨k, closed, held⟩ := fit
  have entry (j : Axis) : (s.dropTake h).auth.get j =
      if k.axes.getLsbD j.val then (s.auth.get j).returned (s.ownerUp (s.auth.get j)) else s.auth.get j := by
    simp only [State.dropTake, State.returnAxes, Tab.get_imap, takeAxes_of_closed closed]
    rfl
  refine ⟨?_, fun j => ?_, recorder⟩
  · show ∀ j, ((s.dropTake h).auth.get j).mode.underTake = false
    intro j
    rw [entry]
    split
    · exact (returned_fits s).2
    · rename_i hj
      have := held j
      rwa [if_neg hj] at this
  · rw [State.mode, entry]
    split
    · exact (returned_fits s).1
    · exact idle j

/-! ### The blocks on a raise -/

/-- The engine on a raise keeps modes in agreement (R180). -/
theorem engineOnRaise_modes {s : State} (agree : s.ModesAgree) : s.engineOnRaise.ModesAgree := by
  have post (t : State) (st : Station) (f) (h : t.ModesAgree) : (t.post st f).ModesAgree :=
    h.congr (fun _ => by simp [State.mode]) (fun _ => by simp) (by simp) (by rw [post_takes]; exact .refl _ _)
  unfold State.engineOnRaise
  split <;> rename_i e
  · exact agree
  · exact agree
  · exact post _ _ _ (dropTake_modes (by rw [e]; rfl) agree)
  · exact post _ _ _ (dropTake_modes (by rw [e]; rfl) agree)
  · rename_i h n
    have fit := agree.1
    rw [modesFit_iff, e] at fit
    obtain ⟨k, closed, held⟩ := fit
    rw [takeAxes_of_closed closed]
    refine takeUp_modes (e := .paused h n) rfl rfl closed (fun j hj => ?_) (fun j hj => ?_) agree
    · have := held j
      rw [if_pos hj] at this
      exact this.2
    · have := held j
      rwa [if_neg (by simp only [hj, Bool.false_eq_true, not_false_iff])] at this

/-- What a channel shows of itself to DrivesAgree. -/
def AxisChannel.SameAxis (c d : AxisChannel) : Prop :=
  c.moving.isSome = d.moving.isSome ∧ c.limits = d.limits ∧ c.commissioning = d.commissioning

theorem axisFits.congr {c c' : AxisChannel} {d : DriveState} {mapped : Bool} {level : Nat} (same : c'.SameAxis c)
    (h : axisFits c d mapped level) : axisFits c' d mapped level := by
  unfold axisFits
  rw [same.1, same.2.1, same.2.2]
  exact h

theorem returnAxes_sameAxis (s : State) (axes : AxisSet) (j : Axis) :
    ((s.returnAxes axes).channels.get j).SameAxis (s.channels.get j) := by
  simp only [State.returnAxes, Tab.get_imap]
  split
  · exact ⟨by simp [AxisChannel.zeroTarget], rfl, rfl⟩
  · exact ⟨rfl, rfl, rfl⟩

theorem engineOnRaise_sameAxis (s : State) (j : Axis) :
    (s.engineOnRaise.channels.get j).SameAxis (s.channels.get j) := by
  unfold State.engineOnRaise
  split
  · exact ⟨rfl, rfl, rfl⟩
  · exact ⟨rfl, rfl, rfl⟩
  · rw [State.post_channels]; exact returnAxes_sameAxis _ _ j
  · rw [State.post_channels]; exact returnAxes_sameAxis _ _ j
  · exact ⟨rfl, rfl, rfl⟩

theorem engineOnRaise_takes (s : State) : s.engineOnRaise.takes = s.takes := by
  unfold State.engineOnRaise
  split
  · rfl
  · rfl
  · rw [post_takes]; rfl
  · rw [post_takes]; rfl
  · rfl

/-- The state of a raise once it is made known to the generator: the rest of the blocks have not acted. -/
theorem madeKnown_frame (s : State) (c : Cause) (l : Nat) :
    (s.takeRaise c l).generatorOnRaise.auth = s.auth ∧ (s.takeRaise c l).generatorOnRaise.play = s.play ∧
      (s.takeRaise c l).generatorOnRaise.takes = s.takes ∧ (s.takeRaise c l).generatorOnRaise.channels = s.channels ∧
      (s.takeRaise c l).generatorOnRaise.port = s.port := by
  simp only [State.generatorOnRaise, State.takeRaise]
  split <;> exact ⟨rfl, rfl, rfl, rfl, rfl⟩

/-- The Take Store on one raise. -/
theorem raiseOnce_store (s : State) (c : Cause) (l : Nat) (held : Option TakeNo) :
    TakeStore.Step held s.takes (s.raiseOnce c l).takes := by
  have h := closeTake_step ((s.takeRaise c l).generatorOnRaise.engineOnRaise) .interrupted held
  rw [engineOnRaise_takes, (madeKnown_frame s c l).2.2.1] at h
  exact h

theorem raiseOnce_modes {s : State} (c : Cause) (l : Nat) (agree : s.ModesAgree) : (s.raiseOnce c l).ModesAgree := by
  obtain ⟨auth, play, takes, -, -⟩ := madeKnown_frame s c l
  have known : (s.takeRaise c l).generatorOnRaise.ModesAgree :=
    agree.congr (fun j => by rw [State.mode, auth, State.mode]) (fun j => by rw [auth]) (by rw [play])
      (by rw [takes]; exact .refl _ _)
  obtain ⟨-, -, -, auth', play', -⟩ := closeTake_frame ((s.takeRaise c l).generatorOnRaise.engineOnRaise) .interrupted
  refine (engineOnRaise_modes known).congr (fun j => ?_) (fun j => ?_) ?_ (closeTake_step _ _ _)
  · show ((State.closeTake _ _).auth.get j).mode = _
    rw [auth']; rfl
  · show ((State.closeTake _ _).auth.get j).owner = _
    rw [auth']
  · show (State.closeTake _ _).play.state.seat = _
    rw [play']

/-- One drive and its channel under a raise (R23, R55, R58). -/
theorem onRaise_fits {c : AxisChannel} {d : Drive} {mapped : Bool} {level l : Nat} (m : Mode) (hl : l ≤ 3)
    (h : axisFits c d.state mapped level) :
    axisFits (if max level l = 3 ∧ d.state = .active then c.giveUp m else c) (d.onRaise (max level l)).state mapped
      (max level l) := by
  obtain ⟨moves, ready, unset, map, unpowered⟩ := h
  by_cases top : max level l = 3
  · simp only [Drive.onRaise, top, true_and, if_true]
    cases hd : d.state <;>
      simp_all [axisFits, AxisChannel.giveUp, DriveState.powered]
  · have below : level ≠ 3 := by omega
    simp only [Drive.onRaise, top, false_and, if_false]
    cases hd : d.state <;> simp_all [axisFits, DriveState.powered]

theorem raiseOnce_axes {s : State} (c : Cause) {l : Nat} (hl : l ≤ 3) (j : Axis) (h : s.AxisFits j) :
    (s.raiseOnce c l).AxisFits j := by
  obtain ⟨auth, play, takes, channels, port⟩ := madeKnown_frame s c l
  set x := (s.takeRaise c l).generatorOnRaise.engineOnRaise with hx
  have portx : x.port = s.port := (engineOnRaise_port _).1.trans port
  obtain ⟨-, port', channels', auth', -⟩ := closeTake_frame x .interrupted
  have drive : (s.raiseOnce c l).driveState j = ((s.port.drives.get j).onRaise (max s.stop.level l)).state := by
    rw [State.driveState, raiseOnce_drive]
  have mapped : (s.raiseOnce c l).mapped j = s.mapped j := by simp [State.mapped]
  have same : (x.channels.get j).SameAxis (s.channels.get j) := by
    rw [← channels]; exact engineOnRaise_sameAxis _ j
  have channel : (s.raiseOnce c l).channels.get j = if max s.stop.level l = 3 ∧ (s.port.drives.get j).state = .active then
      (x.channels.get j).giveUp ((x.closeTake .interrupted).mode j) else x.channels.get j := by
    show (Tab.imap _ (x.closeTake .interrupted).channels).get j = _
    rw [Tab.get_imap, State.driveState, port', portx, channels']
  unfold State.AxisFits
  rw [drive, mapped, channel, State.raiseOnce_level]
  exact onRaise_fits _ hl (axisFits.congr same h)

/-! ### The six invariants -/

theorem runsDown_take {n : Nat} {l : List StopRecord} (k : Nat) (h : runsDown n l) : runsDown n (l.take k) := by
  induction l generalizing n k with
  | nil => simp [runsDown]
  | cons r l ih =>
    cases k with
    | zero => trivial
    | succ k => exact ⟨h.1, h.2.1, ih k h.2.2⟩

theorem raiseOnce_recordsInOrder {s : State} (c : Cause) (l : Nat) (h : s.RecordsInOrder) :
    (s.raiseOnce c l).RecordsInOrder := by
  obtain ⟨next, len, down⟩ := h
  unfold State.RecordsInOrder
  rw [State.raiseOnce_stop]
  simp only [StopController.raised]
  split
  · exact ⟨Nat.mod_lt _ (by norm_num), by simp, runsDown_take 8 ⟨next, rfl, down⟩⟩
  · exact ⟨next, len, down⟩

theorem raiseOnce_cutFollowsLevel {s : State} (c : Cause) {l : Nat} (pos : 1 ≤ l) (top : l ≤ 3) (h : s.CutFollowsLevel) :
    (s.raiseOnce c l).CutFollowsLevel := by
  obtain ⟨level, cut, -⟩ := h
  unfold State.CutFollowsLevel
  rw [State.raiseOnce_stop, State.raiseOnce_generator, State.raiseOnce_sysreset]
  simp only [StopController.raised]
  refine ⟨by omega, ?_, by simp; omega⟩
  split
  · simp only [true_iff]; omega
  · rw [cut]
    have : s.stop.level = 3 ↔ max s.stop.level l = 3 := by omega
    rw [this]

theorem keeps_raiseOnce (s : State) (c : Cause) {l : Nat} (pos : 1 ≤ l) (top : l ≤ 3) : s.Keeps (s.raiseOnce c l) where
  stores := fun ⟨flash, values⟩ => ⟨by rwa [State.raiseOnce_flash], (raiseOnce_store s c l none).values values⟩
  cut := raiseOnce_cutFollowsLevel c pos top
  records := raiseOnce_recordsInOrder c l
  drives := by rw [drivesAgree_iff, drivesAgree_iff]; exact fun w j => raiseOnce_axes c top j (w j)
  blocks w := (raiseOnce_store s c l none).blocks.trans w
  modes := by
    rw [stopsHoldTakes_iff, stopsHoldTakes_iff]
    exact fun h => ⟨raiseOnce_modes c l h.1, fun _ => raiseOnce_stopsTakes s c l⟩
  pending := by simp

/-- A zone with its flags changed, or every zone judged afresh, touches none of the six invariants. -/
theorem calm_modZone (s : State) (z : ZoneId) (f : Zone → Zone) : s.Calm (s.modZone z f) := by
  unfold State.modZone
  split <;> exact {}

theorem keeps_raise (s : State) (c : Cause) {l : Nat} (pos : 1 ≤ l) (top : l ≤ 3) : s.Keeps (s.raise c l) :=
  State.raise_keeps (P := s.Keeps) c l (fun _ h => h.trans (State.Calm.keeps {}))
    (fun _ z _ h => h.trans (calm_modZone _ z _).keeps)
    (fun _ _ h => h.trans (keeps_raiseOnce _ _ (by norm_num) (by norm_num))) (keeps_raiseOnce s c pos top)

theorem keeps_raiseOccupied (s : State) (z : ZoneId) : s.Keeps (s.raiseOccupied z) :=
  keeps_raise s _ (by norm_num) (by norm_num)

theorem keeps_judgeZones (s : State) : s.Keeps s.judgeZones :=
  State.judgeZones_keeps (P := s.Keeps) (fun _ h => h.trans (State.Calm.keeps {}))
    (fun _ z _ h => h.trans (calm_modZone _ z _).keeps)
    (fun _ _ h => h.trans (keeps_raiseOnce _ _ (by norm_num) (by norm_num))) (.refl s)

theorem keeps_testZones (s : State) (zs : List ZoneId) : s.Keeps (s.testZones State.raiseOccupied zs) :=
  State.testZones_keeps (P := s.Keeps) zs (fun _ z _ h => h.trans (calm_modZone _ z _).keeps)
    (fun _ z h => h.trans (keeps_raise _ _ (by norm_num) (by norm_num))) (.refl s)

end Sys2Proof.Machine
end

section
/-! The operations that several commands share keep the six invariants: links, notices, channels, authority entries, drives,
marks, and the end of a take. -/

namespace Sys2Proof.Machine

-- The default fields of a structure wait for every proof before them, so these proofs are elaborated in order.
set_option Elab.async false

/-! ### Links, notices and marks -/

theorem State.Calm.trans {s t u : State} (h : s.Calm t) (k : t.Calm u) : s.Calm u where
  mode j := (k.mode j).trans (h.mode j)
  owner j := (k.owner j).trans (h.owner j)
  held := k.held.trans h.held
  level := k.level.trans h.level
  cut := k.cut.trans h.cut
  next := k.next.trans h.next
  records := k.records.trans h.records
  seat := k.seat.trans h.seat
  flash := k.flash.trans h.flash
  sysreset := k.sysreset.trans h.sysreset
  pending := k.pending.trans h.pending
  store := h.store.trans (by have := k.store; rwa [heldSlot_eq, h.seat, ← heldSlot_eq] at this)
  axes j a := k.axes j (h.axes j a)

theorem calm_post (s : State) (st : Station) (f : Notices → Notices) : s.Calm (s.post st f) := by
  unfold State.post
  split <;> exact {}

theorem calm_publishMark (s : State) : s.Calm s.publishMark := by
  unfold State.publishMark
  split <;> exact {}

theorem calm_removeReader (s : State) (st : Station) : s.Calm (s.removeReader st) := by
  have removed : s.Calm { s with marks := { s.marks with readers := s.marks.readers.set st none } } := {}
  unfold State.removeReader
  split
  · dsimp only
    split
    · exact removed.trans (calm_publishMark _)
    · exact removed
  · exact {}

theorem calm_latchMark (s : State) (m : MarkSource) : s.Calm (s.latchMark m) := by
  have latched (k : MarkLatch) : s.Calm { s with marks := k } := {}
  unfold State.latchMark
  dsimp only
  generalize MarkLatch.mk _ _ _ _ _ _ = k
  split
  · exact (latched k).trans (calm_publishMark _)
  · exact latched _

theorem closeTake_generator (s : State) (r : CloseReason) : (s.closeTake r).generator = s.generator := by
  unfold State.closeTake
  split
  · rfl
  · split
    · split <;> exact State.post_generator ..
    · rfl

/-- The close of a take is a step of the Take Store with a notice. -/
theorem calm_closeTake (s : State) (r : CloseReason) : s.Calm (s.closeTake r) := by
  obtain ⟨-, port, channels, auth, play, -, stop, -⟩ := closeTake_frame s r
  refine
    { mode := fun j => by rw [State.mode, auth, State.mode], owner := fun j => by rw [auth]
      held := by rw [closeTake_generator], level := by rw [stop], cut := by rw [stop], next := by rw [stop]
      records := by rw [stop], seat := by rw [play], flash := by simp, sysreset := by simp, pending := by simp
      store := closeTake_step s r _, axes := fun j h => ?_ }
  unfold State.AxisFits at h ⊢
  have mapped : (s.closeTake r).mapped j = s.mapped j := by simp [State.mapped]
  have drive : (s.closeTake r).driveState j = s.driveState j := by rw [State.driveState, port, State.driveState]
  rw [mapped, drive, channels, stop]
  exact h

/-! ### Channels and entries that keep what the invariants see of them -/

theorem AxisChannel.SameAxis.refl (c : AxisChannel) : c.SameAxis c := ⟨rfl, rfl, rfl⟩

/-- Channels changed in their targets, trims, caps, setpoints and velocities alone. -/
theorem calm_channels (s : State) (f : Axis → AxisChannel → AxisChannel) (same : ∀ j c, (f j c).SameAxis c) :
    s.Calm { s with channels := s.channels.imap f } where
  axes j := axisFits.congr (by rw [Tab.get_imap]; exact same j _)

/-- A target changed alone. -/
theorem sameAxis_target (c : AxisChannel) (f : Moving → Moving) : { c with moving := c.moving.map f }.SameAxis c :=
  ⟨by simp, rfl, rfl⟩

theorem zeroTarget_sameAxis (c : AxisChannel) : c.zeroTarget.SameAxis c := sameAxis_target c _

/-- Authority entries that keep their modes and owners, and channels that keep what the invariants see of them. -/
theorem calm_entries (s : State) (a : Tab 10 AuthEntry) (cs : Tab 10 AxisChannel)
    (same : ∀ j, (a.get j).mode = s.mode j ∧ (a.get j).owner = (s.auth.get j).owner)
    (axes : ∀ j, (cs.get j).SameAxis (s.channels.get j)) : s.Calm { s with auth := a, channels := cs } where
  mode j := (same j).1
  owner j := (same j).2
  axes j := axisFits.congr (axes j)

/-! ### Modes, seats and everything else -/

/-- A change of modes, owners and the engine that leaves the rest as a calm change does. -/
theorem keeps_of_modes {s t : State} (held : t.generator.held = s.generator.held) (stop : t.stop = s.stop)
    (flash : t.flash = s.flash) (sysreset : t.sysreset = s.sysreset) (pending : t.pending = s.pending)
    (takes : t.takes = s.takes) (axes : ∀ j, s.AxisFits j → t.AxisFits j) (modes : s.StopsHoldTakes → t.StopsHoldTakes) :
    s.Keeps t where
  stores := by unfold State.CanonicalStores; rw [flash, takes]; exact id
  cut := by unfold State.CutFollowsLevel; rw [held, stop, sysreset]; exact id
  records := by unfold State.RecordsInOrder; rw [stop]; exact id
  drives := by rw [drivesAgree_iff, drivesAgree_iff]; exact fun w j => axes j (w j)
  blocks := by unfold State.BlocksKept; rw [takes]; exact id
  modes := modes
  pending := pending

/-- Entries changed of axes under no take, an IDLE one alone without an owner. -/
theorem modesAgree_of_entries {s t : State} (seat : t.play.state.seat = s.play.state.seat) (takes : t.takes = s.takes)
    (entries : ∀ j, (t.mode j = s.mode j ∧ (t.auth.get j).owner = (s.auth.get j).owner) ∨
      ((s.mode j).underTake = false ∧ (t.mode j).underTake = false ∧ (t.mode j = .idle ↔ (t.auth.get j).owner = none)))
    (agree : s.ModesAgree) : t.ModesAgree := by
  obtain ⟨fit, idle, recorder⟩ := agree
  have free (j : Axis) (h : (s.mode j).underTake = false) : (t.mode j).underTake = false := by
    rcases entries j with ⟨mode, -⟩ | ⟨-, free, -⟩
    · rwa [mode]
    · exact free
  refine ⟨?_, fun j => ?_, takes ▸ recorder⟩
  · rw [modesFit_iff] at fit ⊢
    rw [seat]
    cases e : s.play.state.seat with
    | none => rw [e] at fit; exact fun j => free j (fit j)
    | some x =>
      have under : x.2.underTake = true := by
        cases hs : s.play.state <;> rw [hs] at e <;> cases e <;> rfl
      rw [e] at fit
      obtain ⟨k, closed, held⟩ := fit
      refine ⟨k, takes ▸ closed, fun j => ?_⟩
      have := held j
      by_cases hj : k.axes.getLsbD j.val = true
      · rw [if_pos hj] at this ⊢
        rcases entries j with ⟨mode, owner⟩ | ⟨not, -, -⟩
        · rwa [mode, owner]
        · rw [this.1, under] at not; cases not
      · rw [if_neg hj] at this ⊢
        exact free j this
  · rcases entries j with ⟨mode, owner⟩ | ⟨-, -, h⟩
    · rw [mode, owner]; exact idle j
    · exact h

theorem keeps_of_entries {s t : State} (held : t.generator.held = s.generator.held) (stop : t.stop = s.stop)
    (flash : t.flash = s.flash) (sysreset : t.sysreset = s.sysreset) (pending : t.pending = s.pending)
    (takes : t.takes = s.takes) (play : t.play.state = s.play.state) (axes : ∀ j, s.AxisFits j → t.AxisFits j)
    (entries : ∀ j, (t.mode j = s.mode j ∧ (t.auth.get j).owner = (s.auth.get j).owner) ∨
      ((s.mode j).underTake = false ∧ (t.mode j).underTake = false ∧ (t.mode j = .idle ↔ (t.auth.get j).owner = none))) :
    s.Keeps t :=
  keeps_of_modes held stop flash sysreset pending takes axes (by
    rw [stopsHoldTakes_iff, stopsHoldTakes_iff, stop, play, takes]
    exact fun ⟨agree, stopped⟩ => ⟨modesAgree_of_entries (by rw [play]) takes entries agree, stopped⟩)

/-! ### Drives -/

/-- A drive record changed that keeps its state. -/
theorem calm_modDrive (s : State) (j : Axis) (f : Drive → Drive) (same : ∀ d, (f d).state = d.state) :
    s.Calm (s.modDrive j f) where
  axes i h := by
    have drive : (s.modDrive j f).driveState i = s.driveState i := by
      simp only [State.driveState, State.modDrive_port, Tab.get_modify]
      split
      · rename_i e; rw [e]; exact same _
      · rfl
    unfold State.AxisFits at h ⊢
    rw [drive]
    exact h

/-- The channel of a drive that leaves ACTIVE, and what the rest of the state keeps. -/
theorem leaveActive_frame (s : State) (j : Axis) :
    (s.leaveActive j).auth = s.auth ∧ (s.leaveActive j).generator = s.generator ∧ (s.leaveActive j).stop = s.stop ∧
      (s.leaveActive j).play = s.play ∧ (s.leaveActive j).port = s.port ∧ (s.leaveActive j).maps = s.maps ∧
      (s.leaveActive j).flash = s.flash ∧ (s.leaveActive j).sysreset = s.sysreset ∧
      (s.leaveActive j).pending = s.pending ∧ (s.leaveActive j).channels =
        if s.driveState j = .active then s.channels.modify j fun c => c.giveUp (s.mode j) else s.channels := by
  unfold State.leaveActive
  split
  · unfold State.closeIfRecorded
    split
    · split
      · obtain ⟨-, port, channels, auth, play, -, stop, -⟩ :=
          closeTake_frame (s.modChannel j fun c => c.giveUp (s.mode j)) .interrupted
        exact ⟨auth, closeTake_generator _ _, stop, play, port, by simp, by simp, by simp, by simp, channels⟩
      · exact ⟨rfl, rfl, rfl, rfl, rfl, rfl, rfl, rfl, rfl, rfl⟩
    · exact ⟨rfl, rfl, rfl, rfl, rfl, rfl, rfl, rfl, rfl, rfl⟩
  · exact ⟨rfl, rfl, rfl, rfl, rfl, rfl, rfl, rfl, rfl, rfl⟩

theorem leaveActive_store (s : State) (j : Axis) (held : Option TakeNo) :
    TakeStore.Step held s.takes (s.leaveActive j).takes := by
  unfold State.leaveActive
  split
  · unfold State.closeIfRecorded
    split
    · split
      · exact closeTake_step (s.modChannel j fun c => c.giveUp (s.mode j)) _ _
      · exact .refl _ _
    · exact .refl _ _
  · exact .refl _ _

theorem driveTo_driveState (s : State) (j : Axis) (d : DriveState) (keep : Bool) (i : Axis) :
    (s.driveTo j d keep).driveState i = if i = j then d else s.driveState i := by
  obtain ⟨-, -, -, -, port, -⟩ := leaveActive_frame s j
  simp only [State.driveState, State.driveTo, State.modDrive, port, Tab.get_modify]
  split <;> rfl

/-- A drive takes a state other than ACTIVE, powered only where it was. -/
theorem calm_driveTo (s : State) (j : Axis) (d : DriveState) (keep : Bool) (inactive : d ≠ .active)
    (powered : d.powered = true → (s.driveState j).powered = true) : s.Calm (s.driveTo j d keep) := by
  obtain ⟨auth, generator, stop, play, port, maps, flash, sysreset, pending, channels⟩ := leaveActive_frame s j
  refine
    { mode := fun i => congrArg (fun a => (a.get i).mode) auth, owner := fun i => congrArg (fun a => (a.get i).owner) auth
      held := congrArg Generator.held generator, level := congrArg StopController.level stop
      cut := congrArg StopController.cut stop, next := congrArg StopController.nextSequence stop
      records := congrArg (fun k => k.records.map fun r => r.sequence) stop
      seat := congrArg (fun e => e.state.seat) play, flash := flash, sysreset := sysreset, pending := pending
      store := leaveActive_store s j _, axes := fun i h => ?_ }
  have mapped : (s.driveTo j d keep).mapped i = s.mapped i := by
    simp only [State.mapped, State.driveTo, State.modDrive, maps]
  have level : (s.driveTo j d keep).stop.level = s.stop.level := congrArg StopController.level stop
  have channel : (s.driveTo j d keep).channels.get i =
      if i = j ∧ s.driveState j = .active then (s.channels.get i).giveUp (s.mode j) else s.channels.get i := by
    show (s.leaveActive j).channels.get i = _
    rw [channels]
    by_cases a : s.driveState j = .active <;> by_cases e : i = j <;> simp [a, e, Tab.get_modify]
  unfold State.AxisFits at h ⊢
  rw [mapped, level, channel, driveTo_driveState]
  by_cases e : i = j
  · subst e
    obtain ⟨moves, ready, unset, map, unpowered⟩ := h
    by_cases a : s.driveState i = .active
    · simp only [a, if_true, true_and]
      refine ⟨by simp [AxisChannel.giveUp, inactive], fun p => ready (powered p), unset, map, fun top => ?_⟩
      have := unpowered top
      rw [a] at this
      cases this
    · simp only [a, if_true, and_false, if_false]
      refine ⟨by simp [moves, a, inactive], fun p => ready (powered p), unset, map, fun top => ?_⟩
      by_contra p
      exact absurd (powered (by simpa using p)) (by simp [unpowered top])
  · simpa only [e, if_false, false_and] using h

theorem keeps_driveFaults (s : State) (j : Axis) (c : Cause) : s.Keeps (s.driveFaults j c) :=
  (calm_driveTo s j .fault false (by decide) nofun).keeps.trans (keeps_raise _ c (by norm_num) (by norm_num))

/-! ### The loss of a station -/

theorem keeps_loseAuthority (s : State) (st : Station) : s.Keeps (s.loseAuthority st) := by
  refine keeps_of_entries rfl rfl rfl rfl rfl rfl rfl (fun j => axisFits.congr ?_) (fun j => ?_)
  · simp only [State.loseAuthority, Tab.get_imap]
    split
    · exact zeroTarget_sameAxis _
    · exact .refl _
  · simp only [State.mode, State.loseAuthority, Tab.get_map, AuthEntry.afterLoss]
    split
    · rename_i h
      exact .inr ⟨by rw [h.2]; rfl, rfl, by simp [AuthEntry.idle]⟩
    · split <;> exact .inl ⟨rfl, rfl⟩

theorem keeps_stationDown (s : State) (st : Station) : s.Keeps (s.stationDown st) := by
  have down : s.Keeps (((s.modLink st Link.goDown).loseAuthority st).removeReader st) :=
    (State.Calm.keeps (s := s) (t := s.modLink st Link.goDown) {}).trans
      ((keeps_loseAuthority _ st).trans (calm_removeReader _ st).keeps)
  unfold State.stationDown
  dsimp only
  split
  · exact down.trans (keeps_raise _ _ (by norm_num) (by norm_num))
  · exact down

/-! ### A take given up -/

theorem dropTake_sameAxis (s : State) (h : Hold) (j : Axis) :
    ((s.dropTake h).channels.get j).SameAxis (s.channels.get j) :=
  returnAxes_sameAxis _ _ j

theorem keeps_dropTake {s : State} {h : Hold} {m : Mode} (seat : s.play.state.seat = some (h, m)) :
    s.Keeps (s.dropTake h) :=
  keeps_of_modes rfl rfl rfl rfl rfl rfl (fun j => axisFits.congr (dropTake_sameAxis s h j)) (by
    rw [stopsHoldTakes_iff, stopsHoldTakes_iff]
    exact fun ⟨agree, stopped⟩ => ⟨dropTake_modes seat agree, fun pos => ⟨.inl rfl, (stopped pos).2⟩⟩)

theorem keeps_failCue {s : State} {c : Cue} {m : Mode} (seat : s.play.state.seat = some (c.hold, m)) (why : CueFail) :
    s.Keeps (s.failCue c why) :=
  (keeps_dropTake seat).trans ((calm_post _ _ _).keeps.trans (keeps_judgeZones _))

theorem keeps_endPlay {s : State} {h : Hold} {m : Mode} (seat : s.play.state.seat = some (h, m)) (why : PlayEnd)
    (elapsed : Option Nat) : s.Keeps (s.endPlay h why elapsed) :=
  (keeps_dropTake seat).trans ((calm_post _ _ _).keeps.trans (keeps_judgeZones _))

/-- An engine that seeks or runs, or is PAUSED at level 0, takes its axes into another mode. -/
theorem keeps_takeOver {s : State} {e : EngineState} {h : Hold} {m m' : Mode} (seat : s.play.state.seat = some (h, m))
    (moves : m = .paused → s.stop.level = 0) (next : e.seat = some (h, m')) (under : m'.underTake = true) :
    s.Keeps ((s.setEngine e).setModes (s.takeAxes h.slot) m') :=
  keeps_of_modes rfl rfl rfl rfl rfl rfl (fun _ h => h) (by
    rw [stopsHoldTakes_iff, stopsHoldTakes_iff]
    rintro ⟨agree, stopped⟩
    have fit := agree.1
    rw [modesFit_iff, seat] at fit
    obtain ⟨k, closed, held⟩ := fit
    rw [takeAxes_of_closed closed]
    refine ⟨takeUp_modes next under closed (fun j hj => ?_) (fun j hj => ?_) agree, fun pos => ?_⟩
    · have := held j
      rw [if_pos hj] at this
      exact this.2
    · have := held j
      rwa [if_neg (by simp only [hj, Bool.false_eq_true, not_false_iff])] at this
    · exact absurd (moves ((isStopped_iff _).mp (stopped pos).1 h m seat)) pos.ne')

theorem keeps_beginRunning {s : State} {c : Cue} (ready : s.play.state = .ready c) : s.Keeps (s.beginRunning c) :=
  keeps_takeOver (m := .seek) (by rw [ready]; rfl) nofun rfl rfl

end Sys2Proof.Machine
end

section
/-! The parts of an update keep the six invariants. -/

namespace Sys2Proof.Machine

-- The default fields of a structure wait for every proof before them, so these proofs are elaborated in order.
set_option Elab.async false

/-- A condition that the state meets where the change is taken. -/
theorem State.Keeps.ite {s t : State} {p : Prop} [Decidable p] (h : p → s.Keeps t) : s.Keeps (if p then t else s) := by
  split
  · exact h ‹_›
  · exact .refl s

/-! ### The engine and the halt timer as the update begins -/

theorem keeps_haltRunsOut (s : State) : s.Keeps s.haltRunsOut := by
  have idle : s.Keeps { s with stop := { s.stop with haltTimer := none } } := State.Calm.keeps {}
  unfold State.haltRunsOut
  split
  · exact idle.trans (keeps_raise _ _ (by norm_num) (by norm_num))
  · exact idle

theorem keeps_countHalt (s : State) : s.Keeps s.countHalt := by
  unfold State.countHalt
  split
  · exact .refl s
  · split
    · exact keeps_haltRunsOut s
    · exact State.Calm.keeps {}

theorem keeps_judgeStart (s : State) : s.Keeps s.judgeStart := by
  unfold State.judgeStart
  split
  · rename_i c e
    exact .ite fun _ => keeps_failCue (m := .seek) (by rw [e]; rfl) _
  · rename_i c e
    refine .ite fun _ => ?_
    split
    · exact keeps_beginRunning e
    · exact keeps_failCue (m := .seek) (by rw [e]; rfl) _
  all_goals exact .refl s

/-- Another engine state of the same seat. -/
theorem calm_setEngine {s : State} {e : EngineState} (seat : e.seat = s.play.state.seat) : s.Calm (s.setEngine e) where
  seat := seat

theorem keeps_engineBegin (s : State) : s.Keeps s.engineBegin := by
  unfold State.engineBegin
  split
  · rename_i h n e
    split
    · exact .refl s
    · exact (calm_setEngine (by rw [e]; rfl)).keeps
  · rename_i c e
    split
    · exact keeps_beginRunning e
    · exact keeps_judgeStart s
  · exact keeps_judgeStart s
  all_goals exact .refl s

theorem keeps_beginUpdate (s : State) : s.Keeps s.beginUpdate :=
  (keeps_countHalt s).trans ((keeps_engineBegin _).trans (State.Calm.keeps {}))

/-! ### The setpoint step -/

theorem calm_moveTrims (s : State) : s.Calm s.moveTrims :=
  calm_channels s _ fun j c => by
    split
    · split <;> exact ⟨rfl, rfl, rfl⟩
    · exact .refl _

theorem calm_supplyTargets (s : State) : s.Calm s.supplyTargets :=
  calm_channels s _ fun j c => by
    split
    · rename_i m x e _
      split
      · exact ⟨by rw [e]; rfl, rfl, rfl⟩
      · split
        · exact ⟨by rw [e]; rfl, rfl, rfl⟩
        · exact .refl _
    · exact .refl _

theorem calm_takeCaps (s : State) (reach : Tab 7 (Option (Int × Int))) : s.Calm (s.takeCaps reach) :=
  calm_channels s _ fun j c => by
    split
    · exact ⟨rfl, rfl, rfl⟩
    · exact .refl _

theorem calm_finishSteps (s : State) (steps : Tab 10 (Option StepOut)) : s.Calm (s.finishSteps steps) :=
  calm_channels s _ fun j c => by
    split
    · rename_i e _
      exact ⟨by rw [e]; rfl, rfl, rfl⟩
    · exact .refl _

theorem keeps_raiseSteps (s : State) (cs : List Cause) : s.Keeps (s.raiseSteps cs) :=
  .fold cs (fun t c => keeps_raise t c (by norm_num) (by norm_num)) s

theorem keeps_generate (s : State) : s.Keeps s.generate :=
  (calm_moveTrims s).keeps.trans ((calm_supplyTargets _).keeps.trans ((calm_takeCaps _ _).keeps.trans
    ((keeps_raiseSteps _ _).trans (calm_finishSteps _ _).keeps)))

/-! ### The counts -/

theorem calm_markStale (s : State) (st : Station) : s.Calm (s.markStale st) :=
  calm_entries s _ _ (fun j => by rw [Tab.get_map]; split <;> exact ⟨rfl, rfl⟩) (fun j => by
    rw [Tab.get_imap]
    split
    · exact zeroTarget_sameAxis _
    · exact .refl _)

theorem keeps_countMove (s : State) (st : Station) : s.Keeps (s.countMove st) := by
  have counted (n : StationRec → Nat) : s.Calm (s.modStation st fun r => { r with lastMove := n r }) := {}
  unfold State.countMove
  refine .ite fun _ => ?_
  dsimp only
  split
  · exact ((counted _).trans (calm_markStale _ st)).keeps
  · exact (counted _).keeps

theorem keeps_countFrame (s : State) (st : Station) : s.Keeps (s.countFrame st) := by
  have counted (n : StationRec → Nat) : s.Keeps (s.modStation st fun r => { r with lastFrame := n r }) :=
    State.Calm.keeps {}
  unfold State.countFrame
  refine .ite fun _ => ?_
  dsimp only
  split
  · exact (counted _).trans (keeps_stationDown _ st)
  · exact counted _

theorem keeps_countReader (s : State) (st : Station) : s.Keeps (s.countReader st) := by
  unfold State.countReader
  split
  · exact .refl s
  · split
    · exact (calm_removeReader s st).keeps
    · exact State.Calm.keeps {}

theorem keeps_countPeriod (s : State) : s.Keeps s.countPeriod := by
  unfold State.countPeriod
  split <;> exact State.Calm.keeps {}

theorem keeps_countMarks (s : State) : s.Keeps s.countMarks :=
  (State.Calm.keeps {}).trans (.fold allStations keeps_countReader s.countLockout)

theorem keeps_countUpdate (s : State) : s.Keeps s.countUpdate :=
  (State.Keeps.fold allStations keeps_countMove s).trans ((State.Keeps.fold allStations keeps_countFrame _).trans
    ((keeps_countMarks _).trans (keeps_countPeriod _)))

/-! ### The hand-off -/

theorem calm_standstillTest (s : State) : s.Calm s.standstillTest := by
  unfold State.standstillTest
  split
  · rename_i h
    refine { held := h.1.symm, level := ?_, cut := ?_, next := ?_, records := ?_, axes := fun j w => ?_ }
    all_goals unfold StopController.standstill
    · split <;> rfl
    · split <;> rfl
    · split <;> rfl
    · split
      · rw [List.map_map]
        refine List.map_congr_left fun r _ => ?_
        simp only [Function.comp_apply]
        split <;> rfl
      · rfl
    · unfold State.AxisFits at w ⊢
      dsimp only
      split <;> exact w
  · exact {}

theorem keeps_judgeSilence (s : State) (j : Axis) : s.Keeps (s.judgeSilence j) := by
  unfold State.judgeSilence
  split
  · exact keeps_driveFaults s j _
  · exact .ite fun _ => (calm_modDrive s j _ (by intro; rfl)).keeps

theorem keeps_countWait (s : State) (j : Axis) : s.Keeps (s.countWait j) := by
  unfold State.countWait
  split
  · exact .refl s
  · split
    · exact keeps_driveFaults s j _
    · exact (calm_modDrive s j _ (by intro; rfl)).keeps

theorem keeps_haltPoint (s : State) : s.Keeps s.haltPoint := by
  unfold State.haltPoint
  exact .ite fun _ => .fold _ (fun t j => .ite fun active =>
    (calm_driveTo t j .parking true (by decide) fun _ => by rw [active]; rfl).keeps) s

theorem keeps_portWork (s : State) : s.Keeps s.portWork :=
  (State.Keeps.fold allAxes keeps_judgeSilence s).trans
    ((State.Keeps.fold allAxes keeps_countWait _).trans (keeps_haltPoint _))

/-- A block drawn for the next sample is the head of the free list. -/
theorem drawBlock_perm {q k : Nat} {blocks free bs rest : List Nat} (h : drawBlock q k blocks free = some (bs, rest)) :
    (rest ++ bs).Perm (free ++ blocks) := by
  unfold drawBlock at h
  split at h
  · split at h
    · cases h
    · rename_i b r
      cases h
      calc (rest ++ (blocks ++ [b])).Perm (blocks ++ [b] ++ rest) := List.perm_append_comm
        _ = blocks ++ (b :: rest) := by simp
        List.Perm _ (b :: rest ++ blocks) := List.perm_append_comm
  · cases h
    exact .refl _

theorem calm_storeSample {s : State} {r : Recorder} {t : Take} (recording : s.takes.recordingTake = some (r, t)) :
    s.Calm (s.storeSample r t) := by
  obtain ⟨hr, ht⟩ := recordingTake_eq_some.mp recording
  unfold State.storeSample
  split
  · exact calm_closeTake s _
  · rename_i blocks free draw
    exact { store := .setSlot r.slot _ (writeSample_wf _ _ _ _) rfl (by rw [ht]; exact drawBlock_perm draw)
              (fun k _ hk => by
                obtain ⟨c, hc⟩ := closedTake_eq_some.mp hk
                rw [ht] at hc
                cases hc) (by rw [ht]; rfl) (by rw [hr]; rfl) }

theorem keeps_recordUpdate (s : State) : s.Keeps s.recordUpdate := by
  unfold State.recordUpdate
  split
  · exact .refl s
  · rename_i r t recording
    obtain ⟨hr, ht⟩ := recordingTake_eq_some.mp recording
    split
    · exact State.Calm.keeps { store := .countDown hr _ }
    · exact (calm_storeSample recording).keeps

theorem keeps_judgeArrival (s : State) : s.Keeps s.judgeArrival := by
  unfold State.judgeArrival
  split
  · rename_i c e
    exact .ite fun _ => (calm_setEngine (by rw [e]; rfl)).keeps
  · rename_i c e
    split
    · exact .refl s
    · exact (calm_setEngine (by rw [e]; rfl)).keeps
  all_goals exact .refl s

theorem calm_haltAxes (s : State) (axes : AxisSet) : s.Calm (s.haltAxes axes) :=
  calm_channels s _ fun j c => by
    split
    · exact sameAxis_target c _
    · exact .refl _

theorem keeps_judgeEnd (s : State) : s.Keeps s.judgeEnd := by
  unfold State.judgeEnd
  split
  · rename_i h n e
    have seat : (s.haltAxes (s.takeAxes h.slot)).play.state.seat = some (h, .playback) := by
      rw [show (s.haltAxes (s.takeAxes h.slot)).play = s.play from rfl, e]; rfl
    exact .ite fun _ => (calm_haltAxes s _).keeps.trans (keeps_endPlay seat _ _)
  all_goals exact .refl s

theorem keeps_sendFrame (s : State) : s.Keeps s.sendFrame := State.Calm.keeps {}

theorem keeps_handOff (s : State) : s.Keeps s.handOff :=
  (calm_standstillTest s).keeps.trans ((keeps_portWork _).trans ((keeps_sendFrame _).trans ((keeps_testZones _ _).trans
    ((keeps_recordUpdate _).trans ((keeps_judgeArrival _).trans (keeps_judgeEnd _))))))

theorem keeps_countReport (s : State) : s.Keeps s.countReport := by
  unfold State.countReport
  split <;> exact State.Calm.keeps {}

theorem keeps_updateOnce (s : State) : s.Keeps s.updateOnce :=
  (keeps_beginUpdate s).trans ((keeps_generate _).trans ((keeps_countUpdate _).trans ((keeps_handOff _).trans
    (keeps_countReport _))))

end Sys2Proof.Machine
end

section
/-! Frames, requests and the settings they change keep the six invariants. -/

namespace Sys2Proof.Machine

-- The default fields of a structure wait for every proof before them, so these proofs are elaborated in order.
set_option Elab.async false

/-! ### Outcomes -/

/-- A command that comes to a state which keeps the six invariants and the queue. -/
inductive State.Makes (s : State) : Host.Outcome State Fault Refusal → Prop
  | next {t : State} (keeps : s.Keeps t) : s.Makes (.next t)

theorem awake_makes {s : State} {f : State → State} (h : s.sysreset = false → s.Keeps (f s)) : s.Makes (awake s f) := by
  cases hs : s.sysreset with
  | true => rw [awake_held f hs]; exact .next (.refl s)
  | false => rw [awake_next f hs]; exact .next (h hs)

/-! ### Frames and requests -/

theorem calm_modLink (s : State) (st : Station) (f : Link → Link) : s.Calm (s.modLink st f) := {}

theorem keeps_heard (s : State) (st : Station) : s.Keeps (s.heard st) := State.Calm.keeps {}

theorem keeps_badFrame (s : State) (st : Station) (isTest : Bool) : s.Keeps (s.badFrame st isTest) := by
  unfold State.badFrame
  refine .ite fun _ => ?_
  dsimp only
  split
  · exact (calm_modLink s st _).keeps.trans (keeps_stationDown _ st)
  · exact (calm_modLink s st _).keeps

theorem keeps_onFrame (s : State) (st : Station) (payload : List Byte) {f : State → State}
    (h : (s.heard st).Keeps (f (s.heard st))) : s.Keeps (s.onFrame st payload f) := by
  unfold State.onFrame
  refine .ite fun _ => ?_
  split
  · exact (keeps_heard s st).trans h
  · exact keeps_badFrame s st false

theorem keeps_onStream {α : Type} (s : State) (st : Station) (payload : List Byte) (decode : List Byte → Option α)
    (isTest : Bool) {inUp inTest : α → State → State} (up : ∀ a (t : State), t.Keeps (inUp a t))
    (test : ∀ a (t : State), t.Keeps (inTest a t)) : s.Keeps (s.onStream st payload decode isTest inUp inTest) := by
  unfold State.onStream
  refine .ite fun _ => ?_
  split
  · split
    · split
      · exact (keeps_heard s st).trans (up _ _)
      · exact (keeps_heard s st).trans (test _ _)
    · exact keeps_badFrame s st isTest
  · exact keeps_badFrame s st isTest

/-- What a request's rule keeps, it keeps while the part is not held in reset. -/
theorem keeps_submit {serve : List Byte → State → State × Answer}
    (h : ∀ bytes (t : State), t.sysreset = false → t.Keeps (serve bytes t).1) {s : State} (awake : s.sysreset = false) (st : Station)
    (tag code : Byte) (bytes : List Byte) : s.Keeps (s.submit st tag code bytes serve) := by
  unfold State.submit
  split
  · exact (calm_modLink s st _).keeps
  · split
    · exact (calm_modLink s st _).keeps
    · exact (h bytes s awake).trans (calm_modLink _ st _).keeps

theorem keeps_endHeld (s : State) (st : Station) (h : Held) : s.Keeps (s.endHeld st h) := by
  unfold State.endHeld
  split <;> exact ((calm_modLink s st _).trans (calm_modLink _ st _)).keeps

theorem endHeld_sysreset (s : State) (st : Station) (h : Held) : (s.endHeld st h).sysreset = s.sysreset := by
  unfold State.endHeld
  split <;> rfl

theorem keeps_takeRequest {serve : List Byte → State → State × Answer}
    (h : ∀ bytes (t : State), t.sysreset = false → t.Keeps (serve bytes t).1) {s : State} (awake : s.sysreset = false) (st : Station)
    (tag code : Byte) (payload : List Byte) : s.Keeps (s.takeRequest st tag code payload serve) := by
  refine keeps_onFrame s st payload ?_
  split
  · exact keeps_submit (s := s.heard st) h awake st tag code payload
  · rename_i held _
    split
    · exact (calm_modLink _ st _).keeps.trans (keeps_submit (s := (s.heard st).clearAssembly st) h awake st tag code _)
    · exact (keeps_endHeld _ st held).trans (keeps_submit h ((endHeld_sysreset (s.heard st) st held).trans awake) st tag code payload)

theorem keeps_takeMore (s : State) (st : Station) (tag code : Byte) (payload : List Byte) :
    s.Keeps (s.takeMore st tag code payload) := by
  refine keeps_onFrame s st payload ?_
  split
  · exact (calm_modLink _ st _).keeps
  · exact (keeps_endHeld _ st _).trans (calm_modLink _ st _).keeps

theorem request_makes {α : Type} {s : State} {st : Station} {tag code : Byte} {payload : List Byte}
    {decode : List Byte → Option α} {serve : α → State → State × Answer}
    (h : ∀ a (t : State), t.sysreset = false → t.Keeps (serve a t).1) : s.Makes (request st tag code payload decode serve s) :=
  awake_makes fun awake => keeps_takeRequest (fun bytes t ht => by
    unfold serveArgs
    split
    · exact h _ t ht
    · exact .refl t) awake st tag code payload

theorem keeps_judged {verdict : Option Answer} {s taken : State} {detail : List Byte} (h : verdict = none → s.Keeps taken) :
    s.Keeps (judged verdict s taken detail).1 := by
  cases verdict with
  | none => exact h rfl
  | some a => exact .refl s

/-! ### Drives (chapter 3) -/

theorem keeps_waitRunsOut (s : State) (j : Axis) (d : DriveState) : s.Keeps (s.waitRunsOut j d) := by
  unfold State.waitRunsOut
  refine .ite fun _ => ?_
  split
  · exact .ite fun _ => keeps_driveFaults s j _
  · exact .refl s

/-- The axes of a carried set whose conditions a verdict has not refused. -/
theorem of_any_axesOf {axes : AxisSet} {f : Axis → Bool} (h : ¬ (axesOf axes).any f = true) {j : Axis}
    (hj : axes.getLsbD j.val = true) : f j = false := by
  by_contra c
  exact h (List.any_eq_true.mpr ⟨j, mem_axesOf.mpr hj, by simpa using c⟩)

/-- Drives of a set of axes that are not ACTIVE take another state. -/
theorem calm_setDrives (s : State) (axes : AxisSet) (d : DriveState) (inactive : d ≠ .active)
    (was : ∀ j : Axis, axes.getLsbD j.val = true → s.driveState j ≠ .active)
    (powered : ∀ j : Axis, axes.getLsbD j.val = true → d.powered = true →
      (s.channels.get j).commissioning = .ready ∧ s.stop.level ≠ 3) : s.Calm (s.setDrives axes d) where
  axes j h := by
    have drive : (s.setDrives axes d).driveState j = if axes.getLsbD j.val then d else s.driveState j := by
      simp only [State.driveState, State.setDrives, Tab.get_imap]
      split <;> rfl
    unfold State.AxisFits at h ⊢
    rw [drive]
    split
    · rename_i hj
      obtain ⟨moves, -, unset, map, -⟩ := h
      refine ⟨?_, fun p => (powered j hj p).1, unset, map, fun top => ?_⟩
      · show (s.channels.get j).moving.isSome = true ↔ _
        rw [moves]
        simp [was j hj, inactive]
      · by_contra p
        exact (powered j hj (by simpa using p)).2 top
    · exact h

theorem keeps_enable (s : State) (st : Station) (w : BitVec 16) (h : s.enableVerdict st w = none) :
    s.Keeps (s.enableTaken w) := by
  unfold State.enableVerdict at h
  split at h; · cases h
  split at h; · cases h
  split at h; · cases h
  rename_i level
  split at h; · cases h
  rename_i ready
  split at h; · cases h
  rename_i off
  refine (calm_setDrives s _ .waking (by decide) (fun j hj active => ?_) (fun j hj _ => ⟨?_, by omega⟩)).keeps
  · have := of_any_axesOf off hj
    simp [active] at this
  · simpa using of_any_axesOf ready hj

theorem keeps_parkAll (l : List Axis) {s : State} (powered : ∀ j ∈ l, (s.driveState j).powered = true) :
    s.Keeps (l.foldl (fun t j => t.driveTo j .parking true) s) := by
  induction l generalizing s with
  | nil => exact .refl s
  | cons j l ih =>
    refine (calm_driveTo s j .parking true (by decide) fun _ => powered j (by simp)).keeps.trans (ih fun i hi => ?_)
    rw [driveTo_driveState]
    split
    · rfl
    · exact powered i (by simp [hi])

theorem keeps_park (s : State) (st : Station) (w : BitVec 16) (h : s.parkVerdict st w = none) :
    s.Keeps (s.parkTaken w) := by
  unfold State.parkVerdict at h
  split at h; · cases h
  split at h; · cases h
  split at h; · cases h
  rename_i barred
  refine keeps_parkAll _ fun j hj => ?_
  have := of_any_axesOf barred (mem_axesOf.mp hj)
  simp only [Bool.or_eq_false_iff, decide_eq_false_iff_not, not_not] at this
  rw [this.1.1]
  rfl

theorem keeps_clearFault (s : State) (st : Station) (w : BitVec 16) (h : s.clearFaultVerdict st w = none) :
    s.Keeps (s.clearFaultTaken w) := by
  unfold State.clearFaultVerdict at h
  split at h; · cases h
  split at h; · cases h
  split at h; · cases h
  rename_i faulted
  refine (calm_setDrives s _ .parked (by decide) (fun j hj active => ?_) (fun j hj p => nomatch p)).keeps
  have := of_any_axesOf faulted hj
  simp [active] at this

/-! ### Reports (R42 to R54) -/

theorem keeps_compareReport (s : State) (j : Axis) (pos : Int) : s.Keeps (s.compareReport j pos) := by
  unfold State.compareReport
  split
  · refine .ite fun _ => ?_
    split
    · split
      · exact .refl s
      · exact (calm_modDrive s j _ (by intro; rfl)).keeps.trans (keeps_raise _ _ (by norm_num) (by norm_num))
    · exact (calm_modDrive s j _ (by intro; rfl)).keeps
  · exact .refl s

/-- A drive that was WAKING becomes ACTIVE with a setpoint. -/
theorem keeps_wakeDrive (s : State) (j : Axis) (pos : Int) (waking : s.driveState j = .waking) :
    s.Keeps (s.wakeDrive j pos) := by
  have woken : s.Calm (((s.modDrive j fun d => { d with state := .active, wait := 0, followingError := false }).modChannel j
      fun c => c.wake (s.mode j) pos).modAuth j fun a => { a with command := .vel 0 }) :=
    { mode := fun i => by
        simp only [State.mode, State.modAuth_auth, State.modChannel_auth, State.modDrive_auth, Tab.get_modify]
        split
        · rename_i e; rw [e]
        · rfl
      owner := fun i => by
        simp only [State.modAuth_auth, State.modChannel_auth, State.modDrive_auth, Tab.get_modify]
        split
        · rename_i e; rw [e]
        · rfl
      axes := fun i h => by
        unfold State.AxisFits at h ⊢
        simp only [State.driveState, State.modAuth_port, State.modChannel_port, State.modDrive_port, Tab.get_modify,
          State.modAuth_channels, State.modChannel_channels, State.modDrive_channels]
        split
        · rename_i e
          subst e
          obtain ⟨-, ready, unset, map, unpowered⟩ := h
          rw [waking] at ready unpowered
          exact ⟨by simp [AxisChannel.wake], fun _ => ready rfl, unset, map, fun top => nomatch unpowered top⟩
        · exact h }
  unfold State.wakeDrive
  dsimp only
  split
  · exact woken.keeps.trans (keeps_testZones _ _)
  · exact woken.keeps

theorem keeps_reportActs (s : State) (j : Axis) (arrival : DriveState) (code : ReportCode) (pos : Int)
    (same : arrival = .waking ∨ arrival = .parking → s.driveState j = arrival) : s.Keeps (s.reportActs j arrival code pos) := by
  unfold State.reportActs
  split
  · exact keeps_wakeDrive s j pos (same (.inl rfl))
  · exact keeps_driveFaults s j _
  · exact keeps_driveFaults s j _
  · exact keeps_driveFaults s j _
  · exact keeps_driveFaults s j _
  · exact (calm_driveTo s j .parked false (by decide) nofun).keeps
  · exact keeps_driveFaults s j _
  · exact keeps_driveFaults s j _
  · exact .refl s

theorem recordReport_driveState (s : State) (j : Axis) (code : ReportCode) (pos : Int) (i : Axis) :
    (s.recordReport j code pos).driveState i = s.driveState i := by
  simp only [State.driveState, State.recordReport, Tab.get_modify]
  split
  · rename_i e; rw [e]
  · rfl

theorem calm_recordReport (s : State) (j : Axis) (code : ReportCode) (pos : Int) : s.Calm (s.recordReport j code pos) where
  axes i h := by
    unfold State.AxisFits at h ⊢
    rw [recordReport_driveState]
    exact h

theorem compareReport_inactive (s : State) (j : Axis) (pos : Int) (h : s.driveState j ≠ .active) : s.compareReport j pos = s := by
  unfold State.compareReport
  split
  · rw [if_neg h]
  · rfl

theorem keeps_takeReport (s : State) (bs : List Byte) : s.Keeps (s.takeReport bs) := by
  unfold State.takeReport
  split
  · exact .refl s
  · split
    · exact .refl s
    · rename_i r _ j _
      dsimp only
      refine (calm_recordReport s j _ _).keeps.trans ((keeps_compareReport _ j _).trans (keeps_reportActs _ j _ _ _ fun h => ?_))
      have inactive : s.driveState j ≠ .active := by rcases h with h | h <;> simp [h]
      rw [compareReport_inactive _ _ _ (by rwa [recordReport_driveState]), recordReport_driveState]

end Sys2Proof.Machine
end

section
/-! The rules of the requests keep the six invariants, chapter by chapter. -/

namespace Sys2Proof.Machine

-- The default fields of a structure wait for every proof before them, so these proofs are elaborated in order.
set_option Elab.async false

/-! ### Authority (chapter 4) -/

theorem keeps_postLost (s before : State) (st : Station) (axes : AxisSet) : s.Keeps (s.postLost before st axes) :=
  .fold _ (fun t o => .ite fun _ => (calm_post t o _).keeps) s

theorem keeps_giveAxes (s : State) (st : Station) (axes : AxisSet)
    (free : ∀ j : Axis, axes.getLsbD j.val = true → (s.mode j).underTake = false) : s.Keeps (s.giveAxes st axes) := by
  refine keeps_of_entries rfl rfl rfl rfl rfl rfl rfl (fun j => axisFits.congr ?_) (fun j => ?_)
  · simp only [State.giveAxes, Tab.get_imap]
    split
    · exact zeroTarget_sameAxis _
    · exact .refl _
  · simp only [State.mode, State.giveAxes, Tab.get_imap]
    split
    · exact .inr ⟨free j ‹_›, rfl, by simp⟩
    · exact .inl ⟨rfl, rfl⟩

theorem keeps_claim (s : State) (st : Station) (w : BitVec 16) (takeover : Bool) (h : s.claimVerdict st w takeover = none) :
    s.Keeps (s.claimTaken st (w.setWidth 10)) := by
  unfold State.claimVerdict at h
  split at h; · cases h
  split at h; · cases h
  split at h; · cases h
  rename_i free
  exact (keeps_giveAxes s st _ fun j hj => of_any_axesOf free hj).trans (keeps_postLost _ s st _)

theorem keeps_release (s : State) (st : Station) (w : BitVec 16) (h : s.releaseVerdict st w = none) :
    s.Keeps (s.releaseTaken (w.setWidth 10)) := by
  unfold State.releaseVerdict at h
  split at h; · cases h
  split at h; · cases h
  rename_i free
  refine keeps_of_entries rfl rfl rfl rfl rfl rfl rfl (fun j => axisFits.congr ?_) (fun j => ?_)
  · simp only [State.releaseTaken, Tab.get_imap]
    split
    · exact zeroTarget_sameAxis _
    · exact .refl _
  · simp only [State.mode, State.releaseTaken, Tab.get_imap]
    split
    · exact .inr ⟨of_any_axesOf free ‹_›, rfl, by simp [AuthEntry.idle]⟩
    · exact .inl ⟨rfl, rfl⟩

/-- An authority entry changed that keeps its mode and owner. -/
theorem calm_modAuth (s : State) (j : Axis) (f : AuthEntry → AuthEntry)
    (same : ∀ a, (f a).mode = a.mode ∧ (f a).owner = a.owner) : s.Calm (s.modAuth j f) where
  mode i := by
    simp only [State.mode, State.modAuth_auth, Tab.get_modify]
    split
    · rename_i e; rw [e]; exact (same _).1
    · rfl
  owner i := by
    simp only [State.modAuth_auth, Tab.get_modify]
    split
    · rename_i e; rw [e]; exact (same _).2
    · rfl

/-- A channel changed that keeps what the invariants see of it. -/
theorem calm_modChannel (s : State) (j : Axis) (f : AxisChannel → AxisChannel) (same : ∀ c, (f c).SameAxis c) :
    s.Calm (s.modChannel j f) where
  axes i := axisFits.congr (by
    simp only [State.modChannel_channels, Tab.get_modify]
    split
    · rename_i e; rw [e]; exact same _
    · exact .refl _)

theorem keeps_applyEntry (s : State) (st : Station) (j : Axis) (cmd : Command) : s.Keeps (s.applyEntry st j cmd) := by
  unfold State.applyEntry
  exact .ite fun _ => ((calm_modAuth s j _ (by intro; exact ⟨rfl, rfl⟩)).trans
    (calm_modChannel _ j _ fun c => sameAxis_target c _)).keeps

theorem calm_freshen (s : State) (st : Station) : s.Calm (s.freshen st) where
  mode j := by
    simp only [State.mode, State.freshen, Tab.get_map]
    split <;> rfl
  owner j := by
    simp only [State.freshen, Tab.get_map]
    split <;> rfl

theorem keeps_takeMove (s : State) (st : Station) (entries : List (Axis × Command)) : s.Keeps (s.takeMove st entries) :=
  (calm_freshen s st).keeps.trans (.fold _ (fun t (e : Axis × Command) => keeps_applyEntry t st e.1 e.2) _)

theorem keeps_applyTrim (s : State) (st : Station) (e : Nat × Int) : s.Keeps (s.applyTrim st e) := by
  unfold State.applyTrim
  split
  · refine .ite fun _ => ?_
    split
    · exact (calm_modChannel s _ _ (by intro; exact ⟨rfl, rfl, rfl⟩)).keeps
    · exact .refl s
  · exact .refl s

theorem keeps_takeTrim (s : State) (st : Station) (entries : List (Nat × Int)) : s.Keeps (s.takeTrim st entries) :=
  .fold _ (fun t e => keeps_applyTrim t st e) s

theorem keeps_trimAttach (s : State) (st : Station) (n : Nat) : s.Keeps (s.trimAttach st n).1 := by
  unfold State.trimAttach
  split
  · exact .refl s
  · split
    · split
      · exact .refl s
      · split
        · split <;> exact .refl s
        · exact (calm_modAuth s _ _ (by intro; exact ⟨rfl, rfl⟩)).keeps
    · exact .refl s

theorem keeps_trimDetach (s : State) (st : Station) (n : Nat) : s.Keeps (s.trimDetach st n).1 := by
  unfold State.trimDetach
  split
  · split
    · exact .refl s
    · split
      · exact (calm_modAuth s _ _ (by intro; exact ⟨rfl, rfl⟩)).keeps
      · exact .refl s
  · exact .refl s

/-! ### Limits and maps (chapters 1 and 2) -/

theorem keeps_loadLimits (s : State) (st : Station) (n : Nat) (r : Limits) (h : s.loadLimitsVerdict st n r = none) :
    s.Keeps (s.loadLimitsTaken n r) := by
  unfold State.loadLimitsVerdict at h
  unfold State.loadLimitsTaken
  split at h; · cases h
  split at h; · cases h
  rename_i j hj
  split at h; · cases h
  split at h; · cases h
  rename_i rest
  have off : s.driveState j = .off ∨ s.driveState j = .parked := by tauto
  have unpowered : (s.driveState j).powered = false := by rcases off with h | h <;> rw [h] <;> rfl
  have inactive : s.driveState j ≠ .active := by rcases off with h | h <;> rw [h] <;> decide
  simp only [hj]
  unfold State.setLimits
  split
  · rename_i motion
    refine State.Calm.keeps { axes := fun i w => ?_ }
    unfold State.AxisFits at w ⊢
    by_cases e : i = j
    · subst e
      obtain ⟨moves, -, -, -, -⟩ := w
      have mapped : (s.modChannel i fun c => { c with limits := some r, commissioning := .ready }).mapped i = true := by
        simp only [State.mapped, motion]
      rw [mapped]
      simp only [State.modChannel_channels, Tab.get_modify_same]
      exact ⟨moves, fun _ => rfl, by simp, fun _ => rfl, fun _ => unpowered⟩
    · simp only [State.modChannel_channels, Tab.get_modify, e, if_false]
      exact w
  · rename_i l lens
    refine State.Calm.keeps { axes := fun i w => ?_ }
    unfold State.AxisFits at w ⊢
    by_cases e : i = j
    · subst e
      obtain ⟨moves, -, -, -, -⟩ := w
      dsimp only
      simp only [State.modChannel_channels, Tab.get_modify_same]
      refine ⟨moves, fun p => ?_, by simp, by simp, fun _ => unpowered⟩
      exact absurd p (by simp only [State.driveState] at unpowered ⊢; simp [unpowered])
    · have mapped : State.mapped { s.modChannel j fun c => { c with limits := some r, commissioning := .limited } with
          maps := s.maps.modify l fun m => { m with map := none } } i = s.mapped i := by
        simp only [State.mapped]
        split
        · rename_i l' hl'
          have : l' ≠ l := by
            rintro rfl
            exact e ((lensOf_eq_some.mp hl').trans (lensOf_eq_some.mp lens).symm)
          simp only [Tab.get_modify, this, if_false]
        · rfl
      show axisFits _ _ (State.mapped { s.modChannel j _ with maps := s.maps.modify l _ } i) _
      rw [mapped]
      simp only [State.modChannel_channels, Tab.get_modify, e, if_false]
      exact w

theorem keeps_mapOpen (s : State) (st : Station) (n count : Nat) : s.Keeps (s.mapOpenTaken st n count) := by
  unfold State.mapOpenTaken
  split <;> exact State.Calm.keeps {}

theorem keeps_mapPoints (s : State) (n first : Nat) (ps : List (Nat × Int)) : s.Keeps (s.mapPointsTaken n first ps) := by
  unfold State.mapPointsTaken
  split <;> exact State.Calm.keeps {}

/-- A slot whose lens generation a new map mixes is the same slot to the invariants. -/
theorem mixed_blocks (k : TakeSlot) (l : Lens) : (k.mixed l).blocks = k.blocks ∧ (k.mixed l).isRecording = k.isRecording := by
  unfold TakeSlot.mixed
  split
  · split <;> exact ⟨rfl, rfl⟩
  · exact ⟨rfl, rfl⟩

theorem mixed_closed {k : TakeSlot} {l : Lens} {t : Take} {r : CloseReason} (h : k = .closed t r) :
    k.mixed l = .closed t r := by
  rw [h]; rfl

theorem mixed_store (ts : TakeStore) (l : Lens) (held : Option TakeNo) :
    TakeStore.Step held ts { ts with slots := ts.slots.map fun k => k.mixed l } where
  values := id
  blocks := by
    have : (ts.slots.map fun k => k.mixed l).list.flatMap TakeSlot.blocks = ts.slots.list.flatMap TakeSlot.blocks := by
      rw [Tab.map, List.flatMap_map]
      exact List.flatMap_congr fun k _ => (mixed_blocks k l).1
    unfold TakeStore.allBlocks
    rw [this]
  closed i k _ h := by
    obtain ⟨r, hr⟩ := closedTake_eq_some.mp h
    exact ⟨k, closedTake_eq_some.mpr ⟨r, by rw [Tab.get_map, mixed_closed hr]⟩, rfl⟩
  recorder fits i := by
    rw [Tab.get_map, (mixed_blocks _ l).2]
    exact fits i
  idle := id

theorem calm_installMap (s : State) (l : Lens) (mp : MapPoints) (limited : s.limits (lensAxis l) ≠ none) :
    s.Calm (s.installMap l mp) where
  store := mixed_store _ _ _
  axes i w := by
    have mapped : (s.installMap l mp).mapped i = (s.mapped i || decide (i = lensAxis l)) := by
      simp only [State.mapped, State.installMap]
      split
      · rename_i l' hl'
        rw [lensOf_eq_some.mp hl']
        simp only [Tab.get_modify, State.modChannel_maps]
        by_cases e : l' = l
        · simp [e]
        · have : lensAxis l' ≠ lensAxis l := fun h => e (by simpa using congrArg lensOf h)
          simp [e, this]
      · simp
    unfold State.AxisFits at w ⊢
    rw [mapped]
    by_cases e : i = lensAxis l
    · subst e
      obtain ⟨moves, -, -, -, unpowered⟩ := w
      simp only [State.installMap, State.modChannel_channels, Tab.get_modify_same, decide_true, Bool.or_true]
      exact ⟨by rw [Option.isSome_map]; exact moves, fun _ => rfl, ⟨nofun, fun h => absurd h limited⟩, fun _ => rfl, unpowered⟩
    · simp only [State.installMap, State.modChannel_channels, Tab.get_modify, e, if_false, decide_false, Bool.or_false]
      exact w

theorem keeps_loadMap (s : State) (st : Station) (n : Nat) : s.Keeps (s.loadMapTaken st n) := by
  unfold State.loadMapTaken
  split
  · split
    · split
      · rename_i mp staged
        refine (calm_installMap s _ mp fun none => ?_).keeps
        simp [State.stagedMap, none] at staged
      · exact .refl s
    · exact .refl s
  · exact .refl s

end Sys2Proof.Machine
end

section
/-! Stops, takes, the flash, playback and the start keep the six invariants. -/

namespace Sys2Proof.Machine

-- The default fields of a structure wait for every proof before them, so these proofs are elaborated in order.
set_option Elab.async false

/-! ### Stops (chapter 6) -/

theorem keeps_sampleChain (s : State) (r : ChainReading) : s.Keeps (s.sampleChain r) := by
  have judged : s.Keeps { s with stop := s.stop.judgeChain r } := State.Calm.keeps {}
  unfold State.sampleChain
  split
  · exact judged.trans (keeps_raise _ _ (by norm_num) (by norm_num))
  · exact judged

theorem keeps_chainSample (s : State) (r : ChainReading) (pressed : Bool) : s.Keeps (s.chainSample r pressed) := by
  have freed : s.Keeps { s with taken := { s.taken with chain := false } } := State.Calm.keeps {}
  unfold State.chainSample
  dsimp only
  split
  · exact freed.trans (State.Calm.keeps {})
  · exact freed.trans ((keeps_sampleChain _ r).trans (State.Calm.keeps {}))

theorem keeps_stopRequest (s : State) (st : Station) (n : Nat) (h : stopRequestVerdict n = none) :
    s.Keeps (s.raise (.stopRequest st) n) := by
  unfold stopRequestVerdict at h
  split at h
  · cases h
  · exact keeps_raise s _ (by omega) (by omega)

/-- A release returns to level 0 and leaves drives, modes, records and the stores. -/
theorem keeps_release_stop (s : State) (awake : s.sysreset = false) : s.Keeps s.releaseStopTaken where
  stores := id
  cut _ := ⟨Nat.zero_le _, by simp [State.releaseStopTaken, StopController.released, awake],
    by simp [State.releaseStopTaken, StopController.released]⟩
  records := id
  drives := by
    rw [drivesAgree_iff, drivesAgree_iff]
    intro w j
    obtain ⟨moves, ready, unset, map, -⟩ := w j
    have same : (s.releaseStopTaken.channels.get j).SameAxis (s.channels.get j) := by
      simp only [State.releaseStopTaken, Tab.get_imap]
      split
      · exact zeroTarget_sameAxis _
      · exact .refl _
    exact axisFits.congr same ⟨moves, ready, unset, map, nofun⟩
  blocks := id
  modes := by
    have entry (j : Axis) : (s.releaseStopTaken.auth.get j).mode = s.mode j ∧
        (s.releaseStopTaken.auth.get j).owner = (s.auth.get j).owner := by
      simp only [State.releaseStopTaken, Tab.get_map]
      split <;> exact ⟨rfl, rfl⟩
    rw [stopsHoldTakes_iff, stopsHoldTakes_iff]
    exact fun h => ⟨h.1.congr (fun j => (entry j).1) (fun j => (entry j).2) rfl (.refl _ _), nofun⟩
  pending := rfl

theorem keeps_clearStops (s : State) : s.Keeps { s with stop := { s.stop with records := [] } } where
  stores := id
  cut := id
  records h := ⟨h.1, Nat.zero_le _, trivial⟩
  drives := id
  blocks := id
  modes := id
  pending := rfl

/-! ### Marks (chapter 7) -/

theorem keeps_markRead (s : State) (st : Station) (part : Nat) : s.Keeps (s.markRead st part).1 := by
  unfold State.markRead
  split
  · exact .refl s
  · split
    · split
      · exact .refl s
      · exact State.Calm.keeps {}
    · split
      · split
        · exact State.Calm.keeps {}
        · exact (calm_removeReader s st).keeps
      · exact .refl s

/-! ### Zones (chapter 5) -/

theorem keeps_raiseFaults (s : State) (cs : List Channel) : s.Keeps (s.raiseFaults cs) :=
  .fold cs (fun t c => keeps_raise t _ (by norm_num) (by norm_num)) s

theorem keeps_presenceSample (s : State) (lineA lineB : ChannelSet) : s.Keeps (s.presenceSample lineA lineB) := by
  have filtered : s.Keeps (s.filterChannels lineA lineB) := State.Calm.keeps {}
  exact filtered.trans ((keeps_judgeZones _).trans (keeps_raiseFaults _ _))

theorem keeps_takeReading (s : State) (c : Channel) (r : Reading) : s.Keeps (s.takeReading c r) :=
  (State.Calm.keeps {}).trans (keeps_judgeZones _)

theorem keeps_loadZone (s : State) (st : Station) : s.Keeps (s.loadZoneTaken st) := by
  unfold State.loadZoneTaken
  split
  · exact .refl s
  · exact (calm_modZone s _ _).keeps.trans ((State.Calm.keeps {}).trans (keeps_judgeZones _))

theorem keeps_zoneEnable (s : State) (table index : Nat) (v : Bool) : s.Keeps (s.zoneEnableTaken table index v) := by
  unfold State.zoneEnableTaken
  split
  · exact .refl s
  · exact (calm_modZone s _ _).keeps.trans (keeps_judgeZones _)

/-! ### Takes (chapter 8) -/

theorem lowestEmpty_eq_some {ts : TakeStore} {i : TakeNo} (h : ts.lowestEmpty = some i) : ts.slots.get i = .empty := by
  have := List.find?_some h
  cases e : ts.slots.get i <;> simp_all [TakeSlot.isEmpty]

/-- The recorder begins at level 0 to record into an EMPTY slot. -/
theorem keeps_record (s : State) (st : Station) (w : BitVec 16) (n : Nat) (label : Tab 8 Byte)
    (h : s.recordVerdict st w n label = none) : s.Keeps (s.recordTaken st (w.setWidth 10) n label) := by
  unfold State.recordVerdict at h
  split at h; · cases h
  split at h; · cases h
  split at h; · cases h
  rename_i level
  split at h; · cases h
  rename_i free
  unfold State.recordTaken
  split
  · exact .refl s
  · rename_i i hi
    have slot := lowestEmpty_eq_some hi
    have none : s.takes.recorder = none := by simpa using free
    refine { stores := id, cut := id, records := id, drives := id, blocks := fun w => ?_, modes := ?_, pending := rfl }
    · exact (allBlocks_set i _ rfl (by rw [slot]; rfl)).trans w
    · rw [stopsHoldTakes_iff, stopsHoldTakes_iff]
      rintro ⟨⟨fit, idle, recorder⟩, -⟩
      refine ⟨⟨?_, idle, fun i' => ?_⟩, fun pos => absurd pos level⟩
      · rw [modesFit_iff] at fit ⊢
        dsimp only
        cases e : s.play.state.seat with
        | none => rw [e] at fit; exact fit
        | some x =>
          rw [e] at fit
          refine holdsAxes_congr (s := s) (fun _ => rfl) (fun _ => rfl) (fun k hk => ⟨k, ?_, rfl⟩) fit
          obtain ⟨r, hr⟩ := closedTake_eq_some.mp hk
          refine closedTake_eq_some.mpr ⟨r, ?_⟩
          rw [Tab.get_set_other _ _ (fun h => by rw [h, slot] at hr; cases hr), hr]
      · dsimp only
        rw [Tab.get_set]
        split
        · rename_i e; simp [TakeSlot.isRecording, e]
        · rename_i e
          have := recorder i'
          simp only [none, reduceCtorEq, false_and, exists_false, iff_false] at this
          simp [this, Ne.symm e]

theorem keeps_deleteTake (s : State) (st : Station) (n : Nat) : s.Keeps (s.deleteTake st n).1 := by
  unfold State.deleteTake
  split
  · exact .refl s
  · split
    · exact .refl s
    · rename_i i _
      split
      · exact .refl s
      · exact .refl s
      · exact .refl s
      · rename_i t r slot
        split
        · exact .refl s
        · split
          · exact .refl s
          · rename_i free
            split
            · exact .refl s
            · refine State.Calm.keeps { store := ?_ }
              exact .setSlot i .empty id rfl (by simp [slot, TakeSlot.blocks]) (fun _ hi => absurd hi free) (by rw [slot]; rfl) rfl

theorem keeps_protectTake (s : State) (st : Station) (n : Nat) (v : Bool) : s.Keeps (s.protectTake st n v).1 := by
  unfold State.protectTake
  split
  · exact .refl s
  · split
    · exact .refl s
    · rename_i i _
      split
      · exact .refl s
      · exact .refl s
      · rename_i t slot
        refine State.Calm.keeps { store := .setSlot i _ id rfl (by rw [slot]; rfl) (fun k _ hk => ?_) (by rw [slot]; rfl) rfl }
        obtain ⟨r, hr⟩ := closedTake_eq_some.mp hk
        rw [slot] at hr
        cases hr
      · rename_i t r slot
        refine State.Calm.keeps { store := .setSlot i _ id rfl (by rw [slot]; rfl) (fun k _ hk => ?_) (by rw [slot]; rfl) rfl }
        obtain ⟨r', hr⟩ := closedTake_eq_some.mp hk
        rw [slot] at hr
        cases hr
        exact ⟨_, _, rfl, rfl⟩

/-! ### The flash (chapter 11) -/

/-- The flash changed alone, in canonical form. -/
theorem keeps_flash {s t : State} (flash : Memory.wf erasedByte s.flash → Memory.wf erasedByte t.flash)
    (rest : State.Calm { s with flash := t.flash } t) : s.Keeps t where
  stores := fun ⟨f, v⟩ => rest.keeps.stores ⟨flash f, v⟩
  cut h := rest.keeps.cut h
  records h := rest.keeps.records h
  drives h := rest.keeps.drives h
  blocks h := rest.keeps.blocks h
  modes h := rest.keeps.modes h
  pending := rest.pending

theorem keeps_saveTake (s : State) (st : Station) (n first last : Nat) : s.Keeps (s.saveTake st n first last).1 := by
  unfold State.saveTake
  split
  · exact .refl s
  · split
    · exact .refl s
    · split
      · exact .refl s
      · split
        · exact .refl s
        · split
          · exact .refl s
          · exact .refl s
          · exact .refl s
          · exact State.Calm.keeps {}

theorem keeps_endSave (s : State) (op : FlashOp) : s.Keeps (s.endSave op) := by
  unfold State.endSave
  refine State.Keeps.trans (keeps_flash (t := { s with flash := _, flashPort := none }) (fun w => ?_) {})
    (calm_post _ _ _).keeps
  exact writeSectors_wf _ _ _ w

theorem calm_loadTake (s : State) (st : Station) (first last : Nat) : s.Calm (s.loadTakeTaken st first last) := by
  unfold State.loadTakeTaken
  split
  · exact {}
  · rename_i i hi
    have slot := lowestEmpty_eq_some hi
    refine { store := .setSlot i (.loading 0 []) id rfl (by rw [slot]; rfl) (fun k _ hk => ?_) (by rw [slot]; rfl) rfl }
    obtain ⟨r, hr⟩ := closedTake_eq_some.mp hk
    rw [slot] at hr
    cases hr

/-- The slot of a load in flight is LOADING. -/
theorem loadInFlight_slot {s : State} {op : FlashOp} {i : TakeNo} {q : Nat} {blocks : List Nat}
    (h : s.loadInFlight = some (op, i, q, blocks)) : s.takes.slots.get i = .loading q blocks := by
  unfold State.loadInFlight at h
  split at h
  · split at h
    · split at h
      · split at h
        · rename_i slot; cases h; exact slot
        · cases h
      · cases h
    · cases h
  · cases h

/-- A slot that was LOADING changed with its blocks. -/
theorem loading_step {held : Option TakeNo} {a b : TakeStore} {i : TakeNo} {q : Nat} {blocks : List Nat}
    (slot : a.slots.get i = .loading q blocks) (k : TakeSlot) (values : Memory.wf 0 a.values → Memory.wf 0 b.values)
    (slots : b.slots = a.slots.set i k) (perm : (b.freeList ++ k.blocks).Perm (a.freeList ++ blocks))
    (other : k.isRecording = false) (recorder : b.recorder = a.recorder) : TakeStore.Step held a b :=
  .setSlot i k values slots (by rw [slot]; exact perm) (fun t _ ht => by
    obtain ⟨r, hr⟩ := closedTake_eq_some.mp ht
    rw [slot] at hr
    cases hr) (by rw [slot, other]; rfl) (by rw [recorder])

theorem keeps_failLoad {s : State} {i : TakeNo} {q : Nat} {blocks : List Nat} (slot : s.takes.slots.get i = .loading q blocks)
    (op : FlashOp) (why : FlashFail) : s.Keeps (s.failLoad op i blocks why) := by
  refine (State.Calm.trans { store := ?_ } (calm_post _ _ _)).keeps
  exact loading_step slot .empty id rfl (by simp [TakeSlot.blocks]) rfl rfl

theorem keeps_completeLoad {s : State} {i : TakeNo} {q : Nat} {blocks : List Nat}
    (slot : s.takes.slots.get i = .loading q blocks) (op : FlashOp) (h : TakeHeader) :
    s.Keeps (s.completeLoad op i h q blocks) := by
  refine (State.Calm.trans { store := ?_ } (calm_post _ _ _)).keeps
  exact loading_step slot (.closed _ _) id rfl (.refl _) rfl rfl

theorem keeps_storeLoaded {s : State} {i : TakeNo} {q : Nat} {blocks : List Nat}
    (slot : s.takes.slots.get i = .loading q blocks) (op : FlashOp) (h : TakeHeader) :
    s.Keeps (s.storeLoaded op i h q blocks) := by
  unfold State.storeLoaded
  split
  · exact .refl s
  · rename_i draw
    exact State.Calm.keeps
      { store := loading_step slot (.loading _ _) (writeSample_wf _ _ _ _) rfl (drawBlock_perm draw) rfl rfl }

theorem keeps_sectorDone (s : State) (op : FlashOp) : s.Keeps (s.sectorDone op) := by
  have written (p : Option FlashOp) : s.Keeps { s.writeUnderWay op with flashPort := p } :=
    keeps_flash (fun w => writeSector_wf _ _ w) {}
  unfold State.sectorDone
  split
  · exact .ite fun _ => State.Calm.keeps {}
  · exact .ite fun _ => written _
  · exact .ite fun _ => written _

theorem keeps_endConfig (s : State) (op : FlashOp) (back : List Byte) : s.Keeps (s.endConfig op back) := by
  unfold State.endConfig
  split
  · exact (keeps_flash (s := s) (t := { s with flash := _, flashPort := none, configDefaulted := false })
      (fun w => writeSector_wf _ _ w) {}).trans (calm_post _ _ _).keeps
  · exact (keeps_flash (s := s) (t := { s with flash := _, flashPort := none })
      (fun w => writeSector_wf _ _ w) {}).trans (calm_post _ _ _).keeps

end Sys2Proof.Machine
end

section
/-! Playback requests and the start keep the six invariants. -/

namespace Sys2Proof.Machine

-- The default fields of a structure wait for every proof before them, so these proofs are elaborated in order.
set_option Elab.async false

/-! ### Playback (chapter 9) -/

theorem keeps_goTaken (s : State) : s.Keeps s.goTaken := by
  unfold State.goTaken
  split
  · rename_i c e
    exact (calm_setEngine (by rw [e]; rfl)).keeps
  · rename_i c e
    exact (calm_setEngine (by rw [e]; rfl)).keeps
  all_goals exact .refl s

theorem keeps_cueTaken {s : State} {st : Station} {i : TakeNo} {t : Take} (start : Option Time) (ignore : Bool)
    (idle : s.play.state = .idle) (level : s.stop.level = 0) (closed : s.takes.closedTake i = some t)
    (free : ¬ (axesOf t.axes).any (s.cueBarred st) = true) : s.Keeps (s.cueTaken st i t start ignore) := by
  refine State.Keeps.trans ?_ ((calm_supplyTargets _).keeps.trans (keeps_judgeZones _))
  refine keeps_of_modes rfl rfl rfl rfl rfl rfl (fun _ h => h) ?_
  rw [stopsHoldTakes_iff, stopsHoldTakes_iff]
  rintro ⟨agree, -⟩
  have fit := agree.1
  rw [modesFit_iff, idle] at fit
  refine ⟨takeUp_modes rfl rfl closed (fun j hj => ?_) (fun j _ => fit j) agree, fun pos => absurd level pos.ne'⟩
  have := of_any_axesOf free hj
  simp only [State.cueBarred, Bool.or_eq_false_iff, decide_eq_false_iff_not, not_not] at this
  exact this.1.1

theorem keeps_cueClosed {s : State} {st : Station} {i : TakeNo} {t : Take} (start : Option Time) (ignore : Bool)
    (idle : s.play.state = .idle) (level : s.stop.level = 0) (closed : s.takes.closedTake i = some t) :
    s.Keeps (s.cueClosed st i t start ignore).1 := by
  unfold State.cueClosed
  split; · exact .refl s
  rename_i free
  split; · exact .refl s
  split; · exact .refl s
  split; · exact .refl s
  split; · exact State.Calm.keeps {}
  split; · exact .refl s
  exact keeps_cueTaken start ignore idle level closed free

theorem keeps_cue (s : State) (st : Station) (n : Nat) (start : Option Time) (ignore : Bool) :
    s.Keeps (s.cue st n start ignore).1 := by
  unfold State.cue
  split; · exact .refl s
  split; · exact .refl s
  split; · exact State.Calm.keeps {}
  rename_i idle
  split; · exact .refl s
  rename_i level
  split
  · exact .refl s
  · exact .refl s
  · exact .refl s
  · rename_i t r slot
    exact keeps_cueClosed _ ignore (by simpa using idle) (by omega) (closedTake_eq_some.mpr ⟨r, slot⟩)

theorem keeps_resume (s : State) (st : Station) : s.Keeps (s.resume st).1 := by
  unfold State.resume
  split; · exact .refl s
  split
  · rename_i h n e
    split; · exact .refl s
    rename_i level
    split; · exact .refl s
    split; · exact .refl s
    exact (keeps_takeOver (e := .seeking ⟨h, none, false, n⟩) (m := .paused) (by rw [e]; rfl) (fun _ => by omega) rfl
      rfl).trans ((calm_supplyTargets _).keeps.trans (keeps_judgeZones _))
  all_goals exact .refl s

theorem keeps_stopPlay (s : State) (st : Station) : s.Keeps (s.stopPlay st).1 := by
  unfold State.stopPlay
  split; · exact .refl s
  split <;> rename_i e
  · exact .refl s
  · exact keeps_endPlay (m := .seek) (by rw [e]; rfl) _ _
  · exact keeps_endPlay (m := .seek) (by rw [e]; rfl) _ _
  · exact keeps_endPlay (m := .playback) (by rw [e]; rfl) _ _
  · exact keeps_endPlay (m := .paused) (by rw [e]; rfl) _ _

theorem keeps_abandon (s : State) (st : Station) : s.Keeps (s.abandon st).1 := by
  unfold State.abandon
  split; · exact .refl s
  split <;> rename_i e
  · exact keeps_endPlay (m := .paused) (by rw [e]; rfl) _ _
  all_goals exact .refl s

theorem keeps_timedStart (s : State) : s.Makes (execTimedStart s) := by
  refine awake_makes fun _ => ?_
  dsimp only
  split
  · exact (keeps_judgeStart s).trans (State.Calm.keeps {})
  · exact keeps_judgeStart s

/-! ### The start (section 11.3) -/

theorem abandoned_wf {flash : List Host.Cell} (op : FlashOp) (n : Nat) (h : Memory.wf erasedByte flash) :
    Memory.wf erasedByte (abandoned flash op n) := by
  unfold abandoned
  dsimp only
  split
  · split
    · exact h
    · exact writeSector_wf _ _ h
  · exact h

theorem flashAtStart_wf {s : State} (h : Memory.wf erasedByte s.flash) : Memory.wf erasedByte s.flashAtStart := by
  unfold State.flashAtStart
  split
  · exact abandoned_wf _ _ h
  · exact h

/-- A Take Store in which no take is recorded, and what makes it one that a start can take over. -/
structure TakeStore.Restarts (s : State) (ts : TakeStore) : Prop where
  values : Memory.wf 0 s.takes.values → Memory.wf 0 ts.values
  blocks : s.BlocksKept → ts.allBlocks.Perm (List.range 8192)
  recorder : s.takes.recorderFits → ts.recorderFits
  idle : ts.recorder = none

/-- The reset state with the stores kept, held in reset or not. -/
theorem keeps_resetWith (s : State) {ts : TakeStore} (h : ts.Restarts s) (n : Nat) (held : Bool) :
    s.Keeps { State.reset with
      flash := s.flashAtStart, takes := ts, freeCount := n, pending := s.pending, sysreset := held } where
  stores w := ⟨flashAtStart_wf w.1, h.values w.2⟩
  cut _ := ⟨Nat.le_refl 3, iff_of_true rfl (.inl rfl), iff_of_true rfl (Nat.zero_lt_succ 2)⟩
  records _ := ⟨(by norm_num : 1 < 65536), (by norm_num : 1 ≤ 8), (by norm_num : 0 < 65536), rfl, trivial⟩
  drives _ := by
    rw [drivesAgree_iff]
    intro j
    have channel : State.reset.channels.get j = AxisChannel.unset := Tab.get_const ..
    have drive : State.reset.port.drives.get j = Drive.off := Tab.get_const ..
    simp [State.AxisFits, axisFits, State.driveState, channel, drive, AxisChannel.unset, Drive.off, DriveState.powered]
  blocks w := h.blocks w
  modes w := by
    have entry (j : Axis) : State.reset.auth.get j = AuthEntry.idle := Tab.get_const ..
    rw [stopsHoldTakes_iff] at w ⊢
    refine ⟨⟨fun j => ?_, fun j => ?_, h.recorder w.1.2.2⟩, fun _ => ⟨.inl rfl, h.idle⟩⟩
    · simp only [State.mode, entry]; rfl
    · simp [State.mode, entry, AuthEntry.idle]
  pending := rfl

/-- A valid image restored while every drive is OFF. -/
theorem calm_restored {s : State} (c : ConfigImage) (off : ∀ j, s.driveState j = .off) : s.Calm (s.restored c) where
  axes j _ := by
    have drive : (s.restored c).driveState j = .off := off j
    have channel : (s.restored c).channels.get j =
        { AxisChannel.unset with limits := c.limits.get j, commissioning := c.commissioning j } := Tab.get_ofFn ..
    have mapped : (s.restored c).mapped j = match lensOf j with
      | some l => (c.maps.get l).map.isSome
      | none => true := rfl
    unfold State.AxisFits
    rw [drive, channel, mapped]
    refine ⟨by simp [AxisChannel.unset], nofun, ?_, ?_, fun _ => rfl⟩
    · unfold ConfigImage.commissioning
      cases c.limits.get j with
      | none => simp
      | some r =>
        cases lensOf j with
        | none => simp
        | some l =>
          dsimp only
          split <;> simp
    · unfold ConfigImage.commissioning
      cases c.limits.get j with
      | none => simp
      | some r =>
        cases lensOf j with
        | none => simp
        | some l =>
          dsimp only
          split
          · intro _; assumption
          · simp

theorem keeps_start (s : State) {ts : TakeStore} (h : ts.Restarts s) : s.Keeps (s.start ts) := by
  have reset := keeps_resetWith s h s.freeNext false
  unfold State.start
  dsimp only
  split
  · exact reset
  · rename_i c _
    refine reset.trans ((calm_restored c fun j => ?_).keeps.trans (keeps_judgeZones _))
    have drive : State.reset.port.drives.get j = Drive.off := Tab.get_const ..
    simp only [State.driveState, drive]
    rfl

theorem atPowerOn_restarts (s : State) : TakeStore.atPowerOn.Restarts s where
  values _ := ⟨List.Pairwise.nil, nofun⟩
  blocks _ := by
    have empty : TakeStore.atPowerOn.slots.list.flatMap TakeSlot.blocks = [] :=
      List.flatMap_eq_nil_iff.mpr fun k hk => by rw [List.eq_of_mem_replicate hk]; rfl
    unfold TakeStore.allBlocks
    rw [empty, List.append_nil, TakeStore.atPowerOn]
  recorder _ i := by
    have slot : TakeStore.atPowerOn.slots.get i = .empty := Tab.get_const ..
    rw [slot]
    simp [TakeSlot.isRecording, TakeStore.atPowerOn]
  idle := rfl

theorem endLoading_step (ts : TakeStore) (i : TakeNo) : TakeStore.Step none ts (ts.endLoading i) := by
  unfold TakeStore.endLoading
  split
  · rename_i slot
    exact loading_step slot .empty id rfl (by simp [TakeSlot.blocks]) rfl rfl
  · exact .refl _ _

theorem endLoadings_step (l : List TakeNo) (ts : TakeStore) : TakeStore.Step none ts (l.foldl TakeStore.endLoading ts) := by
  induction l generalizing ts with
  | nil => exact .refl _ _
  | cons i l ih => exact (endLoading_step ts i).trans (ih _)

theorem takesAtReset_restarts (s : State) : s.takesAtReset.Restarts s := by
  have closed := closeTake_step s .interrupted none
  have ended := endLoadings_step allSlots (s.closeTake .interrupted).takes
  have step := closed.trans ended
  exact ⟨step.values, fun w => step.blocks.trans w, step.recorder, ended.idle (closeTake_frame s .interrupted).1⟩

theorem keeps_asserted (s : State) : s.Keeps { s with sysreset := true, stop := { s.stop with cut := true } } where
  stores := id
  cut h := ⟨h.1, by simp, h.2.2⟩
  records := id
  drives := id
  blocks := id
  modes := id
  pending := rfl

theorem powerOn_makes (s : State) : s.Makes (execPowerOn s) := by
  refine .next ?_
  split
  · exact keeps_resetWith s (atPowerOn_restarts s) s.freeNext true
  · exact keeps_start s (atPowerOn_restarts s)

theorem sysreset_makes (s : State) (asserted : Bool) : s.Makes (execSysreset asserted s) := by
  refine .next ?_
  split
  · exact keeps_asserted s
  · exact .ite fun _ => keeps_start s (takesAtReset_restarts s)

end Sys2Proof.Machine
end

section
/-! Every command keeps the six invariants and the queue, and with them every step. -/

namespace Sys2Proof.Machine

-- The default fields of a structure wait for every proof before them, so these proofs are elaborated in order.
set_option Elab.async false

/-- An event that does nothing where its condition fails. -/
theorem awake_makes_ite {s : State} {p : State → Prop} [∀ t, Decidable (p t)] {f : State → State}
    (h : p s → s.Keeps (f s)) : s.Makes (awake s fun t => if p t then f t else t) :=
  awake_makes fun _ => .ite h

theorem timeout_makes (s : State) (st : Station) : s.Makes (execMarkReaderTimeout st s) := by
  refine awake_makes fun _ => ?_
  split
  · exact .ite fun _ => (calm_removeReader s st).keeps
  · exact .refl s

theorem haltTimeout_makes (s : State) : s.Makes (execHaltTimeout s) := by
  refine awake_makes fun _ => ?_
  split
  · exact .ite fun _ => keeps_haltRunsOut s
  · exact .refl s

theorem linkCharacter_makes (s : State) (st : Station) (ch : LinkChar) : s.Makes (execLinkCharacter st ch s) := by
  have other : s.Keeps (s.otherChar st) := .ite fun _ => (calm_modLink s st _).keeps
  have cameUp : s.Keeps (s.linkCameUp st) := State.Calm.keeps {}
  refine awake_makes fun _ => ?_
  cases ch with
  | idle =>
    show s.Keeps (s.idleChar st)
    unfold State.idleChar
    split
    · exact (calm_modLink s st _).keeps
    · split
      · exact cameUp
      · exact (calm_modLink s st _).keeps
    · exact .refl s
    · exact .refl s
  | start => exact other
  | data b => exact other
  | codeError => exact other

theorem linkUp_makes (s : State) (st : Station) : s.Makes (execLinkUp st s) :=
  awake_makes_ite fun _ => State.Calm.keeps {}

theorem markInput_makes (s : State) : s.Makes (execMarkInput s) :=
  awake_makes fun _ => .ite fun _ => (calm_latchMark s _).keeps.trans (State.Calm.keeps {})

theorem staleMark_makes (s : State) (st : Station) : s.Makes (execStaleMark st s) :=
  awake_makes_ite fun _ => (State.Calm.trans (t := s.modStation st fun r => { r with lastMove := 20 }) {}
    (calm_markStale _ st)).keeps

theorem stationLost_makes (s : State) (st : Station) : s.Makes (execStationLost st s) :=
  awake_makes_ite fun _ => (State.Calm.keeps (t := s.modStation st fun r => { r with lastFrame := 250 }) {}).trans
    (keeps_stationDown _ st)

theorem ratePeriod_makes (s : State) : s.Makes (execRatePeriodComplete s) := awake_makes_ite fun _ => State.Calm.keeps {}

theorem presenceStateChange_makes (s : State) (c : Channel) (present : Bool) :
    s.Makes (execPresenceStateChange c present s) :=
  awake_makes fun _ => .ite fun _ => keeps_takeReading s c _

theorem presenceFault_makes (s : State) (c : Channel) : s.Makes (execPresenceFault c s) :=
  awake_makes_ite fun _ => (keeps_takeReading s c _).trans (keeps_raise _ _ (by norm_num) (by norm_num))

theorem chainSplitFault_makes (s : State) : s.Makes (execChainSplitFault s) :=
  awake_makes_ite fun _ => (State.Calm.keeps (t := { s with taken := { s.taken with chain := true } }) {}).trans
    (keeps_sampleChain _ _)

theorem saveTakeEnd_makes (s : State) : s.Makes (execSaveTakeEnd s) := by
  refine awake_makes fun _ => ?_
  split
  · exact .ite fun _ => keeps_endSave s _
  · exact .refl s

theorem saveConfigEnd_makes (s : State) (back : List Byte) : s.Makes (execSaveConfigEnd back s) := by
  refine awake_makes fun _ => ?_
  split
  · exact .ite fun _ => keeps_endConfig s _ back
  · exact .refl s

theorem sectorDone_makes (s : State) : s.Makes (execFlashSectorDone s) := by
  refine awake_makes fun _ => ?_
  split
  · exact keeps_sectorDone s _
  · exact .refl s

theorem loadTakeHeader_makes (s : State) : s.Makes (execLoadTakeHeader s) := by
  refine awake_makes fun _ => ?_
  split
  · rename_i load
    refine .ite fun _ => ?_
    split
    · exact keeps_failLoad (loadInFlight_slot load) _ _
    · exact State.Calm.keeps {}
  · exact .refl s

theorem loadTakeSample_makes (s : State) : s.Makes (execLoadTakeSample s) := by
  refine awake_makes fun _ => ?_
  split
  · rename_i load
    split
    · refine .ite fun _ => ?_
      split
      · exact keeps_failLoad (loadInFlight_slot load) _ _
      · exact keeps_storeLoaded (loadInFlight_slot load) _ _
    · exact .refl s
  · exact .refl s

theorem loadTakeEnd_makes (s : State) : s.Makes (execLoadTakeEnd s) := by
  refine awake_makes fun _ => ?_
  split
  · rename_i load
    split
    · exact keeps_failLoad (loadInFlight_slot load) _ _
    · split
      · split
        · exact .refl s
        · exact keeps_completeLoad (loadInFlight_slot load) _ _
      · exact .refl s
  · exact .refl s

theorem keeps_takeSync (s : State) (st : Station) (value : Time) : s.Keeps (s.takeSync st value) := by
  unfold State.takeSync
  exact .ite fun _ => State.Calm.keeps {}

theorem keeps_syncSetup (s : State) (a : SyncSetupArgs) : s.Keeps (s.syncSetupTaken a) := by
  unfold State.syncSetupTaken
  split
  · exact State.Calm.keeps {}
  · exact .refl s

theorem badFrame_makes (s : State) (st : Station) (chars : List LinkChar) : s.Makes (execBadFrame st chars s) :=
  awake_makes_ite fun _ => keeps_badFrame s st _

theorem unknownRequest_makes (s : State) (st : Station) (tag code : Byte) (payload : List Byte) :
    s.Makes (execUnknownRequest st tag code payload s) :=
  awake_makes fun awake => by
    split
    · exact .refl s
    · exact keeps_takeRequest (fun _ t _ => .refl t) awake st tag code payload

theorem testEnd_makes (s : State) (st : Station) (tag : Byte) (payload : List Byte) :
    s.Makes (execTestEnd st tag payload s) :=
  request_makes fun _ t _ => by
    unfold State.testEnd
    split
    · exact State.Calm.keeps {}
    · exact .refl t

/-- Every command comes to a state which keeps the six invariants and the queue. -/
theorem exec_makes (c : Instr) (s : State) : s.Makes (exec c s) := by
  cases c with
  | powerOn => exact powerOn_makes s
  | sysreset asserted => exact sysreset_makes s asserted
  | timebaseTick =>
    show s.Makes (execTimebaseTick s)
    exact awake_makes fun _ => State.Calm.keeps {}
  | update => exact awake_makes fun _ => keeps_updateOnce s
  | timedStart => exact keeps_timedStart s
  | wakeTimeout j => exact awake_makes fun _ => keeps_waitRunsOut s j _
  | parkTimeout j => exact awake_makes fun _ => keeps_waitRunsOut s j _
  | driveSilent j =>
    show s.Makes (execDriveSilent j s)
    exact awake_makes_ite fun _ => keeps_driveFaults s j _
  | haltTimeout => exact haltTimeout_makes s
  | staleMark st => exact staleMark_makes s st
  | stationLost st => exact stationLost_makes s st
  | markReaderTimeout st => exact timeout_makes s st
  | ratePeriodComplete => exact ratePeriod_makes s
  | driveReport bytes =>
    show s.Makes (execDriveReport bytes s)
    exact awake_makes fun _ => keeps_takeReport s bytes
  | presenceSample lineA lineB =>
    show s.Makes (execPresenceSample lineA lineB s)
    exact awake_makes fun _ => keeps_presenceSample s lineA lineB
  | presenceStateChange c present => exact presenceStateChange_makes s c present
  | presenceFault c => exact presenceFault_makes s c
  | chainSample aOpen bOpen pressed =>
    show s.Makes (execChainSample aOpen bOpen pressed s)
    exact awake_makes fun _ => keeps_chainSample s _ pressed
  | chainSplitFault => exact chainSplitFault_makes s
  | markInput => exact markInput_makes s
  | linkCharacter st ch => exact linkCharacter_makes s st ch
  | linkUp st => exact linkUp_makes s st
  | badFrame st chars => exact badFrame_makes s st chars
  | badRunLimit st =>
    show s.Makes (execBadRunLimit st s)
    exact awake_makes_ite fun _ => keeps_badFrame s st false
  | requestMore st tag code payload => exact awake_makes fun _ => keeps_takeMore s st tag code payload
  | unknownRequest st tag code payload => exact unknownRequest_makes s st tag code payload
  | replySend st =>
    show s.Makes (execReplySend st s)
    exact awake_makes_ite fun _ => (calm_modLink s st _).keeps
  | reportFrameSend st =>
    show s.Makes (execReportFrameSend st s)
    exact awake_makes_ite fun _ => (calm_modLink s st _).keeps
  | move st payload =>
    exact awake_makes fun _ => keeps_onStream s st payload _ _ (fun es t => keeps_takeMove t st es) fun _ t => .refl t
  | trim st payload =>
    exact awake_makes fun _ => keeps_onStream s st payload _ _ (fun es t => keeps_takeTrim t st es) fun _ t => .refl t
  | sync st payload =>
    exact awake_makes fun _ => keeps_onStream s st payload _ _ (fun v t => keeps_takeSync t st v) fun _ t => .refl t
  | test st payload =>
    exact awake_makes fun _ => keeps_onStream s st payload _ _ (fun _ t => .refl t) fun _ t => (calm_modLink t st _).keeps
  | claim st tag payload => exact request_makes fun a t _ => keeps_judged fun h => keeps_claim t st a.1 a.2 h
  | release st tag payload => exact request_makes fun w t _ => keeps_judged fun h => keeps_release t st w h
  | trimAttach st tag payload => exact request_makes fun n t _ => keeps_trimAttach t st n
  | trimDetach st tag payload => exact request_makes fun n t _ => keeps_trimDetach t st n
  | stationTable st tag payload => exact request_makes fun _ t _ => keeps_judged fun _ => State.Calm.keeps {}
  | loadLimits st tag payload => exact request_makes fun a t _ => keeps_judged fun h => keeps_loadLimits t st a.1 a.2 h
  | mapOpen st tag payload => exact request_makes fun a t _ => keeps_judged fun _ => keeps_mapOpen t st a.1 a.2
  | mapPoints st tag payload => exact request_makes fun a t _ => keeps_judged fun _ => keeps_mapPoints t a.1 a.2.1 a.2.2
  | loadMap st tag payload => exact request_makes fun n t _ => keeps_judged fun _ => keeps_loadMap t st n
  | enable st tag payload => exact request_makes fun w t _ => keeps_judged fun h => keeps_enable t st w h
  | park st tag payload => exact request_makes fun w t _ => keeps_judged fun h => keeps_park t st w h
  | clearFault st tag payload => exact request_makes fun w t _ => keeps_judged fun h => keeps_clearFault t st w h
  | presenceDebounce st tag payload => exact request_makes fun _ t _ => keeps_judged fun _ => State.Calm.keeps {}
  | zoneOpen st tag payload => exact request_makes fun _ t _ => keeps_judged fun _ => State.Calm.keeps {}
  | zoneRange st tag payload => exact request_makes fun _ t _ => keeps_judged fun _ => State.Calm.keeps {}
  | loadZone st tag payload => exact request_makes fun _ t _ => keeps_judged fun _ => keeps_loadZone t st
  | zoneEnable st tag payload =>
    exact request_makes fun a t _ => keeps_judged fun _ => keeps_zoneEnable t a.1 a.2.1 a.2.2
  | stopRequest st tag payload => exact request_makes fun n t _ => keeps_judged fun h => keeps_stopRequest t st n h
  | releaseStop st tag payload => exact request_makes fun _ t awake => keeps_judged fun _ => keeps_release_stop t awake
  | readStops st tag payload => exact request_makes fun _ t _ => .refl t
  | clearStops st tag payload => exact request_makes fun _ t _ => keeps_judged fun _ => keeps_clearStops t
  | syncSetup st tag payload => exact request_makes fun a t _ => keeps_judged fun _ => keeps_syncSetup t a
  | syncCountReset st tag payload => exact request_makes fun _ t _ => keeps_judged fun _ => State.Calm.keeps {}
  | mark st tag payload => exact request_makes fun _ t _ => (calm_latchMark t _).keeps
  | markRead st tag payload => exact request_makes fun n t _ => keeps_markRead t st n
  | markClear st tag payload => exact request_makes fun _ t _ => keeps_judged fun _ => State.Calm.keeps {}
  | record st tag payload =>
    exact request_makes fun a t _ => keeps_judged fun h => keeps_record t st a.1 a.2.1 a.2.2 h
  | recordStop st tag payload => exact request_makes fun _ t _ => keeps_judged fun _ => (calm_closeTake t _).keeps
  | delete st tag payload => exact request_makes fun n t _ => keeps_deleteTake t st n
  | protect st tag payload => exact request_makes fun a t _ => keeps_protectTake t st a.1 a.2
  | takeInfo st tag payload => exact request_makes fun _ t _ => .refl t
  | saveTake st tag payload => exact request_makes fun a t _ => keeps_saveTake t st a.1 a.2.1 a.2.2
  | saveTakeEnd => exact saveTakeEnd_makes s
  | loadTake st tag payload => exact request_makes fun a t _ => keeps_judged fun _ => (calm_loadTake t st a.1 a.2).keeps
  | loadTakeHeader => exact loadTakeHeader_makes s
  | loadTakeSample => exact loadTakeSample_makes s
  | loadTakeEnd => exact loadTakeEnd_makes s
  | flashSectorDone => exact sectorDone_makes s
  | cue st tag payload => exact request_makes fun a t _ => keeps_cue t st a.1 a.2.1 a.2.2
  | go st tag payload => exact request_makes fun _ t _ => keeps_judged fun _ => keeps_goTaken t
  | resume st tag payload => exact request_makes fun _ t _ => keeps_resume t st
  | stopPlay st tag payload => exact request_makes fun _ t _ => keeps_stopPlay t st
  | abandon st tag payload => exact request_makes fun _ t _ => keeps_abandon t st
  | playSetup st tag payload => exact request_makes fun _ t _ => keeps_judged fun _ => State.Calm.keeps {}
  | countersClear st tag payload => exact request_makes fun _ t _ => keeps_judged fun _ => State.Calm.keeps {}
  | saveConfig st tag payload => exact request_makes fun _ t _ => keeps_judged fun _ => State.Calm.keeps {}
  | saveConfigEnd back => exact saveConfigEnd_makes s back
  | testStart st tag payload => exact request_makes fun _ t _ => keeps_judged fun _ => (calm_modLink t st _).keeps
  | testEnd st tag payload => exact testEnd_makes s st tag payload

theorem exec_next (c : Instr) (s : State) : ∃ t, exec c s = .next t ∧ s.Keeps t := by
  have makes := exec_makes c s
  generalize exec c s = o at makes ⊢
  obtain ⟨keeps⟩ := makes
  exact ⟨_, rfl, keeps⟩

/-! ### Steps -/

/-- An invariant that every command keeps, whatever commands wait, is kept by every step. -/
theorem step_keeps {P : State → Prop} (waiting : ∀ s cs, P s → P (s.withPending cs))
    (keeps : ∀ s t, s.Keeps t → P s → P t) {s t : State} (h : P s) (hs : step s = .next t) : P t := by
  unfold step at hs
  split at hs
  · cases hs; exact h
  · rename_i c rest _
    obtain ⟨u, hu, k⟩ := exec_next c (s.withPending rest)
    rw [hu] at hs
    cases hs
    exact keeps _ _ k (waiting s rest h)

/-- Settles O3: every command is traced to a state that keeps the queue. -/
theorem everyCommandCompletes : Obligations.EveryCommandCompletes := fun c s =>
  let ⟨t, ht, k⟩ := exec_next c s
  ⟨t, ht, k.pending⟩

/-- Settles O6. -/
theorem stepKeepsCanonicalStores : Obligations.StepKeepsCanonicalStores := fun _ _ h hs =>
  step_keeps (P := State.CanonicalStores) (fun _ _ w => w) (fun _ _ k => k.stores) h hs

/-- Settles O7. -/
theorem stepKeepsCutWithTheLevel : Obligations.StepKeepsCutWithTheLevel := fun _ _ h hs =>
  step_keeps (P := State.CutFollowsLevel) (fun _ _ w => w) (fun _ _ k => k.cut) h hs

/-- Settles O8. -/
theorem stepKeepsRecordsInOrder : Obligations.StepKeepsRecordsInOrder := fun _ _ h hs =>
  step_keeps (P := State.RecordsInOrder) (fun _ _ w => w) (fun _ _ k => k.records) h hs

/-- Settles O9. -/
theorem stepKeepsDrivesAndChannels : Obligations.StepKeepsDrivesAndChannels := fun _ _ h hs =>
  step_keeps (P := State.DrivesAgree) (fun _ _ w => w) (fun _ _ k => k.drives) h hs

/-- Settles O10. -/
theorem stepKeepsEveryBlock : Obligations.StepKeepsEveryBlock := fun _ _ h hs =>
  step_keeps (P := State.BlocksKept) (fun _ _ w => w) (fun _ _ k => k.blocks) h hs

/-- Settles O11. -/
theorem stepKeepsModesWithTheTake : Obligations.StepKeepsModesWithTheTake := fun _ _ h hs =>
  step_keeps (P := State.StopsHoldTakes) (fun _ _ w => w) (fun _ _ k => k.modes) h hs

end Sys2Proof.Machine
end

section
/-! What a command may do to the counts that the invariant O12 bounds, and to the reply queues that O4 speaks of: two relations
between states, and the operations that several commands share. -/

namespace Sys2Proof.Machine

-- The default fields of a structure wait for every proof before them, so these proofs are elaborated in order.
set_option Elab.async false

/-- Every count that was within its range still is. -/
structure State.Ranges (s t : State) : Prop where
  links : (∀ st, (s.links.get st).inRange) → ∀ st, (t.links.get st).inRange := by exact fun h => h
  stations : (∀ st, (s.stations.get st).lastFrame ≤ 250 ∧ (s.stations.get st).lastMove ≤ 20) →
    ∀ st, (t.stations.get st).lastFrame ≤ 250 ∧ (t.stations.get st).lastMove ≤ 20 := by exact fun h => h
  presence : (∀ c, (s.zones.channels.get c).agree ≤ 50 ∧ (s.zones.channels.get c).split ≤ 21) →
    ∀ c, (t.zones.channels.get c).agree ≤ 50 ∧ (t.zones.channels.get c).split ≤ 21 := by exact fun h => h
  chain : s.stop.chainSplit ≤ 21 → t.stop.chainSplit ≤ 21 := by exact fun h => h
  halt : (∀ n, s.stop.haltTimer = some n → n ≤ 2000) → ∀ n, t.stop.haltTimer = some n → n ≤ 2000 := by exact fun h => h
  readers : (∀ st n, s.marks.readers.get st = some n → n ≤ 200) → ∀ st n, t.marks.readers.get st = some n → n ≤ 200 := by
    exact fun h => h
  count : s.marks.count ≤ 65535 → t.marks.count ≤ 65535 := by exact fun h => h
  lockout : s.marks.lockout ≤ 20 → t.marks.lockout ≤ 20 := by exact fun h => h
  missed : s.play.missedCue ≤ 65535 → t.play.missedCue ≤ 65535 := by exact fun h => h
  late : s.play.lateCue ≤ 65535 → t.play.lateCue ≤ 65535 := by exact fun h => h
  report : s.reportCount ≤ 9 → t.reportCount ≤ 9 := by exact fun h => h

/-- Every count stays within its range, and the reply queues are left alone. -/
structure State.Tame (s t : State) : Prop extends s.Ranges t where
  replies : ∀ o, (t.links.get o).replies = (s.links.get o).replies := by intro; rfl

theorem State.Ranges.countsInRange {s t : State} (h : s.Ranges t) : s.CountsInRange → t.CountsInRange :=
  fun ⟨a, b, c, d, e, f, g, i, j, k, l⟩ => ⟨h.links a, h.stations b, h.presence c, h.chain d, h.halt e, h.readers f,
    h.count g, h.lockout i, h.missed j, h.late k, h.report l⟩

theorem State.Ranges.trans {s t u : State} (h : s.Ranges t) (k : t.Ranges u) : s.Ranges u :=
  ⟨k.links ∘ h.links, k.stations ∘ h.stations, k.presence ∘ h.presence, k.chain ∘ h.chain, k.halt ∘ h.halt,
    k.readers ∘ h.readers, k.count ∘ h.count, k.lockout ∘ h.lockout, k.missed ∘ h.missed, k.late ∘ h.late,
    k.report ∘ h.report⟩

theorem State.Ranges.refl (s : State) : s.Ranges s := {}

theorem State.Tame.refl (s : State) : s.Tame s := {}

theorem State.Tame.trans {s t u : State} (h : s.Tame t) (k : t.Tame u) : s.Tame u :=
  ⟨h.toRanges.trans k.toRanges, fun o => (k.replies o).trans (h.replies o)⟩

/-- A fold keeps the ranges that each of its steps keeps. -/
theorem State.Ranges.fold {α : Type} {f : State → α → State} (l : List α) (h : ∀ (t : State) a, t.Ranges (f t a))
    (s : State) : s.Ranges (l.foldl f s) := by
  induction l generalizing s with
  | nil => exact .refl s
  | cons a l ih => exact (h s a).trans (ih _)

theorem State.Tame.fold {α : Type} {f : State → α → State} (l : List α) (h : ∀ (t : State) a, t.Tame (f t a))
    (s : State) : s.Tame (l.foldl f s) := by
  induction l generalizing s with
  | nil => exact .refl s
  | cons a l ih => exact (h s a).trans (ih _)

theorem State.Tame.ite {s t : State} {p : Prop} [Decidable p] (h : p → s.Tame t) : s.Tame (if p then t else s) := by
  split
  · exact h ‹_›
  · exact .refl s

theorem State.Ranges.ite {s t : State} {p : Prop} [Decidable p] (h : p → s.Ranges t) : s.Ranges (if p then t else s) := by
  split
  · exact h ‹_›
  · exact .refl s

/-! ### One link changed, and notices -/

theorem ranges_modLink {s : State} {st : Station} {f : Link → Link}
    (h : (s.links.get st).inRange → (f (s.links.get st)).inRange) : s.Ranges (s.modLink st f) where
  links w o := by
    rw [State.modLink_links, Tab.get_modify]
    split
    · exact h (w st)
    · exact w o

/-- A link changed in what neither its counts nor its reply queue show. -/
theorem tame_modLink {s : State} {st : Station} {f : Link → Link} (h : ∀ l : Link, l.inRange → (f l).inRange)
    (replies : ∀ l, (f l).replies = l.replies) : s.Tame (s.modLink st f) where
  toRanges := ranges_modLink (h _)
  replies o := by
    rw [State.modLink_links, Tab.get_modify]
    split
    · rename_i e; rw [e, replies]
    · rfl

theorem tame_post (s : State) (st : Station) (f : Notices → Notices) : s.Tame (s.post st f) := by
  unfold State.post
  split
  · exact tame_modLink (fun _ h => h) fun _ => rfl
  · exact .refl s

theorem tame_postAll (s : State) (f : Notices → Notices) : s.Tame (s.postAll f) where
  links w o := by
    simp only [State.postAll, Tab.get_map]
    split <;> exact w o
  replies o := postAll_replies s f o

theorem tame_modStation {s : State} {st : Station} {f : StationRec → StationRec}
    (h : ∀ r : StationRec, r.lastFrame ≤ 250 ∧ r.lastMove ≤ 20 → (f r).lastFrame ≤ 250 ∧ (f r).lastMove ≤ 20) :
    s.Tame (s.modStation st f) where
  stations w o := by
    rw [State.modStation_stations, Tab.get_modify]
    split
    · exact h _ (w st)
    · exact w o

/-! ### A stop raise and a judgement of the zones -/

theorem tame_closeTake (s : State) (r : CloseReason) : s.Tame (s.closeTake r) := by
  unfold State.closeTake
  split
  · exact .refl s
  · split
    · split
      · exact State.Tame.trans {} (tame_post _ _ _)
      · exact State.Tame.trans {} (tame_post _ _ _)
    · exact {}

theorem tame_takeRaise (s : State) (c : Cause) (l : Nat) : s.Tame (s.takeRaise c l) := by
  have raised : s.Tame { s with stop := s.stop.raised c l (s.stopRecord c l) } :=
    { halt := fun w n h => by
        simp only [StopController.raised, StopController.haltAfter] at h
        split at h
        · cases h; exact Nat.zero_le _
        · split at h
          · cases h
          · exact w n h }
  unfold State.takeRaise
  dsimp only
  split
  · exact raised.trans (tame_postAll _ _)
  · exact raised

theorem tame_dropTake (s : State) (h : Hold) : s.Tame (s.dropTake h) := {}

theorem tame_engineOnRaise (s : State) : s.Tame s.engineOnRaise := by
  unfold State.engineOnRaise
  split
  · exact .refl s
  · exact .refl s
  · exact (tame_dropTake s _).trans (tame_post _ _ _)
  · exact (tame_dropTake s _).trans (tame_post _ _ _)
  · exact {}

theorem tame_raiseOnce (s : State) (c : Cause) (l : Nat) : s.Tame (s.raiseOnce c l) := by
  have known : s.Tame (s.takeRaise c l).generatorOnRaise := (tame_takeRaise s c l).trans {}
  exact known.trans ((tame_engineOnRaise _).trans ((tame_closeTake _ .interrupted).trans {}))

theorem tame_modZone (s : State) (z : ZoneId) (f : Zone → Zone) : s.Tame (s.modZone z f) := by
  unfold State.modZone
  split <;> exact {}

theorem tame_raise (s : State) (c : Cause) (l : Nat) : s.Tame (s.raise c l) :=
  State.raise_keeps (P := s.Tame) c l (fun _ h => h.trans {}) (fun _ z _ h => h.trans (tame_modZone _ z _))
    (fun _ _ h => h.trans (tame_raiseOnce _ _ _)) (tame_raiseOnce s c l)

theorem tame_judgeZones (s : State) : s.Tame s.judgeZones :=
  State.judgeZones_keeps (P := s.Tame) (fun _ h => h.trans {}) (fun _ z _ h => h.trans (tame_modZone _ z _))
    (fun _ _ h => h.trans (tame_raiseOnce _ _ _)) (.refl s)

theorem tame_testZones (s : State) (zs : List ZoneId) : s.Tame (s.testZones State.raiseOccupied zs) :=
  State.testZones_keeps (P := s.Tame) zs (fun _ z _ h => h.trans (tame_modZone _ z _))
    (fun _ _ h => h.trans (tame_raise _ _ _)) (.refl s)

/-! ### Drives, marks and the loss of a station -/

theorem tame_driveTo (s : State) (j : Axis) (d : DriveState) (keep : Bool) : s.Tame (s.driveTo j d keep) := by
  have left : s.Tame (s.leaveActive j) := by
    unfold State.leaveActive
    refine .ite fun _ => ?_
    unfold State.closeIfRecorded
    split
    · split
      · exact State.Tame.trans {} (tame_closeTake _ _)
      · exact {}
    · exact {}
  exact left.trans {}

theorem tame_driveFaults (s : State) (j : Axis) (c : Cause) : s.Tame (s.driveFaults j c) :=
  (tame_driveTo s j _ _).trans (tame_raise _ _ _)

theorem tame_publishMark (s : State) : s.Tame s.publishMark := by
  unfold State.publishMark
  split
  · exact {}
  · exact State.Tame.trans {} (tame_postAll _ _)

theorem tame_setReader {s : State} {st : Station} {x : Option Nat} (h : ∀ n, x = some n → n ≤ 200) :
    s.Tame { s with marks := { s.marks with readers := s.marks.readers.set st x } } where
  readers w o n e := by
    rw [Tab.get_set] at e
    split at e
    · exact h n e
    · exact w o n e

theorem tame_removeReader (s : State) (st : Station) : s.Tame (s.removeReader st) := by
  have removed := tame_setReader (s := s) (st := st) (x := none) nofun
  unfold State.removeReader
  refine .ite fun _ => ?_
  dsimp only
  split
  · exact removed.trans (tame_publishMark _)
  · exact removed

theorem tame_latchMark (s : State) (m : MarkSource) : s.Tame (s.latchMark m) := by
  have latched (k : MarkLatch) (readers : k.readers = s.marks.readers) (lockout : k.lockout = s.marks.lockout)
      (count : k.count = min 65535 (s.marks.count + 1)) : s.Tame { s with marks := k } :=
    { readers := fun w o n e => w o n (by rw [← readers]; exact e), lockout := fun w => by rw [lockout]; exact w
      count := fun _ => by rw [count]; exact Nat.min_le_left _ _ }
  unfold State.latchMark
  dsimp only
  generalize Mark.mk _ _ _ _ _ _ = mark
  split
  · refine State.Tame.trans ?_ (tame_publishMark _)
    exact latched _ rfl rfl rfl
  · exact latched _ rfl rfl rfl

theorem goDown_inRange {l : Link} (h : l.inRange) : l.goDown.inRange := by
  obtain ⟨-, bad, crc, -, test, -⟩ := h
  exact ⟨Nat.zero_le _, bad, crc, Nat.zero_le _, test, nofun⟩

theorem ranges_stationDown (s : State) (st : Station) : s.Ranges (s.stationDown st) := by
  have down : s.Ranges (((s.modLink st Link.goDown).loseAuthority st).removeReader st) :=
    (ranges_modLink goDown_inRange).trans (State.Ranges.trans {} (tame_removeReader _ st).toRanges)
  unfold State.stationDown
  dsimp only
  split
  · exact down.trans (tame_raise _ _ _).toRanges
  · exact down

end Sys2Proof.Machine
end

section
/-! The parts of an update, the events and the frames keep the counts within their ranges (O12). -/

namespace Sys2Proof.Machine

-- The default fields of a structure wait for every proof before them, so these proofs are elaborated in order.
set_option Elab.async false

/-- A command that comes to a state in which every count that was within its range still is. -/
inductive State.Counts (s : State) : Host.Outcome State Fault Refusal → Prop
  | next {t : State} (ranges : s.Ranges t) : s.Counts (.next t)

theorem awake_counts {s : State} {f : State → State} (h : s.Ranges (f s)) : s.Counts (awake s f) := by
  cases hs : s.sysreset with
  | true => rw [awake_held f hs]; exact .next (.refl s)
  | false => rw [awake_next f hs]; exact .next h

/-! ### The update -/

theorem ranges_haltRunsOut (s : State) : s.Ranges s.haltRunsOut := by
  have idle : s.Tame { s with stop := { s.stop with haltTimer := none } } := { halt := fun _ _ h => nomatch h }
  unfold State.haltRunsOut
  split
  · exact (idle.trans (tame_raise _ _ _)).toRanges
  · exact idle.toRanges

theorem ranges_countHalt (s : State) : s.Ranges s.countHalt := by
  unfold State.countHalt
  split
  · exact .refl s
  · split
    · exact ranges_haltRunsOut s
    · exact { halt := fun _ n h => by cases h; omega }

theorem tame_failCue (s : State) (c : Cue) (why : CueFail) : s.Tame (s.failCue c why) :=
  (tame_dropTake s _).trans ((tame_post _ _ _).trans (tame_judgeZones _))

theorem tame_endPlay (s : State) (h : Hold) (why : PlayEnd) (elapsed : Option Nat) : s.Tame (s.endPlay h why elapsed) :=
  (tame_dropTake s _).trans ((tame_post _ _ _).trans (tame_judgeZones _))

theorem tame_judgeStart (s : State) : s.Tame s.judgeStart := by
  unfold State.judgeStart
  split
  · exact .ite fun _ => tame_failCue s _ _
  · refine .ite fun _ => ?_
    split
    · exact {}
    · exact tame_failCue s _ _
  all_goals exact .refl s

theorem tame_engineBegin (s : State) : s.Tame s.engineBegin := by
  unfold State.engineBegin
  split
  · split
    · exact .refl s
    · exact {}
  · split
    · exact {}
    · exact tame_judgeStart s
  · exact tame_judgeStart s
  all_goals exact .refl s

theorem ranges_beginUpdate (s : State) : s.Ranges s.beginUpdate :=
  (ranges_countHalt s).trans ((tame_engineBegin _).toRanges.trans {})

theorem ranges_generate (s : State) : s.Ranges s.generate := by
  have capped : s.Ranges (s.moveTrims.supplyTargets.takeCaps s.moveTrims.supplyTargets.reaches) := {}
  have raised (t : State) (cs : List Cause) : t.Ranges (t.raiseSteps cs) :=
    .fold cs (fun u c => (tame_raise u c 1).toRanges) t
  exact capped.trans ((raised _ _).trans {})

theorem ranges_countMove (s : State) (st : Station) : s.Ranges (s.countMove st) := by
  have counted : s.Tame (s.modStation st fun r => { r with lastMove := min 20 (r.lastMove + 1) }) :=
    tame_modStation fun r h => ⟨h.1, Nat.min_le_left _ _⟩
  unfold State.countMove
  refine .ite fun _ => ?_
  dsimp only
  split
  · exact counted.toRanges.trans {}
  · exact counted.toRanges

theorem ranges_countFrame (s : State) (st : Station) : s.Ranges (s.countFrame st) := by
  have counted : s.Tame (s.modStation st fun r => { r with lastFrame := min 250 (r.lastFrame + 1) }) :=
    tame_modStation fun r h => ⟨Nat.min_le_left _ _, h.2⟩
  unfold State.countFrame
  refine .ite fun _ => ?_
  dsimp only
  split
  · exact counted.toRanges.trans (ranges_stationDown _ st)
  · exact counted.toRanges

theorem ranges_countReader (s : State) (st : Station) : s.Ranges (s.countReader st) := by
  unfold State.countReader
  split
  · exact .refl s
  · split
    · exact (tame_removeReader s st).toRanges
    · exact (tame_setReader fun n h => by cases h; omega).toRanges

theorem ranges_countPeriod (s : State) : s.Ranges s.countPeriod := by
  unfold State.countPeriod
  split <;> exact {}

theorem ranges_countMarks (s : State) : s.Ranges s.countMarks := by
  have counted : s.Ranges s.countLockout := { lockout := fun h => (Nat.sub_le _ _).trans h }
  exact counted.trans (.fold allStations ranges_countReader s.countLockout)

theorem ranges_countUpdate (s : State) : s.Ranges s.countUpdate :=
  (State.Ranges.fold allStations ranges_countMove s).trans ((State.Ranges.fold allStations ranges_countFrame _).trans
    ((ranges_countMarks _).trans (ranges_countPeriod _)))

theorem ranges_standstillTest (s : State) : s.Ranges s.standstillTest := by
  have stop (x) : (s.stop.standstill x).chainSplit = s.stop.chainSplit ∧ (s.stop.standstill x).haltTimer = s.stop.haltTimer := by
    unfold StopController.standstill
    split <;> exact ⟨rfl, rfl⟩
  unfold State.standstillTest
  exact .ite fun _ => { chain := fun h => by rw [(stop _).1]; exact h, halt := fun w n h => w n ((stop _).2 ▸ h) }

theorem ranges_portWork (s : State) : s.Ranges s.portWork := by
  have silence (t : State) (j : Axis) : t.Ranges (t.judgeSilence j) := by
    unfold State.judgeSilence
    split
    · exact (tame_driveFaults t j _).toRanges
    · exact .ite fun _ => {}
  have wait (t : State) (j : Axis) : t.Ranges (t.countWait j) := by
    unfold State.countWait
    split
    · exact .refl t
    · split
      · exact (tame_driveFaults t j _).toRanges
      · exact {}
  have halt (t : State) : t.Ranges t.haltPoint := by
    unfold State.haltPoint
    exact .ite fun _ => .fold _ (fun u j => .ite fun _ => (tame_driveTo u j _ _).toRanges) t
  exact (State.Ranges.fold allAxes silence s).trans ((State.Ranges.fold allAxes wait _).trans (halt _))

theorem ranges_recordUpdate (s : State) : s.Ranges s.recordUpdate := by
  unfold State.recordUpdate
  split
  · exact .refl s
  · split
    · exact {}
    · unfold State.storeSample
      split
      · exact (tame_closeTake s _).toRanges
      · exact {}

theorem ranges_judgeArrival (s : State) : s.Ranges s.judgeArrival := by
  unfold State.judgeArrival
  split
  · exact .ite fun _ => {}
  · split
    · exact .refl s
    · exact {}
  all_goals exact .refl s

theorem ranges_judgeEnd (s : State) : s.Ranges s.judgeEnd := by
  unfold State.judgeEnd
  split
  · exact .ite fun _ => State.Ranges.trans {} (tame_endPlay _ _ _ _).toRanges
  all_goals exact .refl s

theorem ranges_handOff (s : State) : s.Ranges s.handOff := by
  have sent (t : State) : t.Ranges t.sendFrame := {}
  exact (ranges_standstillTest s).trans ((ranges_portWork _).trans ((sent _).trans ((tame_testZones _ _).toRanges.trans
    ((ranges_recordUpdate _).trans ((ranges_judgeArrival _).trans (ranges_judgeEnd _))))))

theorem ranges_countReport (s : State) : s.Ranges s.countReport := by
  unfold State.countReport
  split
  · exact {
      links := fun w st => by
        simp only [State.buildReports, Tab.get_imap]
        split
        · exact w st
        · exact w st
      report := fun _ => Nat.zero_le 9 }
  · exact { report := fun h => by show s.reportCount + 1 ≤ 9; omega }

theorem ranges_updateOnce (s : State) : s.Ranges s.updateOnce :=
  (ranges_beginUpdate s).trans ((ranges_generate _).trans ((ranges_countUpdate _).trans ((ranges_handOff _).trans
    (ranges_countReport _))))

/-! ### Presence channels and the chain -/

theorem filtered_inRange {p : Presence} (debounce : Nat) (r : Reading) (h : p.agree ≤ 50 ∧ p.split ≤ 21) :
    (p.filtered debounce r).agree ≤ 50 ∧ (p.filtered debounce r).split ≤ 21 := by
  have next : p.agreeNext r ≤ 50 := by
    unfold Presence.agreeNext
    split <;> omega
  unfold Presence.filtered
  split
  · exact ⟨Nat.zero_le _, Nat.min_le_left _ _⟩
  · split
    · exact ⟨next, Nat.zero_le _⟩
    · exact ⟨next, h.2⟩

theorem ranges_presenceSample (s : State) (lineA lineB : ChannelSet) : s.Ranges (s.presenceSample lineA lineB) := by
  have filtered : s.Ranges (s.filterChannels lineA lineB) := by
    refine { presence := fun w c => ?_ }
    simp only [State.filterChannels, Tab.get_imap]
    split
    · exact w c
    · exact filtered_inRange _ _ (w c)
  exact filtered.trans ((tame_judgeZones _).toRanges.trans (.fold _ (fun t c => (tame_raise t _ 1).toRanges) _))

theorem ranges_takeReading (s : State) (c : Channel) (r : Reading) : s.Ranges (s.takeReading c r) := by
  have taken : s.Ranges { s with
      zones := { s.zones with channels := s.zones.channels.modify c fun p => p.filtered s.zones.debounce r }
      taken := { s.taken with presence := s.taken.presence.set c true } } := by
    refine { presence := fun w o => ?_ }
    dsimp only
    rw [Tab.get_modify]
    split
    · exact filtered_inRange _ _ (w c)
    · exact w o
  exact taken.trans (tame_judgeZones _).toRanges

theorem ranges_sampleChain (s : State) (r : ChainReading) : s.Ranges (s.sampleChain r) := by
  have judged : s.Ranges { s with stop := s.stop.judgeChain r } := by
    refine { chain := fun _ => ?_ }
    show (if r = .split then min 21 (s.stop.chainSplit + 1) else 0) ≤ 21
    split <;> omega
  unfold State.sampleChain
  split
  · exact judged.trans (tame_raise _ _ _).toRanges
  · exact judged

theorem ranges_chainSample (s : State) (r : ChainReading) (pressed : Bool) : s.Ranges (s.chainSample r pressed) := by
  have freed : s.Ranges { s with taken := { s.taken with chain := false } } := {}
  unfold State.chainSample
  dsimp only
  split
  · exact {}
  · exact freed.trans ((ranges_sampleChain _ r).trans {})

/-! ### Frames and characters -/

theorem ranges_badFrame (s : State) (st : Station) (isTest : Bool) : s.Ranges (s.badFrame st isTest) := by
  have counted : s.Ranges (s.modLink st fun l =>
      { l with
        crcErrors := min 65535 (l.crcErrors + 1)
        badRun := min 32 (l.badRun + 1)
        test := if l.state = .test ∧ isTest then { l.test with previous := none } else l.test }) :=
    ranges_modLink fun ⟨idle, _, _, replies, test, lost⟩ =>
      ⟨idle, Nat.min_le_left _ _, Nat.min_le_left _ _, replies, by dsimp only; split <;> exact test, lost⟩
  unfold State.badFrame
  refine .ite fun _ => ?_
  dsimp only
  split
  · exact counted.trans (ranges_stationDown _ st)
  · exact counted

theorem tame_heard (s : State) (st : Station) : s.Tame (s.heard st) :=
  State.Tame.trans (t := s.modLink st fun l => { l with badRun := 0 })
    (tame_modLink (fun _ ⟨idle, _, rest⟩ => ⟨idle, Nat.zero_le _, rest⟩) fun _ => rfl)
    (tame_modStation fun _ h => ⟨Nat.zero_le _, h.2⟩)

theorem ranges_onFrame (s : State) (st : Station) (payload : List Byte) {f : State → State}
    (h : (s.heard st).Ranges (f (s.heard st))) : s.Ranges (s.onFrame st payload f) := by
  unfold State.onFrame
  refine .ite fun _ => ?_
  split
  · exact (tame_heard s st).toRanges.trans h
  · exact ranges_badFrame s st false

theorem ranges_onStream {α : Type} (s : State) (st : Station) (payload : List Byte) (decode : List Byte → Option α)
    (isTest : Bool) {inUp inTest : α → State → State} (up : ∀ a (t : State), t.Ranges (inUp a t))
    (test : ∀ a (t : State), t.Ranges (inTest a t)) : s.Ranges (s.onStream st payload decode isTest inUp inTest) := by
  unfold State.onStream
  refine .ite fun _ => ?_
  split
  · split
    · split
      · exact (tame_heard s st).toRanges.trans (up _ _)
      · exact (tame_heard s st).toRanges.trans (test _ _)
    · exact ranges_badFrame s st isTest
  · exact ranges_badFrame s st isTest

theorem ranges_linkCameUp (s : State) (st : Station) : s.Ranges (s.linkCameUp st) :=
  (ranges_modLink fun ⟨_, _, crc, _, test, _⟩ => ⟨Nat.le_refl 16, Nat.zero_le _, crc, Nat.zero_le _, test, nofun⟩).trans
    (tame_modStation fun _ _ => ⟨Nat.zero_le _, Nat.zero_le _⟩).toRanges

theorem ranges_idleChar (s : State) (st : Station) : s.Ranges (s.idleChar st) := by
  unfold State.idleChar
  split
  · exact ranges_modLink fun h => ⟨by norm_num, h.2⟩
  · split
    · exact ranges_linkCameUp s st
    · exact ranges_modLink fun h => ⟨by dsimp only; omega, h.2⟩
  · exact .refl s
  · exact .refl s

theorem ranges_otherChar (s : State) (st : Station) : s.Ranges (s.otherChar st) :=
  .ite fun _ => ranges_modLink fun h => ⟨Nat.zero_le _, h.2⟩

/-! ### Replies -/

/-- A reply placed in a queue that has room. -/
theorem ranges_addReply {s : State} {st : Station} (room : (s.links.get st).replies.length < 8) (tag code : Byte)
    (a : Answer) : s.Ranges (s.addReply st tag code a) :=
  ranges_modLink fun ⟨idle, bad, crc, _, rest⟩ => ⟨idle, bad, crc, by simp; omega, rest⟩

theorem room_of_not_full {l : Link} (h : ¬ l.isFull = true) : l.replies.length < 8 := by
  unfold Link.isFull maxReplies at h
  simp only [Bool.or_eq_true, decide_eq_true_eq, not_or, not_le] at h
  exact h.1

theorem ranges_countOverrun (s : State) (st : Station) (tag code : Byte) : s.Ranges (s.countOverrun st tag code) :=
  ranges_modLink fun ⟨idle, bad, crc, replies, test, lost⟩ => ⟨idle, bad, crc, replies, test, fun o h => by
    dsimp only at h
    split at h
    · cases h; exact ⟨Nat.le_refl 1, by norm_num⟩
    · rename_i q hq
      cases h
      obtain ⟨low, high⟩ := lost q hq
      dsimp only
      omega⟩

theorem tame_clearAssembly (s : State) (st : Station) : s.Tame (s.clearAssembly st) :=
  tame_modLink (fun _ h => h) fun _ => rfl

theorem ranges_endHeld (s : State) (st : Station) (h : Held) : s.Ranges (s.endHeld st h) := by
  unfold State.endHeld
  split
  · exact (tame_clearAssembly s st).toRanges.trans (ranges_countOverrun _ st _ _)
  · rename_i room
    refine (tame_clearAssembly s st).toRanges.trans (ranges_addReply ?_ _ _ _)
    rw [(tame_clearAssembly s st).replies]
    exact room_of_not_full room

theorem ranges_submit {serve : List Byte → State → State × Answer} (h : ∀ bytes (t : State), t.Tame (serve bytes t).1)
    (s : State) (st : Station) (tag code : Byte) (bytes : List Byte) : s.Ranges (s.submit st tag code bytes serve) := by
  unfold State.submit
  split
  · exact ranges_countOverrun s st tag code
  · rename_i room
    split
    · exact ranges_addReply (room_of_not_full room) _ _ _
    · exact (h bytes s).toRanges.trans (ranges_addReply (by rw [(h bytes s).replies]; exact room_of_not_full room) _ _ _)

theorem ranges_takeRequest {serve : List Byte → State → State × Answer} (h : ∀ bytes (t : State), t.Tame (serve bytes t).1)
    (s : State) (st : Station) (tag code : Byte) (payload : List Byte) :
    s.Ranges (s.takeRequest st tag code payload serve) := by
  refine ranges_onFrame s st payload ?_
  split
  · exact ranges_submit h _ st tag code payload
  · split
    · exact (tame_clearAssembly _ st).toRanges.trans (ranges_submit h _ st tag code _)
    · exact (ranges_endHeld _ st _).trans (ranges_submit h _ st tag code payload)

theorem ranges_takeMore (s : State) (st : Station) (tag code : Byte) (payload : List Byte) :
    s.Ranges (s.takeMore st tag code payload) := by
  have hold (t : State) : t.Ranges (t.modLink st fun l => { l with assembly := some ⟨tag, code, payload⟩ }) :=
    ranges_modLink fun h => h
  refine ranges_onFrame s st payload ?_
  split
  · exact hold _
  · exact (ranges_endHeld _ st _).trans (hold _)

theorem sendReply_inRange {l : Link} (h : l.inRange) : l.sendReply.inRange := by
  obtain ⟨idle, bad, crc, replies, test, lost⟩ := h
  unfold Link.sendReply
  split
  · rename_i r rest e
    rw [e] at replies
    exact ⟨idle, bad, crc, by simp at replies ⊢; omega, test, lost⟩
  · split
    · exact ⟨idle, bad, crc, replies, test, nofun⟩
    · exact ⟨idle, bad, crc, replies, test, lost⟩

theorem sendReport_inRange {l : Link} (h : l.inRange) : l.sendReport.inRange := by
  unfold Link.sendReport
  split
  · split
    · exact h
    · exact h
  · exact h

end Sys2Proof.Machine
end

section
/-! Every request leaves the reply queues to its answer, a refused one other than CUE leaves everything (O4), and every
command keeps the counts within their ranges (O12). -/

namespace Sys2Proof.Machine

-- The default fields of a structure wait for every proof before them, so these proofs are elaborated in order.
set_option Elab.async false

/-- What the rule of a request does: counts stay within their ranges, reply queues are left alone, and where the answer is a
refusal nothing changes, unless the rule is one that may count its refusals. -/
structure State.Serving (counting : Bool) (s : State) (x : State × Answer) : Prop where
  tame : s.Tame x.1
  refused : counting = false → x.2.result ≠ .ok → x.1 = s

theorem serving_same {s : State} {a : Answer} {b : Bool} : s.Serving b (s, a) := ⟨.refl s, fun _ _ => rfl⟩

theorem serving_ok {s t : State} {detail : List Byte} {b : Bool} (h : s.Tame t) : s.Serving b (t, ⟨.ok, detail⟩) :=
  ⟨h, fun _ ne => absurd rfl ne⟩

theorem serving_judged {verdict : Option Answer} {s taken : State} {detail : List Byte} {b : Bool} (h : s.Tame taken) :
    s.Serving b (judged verdict s taken detail) := by
  cases verdict with
  | none => exact serving_ok h
  | some a => exact serving_same

/-! ### The rules of the requests -/

theorem tame_claimTaken (s : State) (st : Station) (axes : AxisSet) : s.Tame (s.claimTaken st axes) := by
  have given : s.Tame (s.giveAxes st axes) :=
    State.Tame.trans (t := s.modStation st fun r => { r with lastMove := 0 }) (tame_modStation fun _ h => ⟨h.1, Nat.zero_le _⟩) {}
  exact given.trans (.fold _ (fun t o => .ite fun _ => tame_post t o _) _)

theorem serving_trimAttach (s : State) (st : Station) (n : Nat) : s.Serving false (s.trimAttach st n) := by
  unfold State.trimAttach
  split
  · exact serving_same
  · split
    · split
      · exact serving_same
      · split
        · split <;> exact serving_same
        · exact serving_ok {}
    · exact serving_same

theorem serving_trimDetach (s : State) (st : Station) (n : Nat) : s.Serving false (s.trimDetach st n) := by
  unfold State.trimDetach
  split
  · split
    · exact serving_same
    · split
      · exact serving_ok {}
      · exact serving_same
  · exact serving_same

theorem tame_stationTable (s : State) (a : Tab 4 (Nat × Rights)) : s.Tame (s.stationTableTaken a) where
  stations w st := by
    simp only [State.stationTableTaken, Tab.get_imap]
    exact w st

theorem tame_setLimits (s : State) (n : Nat) (r : Limits) : s.Tame (s.loadLimitsTaken n r) := by
  unfold State.loadLimitsTaken
  split
  · unfold State.setLimits
    split <;> exact {}
  · exact {}

theorem tame_mapOpen (s : State) (st : Station) (n count : Nat) : s.Tame (s.mapOpenTaken st n count) := by
  unfold State.mapOpenTaken
  split <;> exact {}

theorem tame_mapPoints (s : State) (n first : Nat) (ps : List (Nat × Int)) : s.Tame (s.mapPointsTaken n first ps) := by
  unfold State.mapPointsTaken
  split <;> exact {}

theorem tame_loadMap (s : State) (st : Station) (n : Nat) : s.Tame (s.loadMapTaken st n) := by
  unfold State.loadMapTaken
  split
  · split
    · split
      · exact {}
      · exact {}
    · exact {}
  · exact {}

theorem tame_parkTaken (s : State) (w : BitVec 16) : s.Tame (s.parkTaken w) :=
  .fold _ (fun t j => tame_driveTo t j _ _) s

theorem tame_loadZone (s : State) (st : Station) : s.Tame (s.loadZoneTaken st) := by
  unfold State.loadZoneTaken
  split
  · exact {}
  · exact (tame_modZone s _ _).trans (State.Tame.trans {} (tame_judgeZones _))

theorem tame_zoneEnable (s : State) (table index : Nat) (v : Bool) : s.Tame (s.zoneEnableTaken table index v) := by
  unfold State.zoneEnableTaken
  split
  · exact {}
  · exact (tame_modZone s _ _).trans (tame_judgeZones _)

theorem tame_releaseStop (s : State) : s.Tame s.releaseStopTaken where
  halt _ _ h := nomatch h

theorem tame_syncSetup (s : State) (a : SyncSetupArgs) : s.Tame (s.syncSetupTaken a) := by
  unfold State.syncSetupTaken
  split <;> exact {}

theorem serving_markRead (s : State) (st : Station) (part : Nat) : s.Serving false (s.markRead st part) := by
  have opened : s.Tame (s.openReader st) := tame_setReader fun n h => by cases h; exact Nat.zero_le _
  unfold State.markRead
  split
  · exact serving_same
  · split
    · split
      · exact serving_same
      · exact serving_ok opened
    · split
      · split
        · exact serving_ok opened
        · exact serving_ok (tame_removeReader s st)
      · exact serving_same

theorem tame_recordTaken (s : State) (st : Station) (axes : AxisSet) (n : Nat) (label : Tab 8 Byte) :
    s.Tame (s.recordTaken st axes n label) := by
  unfold State.recordTaken
  split <;> exact {}

theorem serving_deleteTake (s : State) (st : Station) (n : Nat) : s.Serving false (s.deleteTake st n) := by
  unfold State.deleteTake
  split; · exact serving_same
  split; · exact serving_same
  split
  · exact serving_same
  · exact serving_same
  · exact serving_same
  · split; · exact serving_same
    split; · exact serving_same
    split; · exact serving_same
    exact serving_ok {}

theorem serving_protectTake (s : State) (st : Station) (n : Nat) (v : Bool) : s.Serving false (s.protectTake st n v) := by
  unfold State.protectTake
  split; · exact serving_same
  split; · exact serving_same
  split
  · exact serving_same
  · exact serving_same
  · exact serving_ok {}
  · exact serving_ok {}

theorem serving_saveTake (s : State) (st : Station) (n first last : Nat) :
    s.Serving false (s.saveTake st n first last) := by
  unfold State.saveTake
  split; · exact serving_same
  split; · exact serving_same
  split; · exact serving_same
  split; · exact serving_same
  split
  · exact serving_same
  · exact serving_same
  · exact serving_same
  · exact serving_ok {}

theorem tame_loadTake (s : State) (st : Station) (first last : Nat) : s.Tame (s.loadTakeTaken st first last) := by
  unfold State.loadTakeTaken
  split <;> exact {}

theorem tame_seek (s : State) (e : EngineState) (axes : AxisSet) :
    s.Tame (((s.setEngine e).setModes axes .seek).supplyTargets.judgeZones) :=
  State.Tame.trans (t := ((s.setEngine e).setModes axes .seek).supplyTargets) {} (tame_judgeZones _)

/-- A CUE may be counted as missed or late (R185). -/
theorem serving_cue (s : State) (st : Station) (n : Nat) (start : Option Time) (ignore : Bool) :
    s.Serving true (s.cue st n start ignore) := by
  have counted {t : State} {a : Answer} (h : s.Tame t) : s.Serving true (t, a) := ⟨h, nofun⟩
  unfold State.cue
  split; · exact serving_same
  split; · exact serving_same
  split; · exact counted { missed := fun _ => Nat.min_le_left _ _ }
  split; · exact serving_same
  split
  · exact serving_same
  · exact serving_same
  · exact serving_same
  · unfold State.cueClosed
    split; · exact serving_same
    split; · exact serving_same
    split; · exact serving_same
    split; · exact serving_same
    split; · exact counted { late := fun _ => Nat.min_le_left _ _ }
    split; · exact serving_same
    exact serving_ok (tame_seek s _ _)

theorem tame_goTaken (s : State) : s.Tame s.goTaken := by
  unfold State.goTaken
  split <;> exact {}

theorem serving_resume (s : State) (st : Station) : s.Serving false (s.resume st) := by
  unfold State.resume
  split; · exact serving_same
  split
  · split; · exact serving_same
    split; · exact serving_same
    split; · exact serving_same
    exact serving_ok (tame_seek s _ _)
  all_goals exact serving_same

theorem serving_stopPlay (s : State) (st : Station) : s.Serving false (s.stopPlay st) := by
  unfold State.stopPlay
  split; · exact serving_same
  split
  · exact serving_same
  all_goals exact serving_ok (tame_endPlay s _ _ _)

theorem serving_abandon (s : State) (st : Station) : s.Serving false (s.abandon st) := by
  unfold State.abandon
  split; · exact serving_same
  split
  · exact serving_ok (tame_endPlay s _ _ _)
  all_goals exact serving_same

theorem tame_countersClear (s : State) : s.Tame s.countersClearTaken where
  links w st := by
    simp only [State.countersClearTaken, Tab.get_map]
    obtain ⟨idle, bad, -, rest⟩ := w st
    exact ⟨idle, bad, Nat.zero_le _, rest⟩
  missed _ := Nat.zero_le _
  late _ := Nat.zero_le _
  replies o := by simp only [State.countersClearTaken, Tab.get_map]

theorem tame_testStart (s : State) (st : Station) : s.Tame (s.testStartTaken st) :=
  tame_modLink (fun _ ⟨idle, bad, crc, replies, _, lost⟩ => ⟨idle, bad, crc, replies, Nat.zero_le _, lost⟩) fun _ => rfl

theorem serving_testEnd (s : State) (st : Station) : s.Serving false (s.testEnd st) := by
  unfold State.testEnd
  split
  · have up : s.Tame (s.modLink st fun l => { l with state := .up }) := tame_modLink (fun _ h => h) fun _ => rfl
    exact serving_ok (up.trans (tame_modStation fun _ _ => ⟨Nat.zero_le _, Nat.zero_le _⟩))
  · exact serving_same

/-! ### Every request of the catalogue -/

/-- A request of the catalogue, with the decoder and the rule it is run by. -/
inductive RequestRule (c : Instr) (st : Station) (tag code : Byte) (p : List Byte) : Prop
  | mk {α : Type} (decode : List Byte → Option α) (serve : α → State → State × Answer)
      (exec : ∀ s, exec c s = request st tag code p decode serve s)
      (serving : ∀ a (t : State), t.Serving (decide (code = 34)) (serve a t))

theorem rule_of_request {c : Instr} {st : Station} {tag code : Byte} {p : List Byte}
    (h : c.request? = some (st, tag, code, p)) : RequestRule c st tag code p := by
  cases c <;> cases h
  case claim => exact ⟨_, _, fun _ => rfl, fun a t => serving_judged (tame_claimTaken t st _)⟩
  case release => exact ⟨_, _, fun _ => rfl, fun a t => serving_judged {}⟩
  case trimAttach => exact ⟨_, _, fun _ => rfl, fun n t => serving_trimAttach t st n⟩
  case trimDetach => exact ⟨_, _, fun _ => rfl, fun n t => serving_trimDetach t st n⟩
  case stationTable => exact ⟨_, _, fun _ => rfl, fun a t => serving_judged (tame_stationTable t a)⟩
  case loadLimits => exact ⟨_, _, fun _ => rfl, fun a t => serving_judged (tame_setLimits t _ _)⟩
  case mapOpen => exact ⟨_, _, fun _ => rfl, fun a t => serving_judged (tame_mapOpen t st _ _)⟩
  case mapPoints => exact ⟨_, _, fun _ => rfl, fun a t => serving_judged (tame_mapPoints t _ _ _)⟩
  case loadMap => exact ⟨_, _, fun _ => rfl, fun n t => serving_judged (tame_loadMap t st n)⟩
  case enable => exact ⟨_, _, fun _ => rfl, fun w t => serving_judged {}⟩
  case park => exact ⟨_, _, fun _ => rfl, fun w t => serving_judged (tame_parkTaken t w)⟩
  case clearFault => exact ⟨_, _, fun _ => rfl, fun w t => serving_judged {}⟩
  case presenceDebounce => exact ⟨_, _, fun _ => rfl, fun n t => serving_judged {}⟩
  case zoneOpen => exact ⟨_, _, fun _ => rfl, fun a t => serving_judged {}⟩
  case zoneRange => exact ⟨_, _, fun _ => rfl, fun a t => serving_judged {}⟩
  case loadZone => exact ⟨_, _, fun _ => rfl, fun _ t => serving_judged (tame_loadZone t st)⟩
  case zoneEnable => exact ⟨_, _, fun _ => rfl, fun a t => serving_judged (tame_zoneEnable t _ _ _)⟩
  case stopRequest => exact ⟨_, _, fun _ => rfl, fun n t => serving_judged (tame_raise t _ n)⟩
  case releaseStop => exact ⟨_, _, fun _ => rfl, fun _ t => serving_judged (tame_releaseStop t)⟩
  case readStops => exact ⟨_, _, fun _ => rfl, fun a t => serving_same⟩
  case clearStops => exact ⟨_, _, fun _ => rfl, fun _ t => serving_judged {}⟩
  case syncSetup => exact ⟨_, _, fun _ => rfl, fun a t => serving_judged (tame_syncSetup t a)⟩
  case syncCountReset => exact ⟨_, _, fun _ => rfl, fun _ t => serving_judged {}⟩
  case mark => exact ⟨_, _, fun _ => rfl, fun _ t => serving_ok (tame_latchMark t _)⟩
  case markRead => exact ⟨_, _, fun _ => rfl, fun n t => serving_markRead t st n⟩
  case markClear => exact ⟨_, _, fun _ => rfl, fun _ t => serving_judged { count := fun _ => Nat.zero_le _ }⟩
  case record => exact ⟨_, _, fun _ => rfl, fun a t => serving_judged (tame_recordTaken t st _ _ _)⟩
  case recordStop => exact ⟨_, _, fun _ => rfl, fun _ t => serving_judged (tame_closeTake t _)⟩
  case delete => exact ⟨_, _, fun _ => rfl, fun n t => serving_deleteTake t st n⟩
  case protect => exact ⟨_, _, fun _ => rfl, fun a t => serving_protectTake t st _ _⟩
  case takeInfo => exact ⟨_, _, fun _ => rfl, fun a t => serving_same⟩
  case saveTake => exact ⟨_, _, fun _ => rfl, fun a t => serving_saveTake t st _ _ _⟩
  case loadTake => exact ⟨_, _, fun _ => rfl, fun a t => serving_judged (tame_loadTake t st _ _)⟩
  case cue => exact ⟨_, _, fun _ => rfl, fun a t => serving_cue t st _ _ _⟩
  case go => exact ⟨_, _, fun _ => rfl, fun _ t => serving_judged (tame_goTaken t)⟩
  case resume => exact ⟨_, _, fun _ => rfl, fun _ t => serving_resume t st⟩
  case stopPlay => exact ⟨_, _, fun _ => rfl, fun _ t => serving_stopPlay t st⟩
  case abandon => exact ⟨_, _, fun _ => rfl, fun _ t => serving_abandon t st⟩
  case playSetup => exact ⟨_, _, fun _ => rfl, fun a t => serving_judged {}⟩
  case countersClear => exact ⟨_, _, fun _ => rfl, fun _ t => serving_judged (tame_countersClear t)⟩
  case saveConfig => exact ⟨_, _, fun _ => rfl, fun _ t => serving_judged {}⟩
  case testStart => exact ⟨_, _, fun _ => rfl, fun _ t => serving_judged (tame_testStart t st)⟩
  case testEnd => exact ⟨_, _, fun _ => rfl, fun _ t => serving_testEnd t st⟩

/-- Settles O4: the answer is the one that the rule gives, or BAD_ARG where the arguments do not decode. -/
theorem everyRequestIsAnsweredOnce : Obligations.EveryRequestIsAnsweredOnce := by
  intro c s st tag code p hc served
  obtain ⟨decode, serve, run, serving⟩ := rule_of_request hc
  have queued (t : State) (same : ∀ o, (t.links.get o).replies = (s.links.get o).replies) (r : Reply) :
      ((t.withReply st r).links.get st).replies = (s.links.get st).replies ++ [r] ∧
        ∀ o, o ≠ st → ((t.withReply st r).links.get o).replies = (s.links.get o).replies := by
    refine ⟨by rw [State.withReply_links, Tab.get_modify_same, ← same], fun o ne => ?_⟩
    rw [State.withReply_links, Tab.get_modify_other _ _ ne, same]
  rw [run]
  cases decodes : decode p with
  | none =>
    obtain ⟨mine, others⟩ := queued (s.afterFrame st) (tame_heard s st).replies ⟨tag, code, .badArg, []⟩
    exact ⟨_, .badArg, [], request_malformed served decodes, mine, others, fun _ _ => rfl⟩
  | some a =>
    have rule := serving a (s.afterFrame st)
    obtain ⟨mine, others⟩ := queued _ (fun o => (rule.tame.replies o).trans ((tame_heard s st).replies o))
      ⟨tag, code, (serve a (s.afterFrame st)).2.result, (serve a (s.afterFrame st)).2.detail⟩
    refine ⟨_, _, _, request_serves served decodes, mine, others, fun refused other => ?_⟩
    rw [rule.refused (by simpa using other) refused]
    rfl

/-! ### Every command -/

theorem request_counts {c : Instr} {st : Station} {tag code : Byte} {p : List Byte}
    (h : c.request? = some (st, tag, code, p)) (s : State) : s.Counts (exec c s) := by
  obtain ⟨decode, serve, run, serving⟩ := rule_of_request h
  rw [run]
  refine awake_counts (ranges_takeRequest (fun bytes t => ?_) s st tag code p)
  unfold serveArgs
  split
  · exact (serving _ t).tame
  · exact .refl t

theorem timedStart_counts (s : State) : s.Counts (execTimedStart s) := by
  refine awake_counts ?_
  dsimp only
  split
  · exact (tame_judgeStart s).toRanges.trans {}
  · exact (tame_judgeStart s).toRanges

theorem ranges_waitRunsOut (s : State) (j : Axis) (d : DriveState) : s.Ranges (s.waitRunsOut j d) := by
  unfold State.waitRunsOut
  refine .ite fun _ => ?_
  split
  · exact .ite fun _ => (tame_driveFaults s j _).toRanges
  · exact .refl s

theorem haltTimeout_counts (s : State) : s.Counts (execHaltTimeout s) := by
  refine awake_counts ?_
  split
  · exact .ite fun _ => ranges_haltRunsOut s
  · exact .refl s

theorem staleMark_counts (s : State) (st : Station) : s.Counts (execStaleMark st s) := by
  have counted : s.Tame (s.modStation st fun r => { r with lastMove := 20 }) :=
    tame_modStation fun _ h => ⟨h.1, Nat.le_refl 20⟩
  exact awake_counts (.ite fun _ => counted.toRanges.trans {})

theorem stationLost_counts (s : State) (st : Station) : s.Counts (execStationLost st s) := by
  have counted : s.Tame (s.modStation st fun r => { r with lastFrame := 250 }) :=
    tame_modStation fun _ h => ⟨Nat.le_refl 250, h.2⟩
  exact awake_counts (.ite fun _ => counted.toRanges.trans (ranges_stationDown _ st))

theorem readerTimeout_counts (s : State) (st : Station) : s.Counts (execMarkReaderTimeout st s) := by
  refine awake_counts ?_
  split
  · exact .ite fun _ => (tame_removeReader s st).toRanges
  · exact .refl s

theorem ranges_takeReport (s : State) (bs : List Byte) : s.Ranges (s.takeReport bs) := by
  have compared (t : State) (j : Axis) (pos : Int) : t.Tame (t.compareReport j pos) := by
    unfold State.compareReport
    split
    · refine .ite fun _ => ?_
      split
      · split
        · exact .refl t
        · exact State.Tame.trans {} (tame_raise _ _ _)
      · exact {}
    · exact .refl t
  have woken (t : State) (j : Axis) (pos : Int) : t.Tame (t.wakeDrive j pos) := by
    unfold State.wakeDrive
    dsimp only
    split
    · exact State.Tame.trans {} (tame_testZones _ _)
    · exact {}
  have acted (t : State) (j : Axis) (d : DriveState) (code : ReportCode) (pos : Int) : t.Tame (t.reportActs j d code pos) := by
    unfold State.reportActs
    split
    · exact woken t j pos
    · exact tame_driveFaults t j _
    · exact tame_driveFaults t j _
    · exact tame_driveFaults t j _
    · exact tame_driveFaults t j _
    · exact tame_driveTo t j _ _
    · exact tame_driveFaults t j _
    · exact tame_driveFaults t j _
    · exact .refl t
  unfold State.takeReport
  split
  · exact .refl s
  · split
    · exact .refl s
    · have recorded (j : Axis) (code : ReportCode) (pos : Int) : s.Tame (s.recordReport j code pos) := {}
      exact ((recorded _ _ _).trans ((compared _ _ _).trans (acted _ _ _ _ _))).toRanges

theorem markInput_counts (s : State) : s.Counts (execMarkInput s) :=
  awake_counts (.ite fun _ => (tame_latchMark s _).toRanges.trans { lockout := fun _ => Nat.le_refl 20 })

theorem linkCharacter_counts (s : State) (st : Station) (ch : LinkChar) : s.Counts (execLinkCharacter st ch s) := by
  refine awake_counts ?_
  cases ch with
  | idle => exact ranges_idleChar s st
  | start => exact ranges_otherChar s st
  | data b => exact ranges_otherChar s st
  | codeError => exact ranges_otherChar s st

theorem ranges_takeMove (s : State) (st : Station) (es : List (Axis × Command)) : s.Ranges (s.takeMove st es) := by
  have counted : s.Tame (s.modStation st fun r => { r with lastMove := 0 }) :=
    tame_modStation fun _ h => ⟨h.1, Nat.zero_le _⟩
  have fresh : s.Ranges (s.freshen st) := counted.toRanges.trans {}
  refine fresh.trans (.fold es (fun t e => ?_) _)
  unfold State.applyEntry
  exact .ite fun _ => {}

theorem ranges_takeTrim (s : State) (st : Station) (es : List (Nat × Int)) : s.Ranges (s.takeTrim st es) := by
  refine .fold es (fun t e => ?_) s
  unfold State.applyTrim
  split
  · refine .ite fun _ => ?_
    split
    · exact {}
    · exact .refl t
  · exact .refl t

theorem ranges_takeTest (s : State) (st : Station) (ws : List (BitVec 16)) : s.Ranges (s.takeTest st ws) := by
  refine ranges_modLink fun ⟨idle, bad, crc, replies, test, lost⟩ => ⟨idle, bad, crc, replies, ?_, lost⟩
  dsimp only
  generalize (s.links.get st).test = x at test ⊢
  induction ws generalizing x with
  | nil => exact test
  | cons w ws ih =>
    refine ih _ ?_
    unfold TestState.judge
    split
    · exact Nat.min_le_left _ _
    · split
      · exact test
      · split
        · exact test
        · exact Nat.min_le_left _ _

theorem saveTakeEnd_counts (s : State) : s.Counts (execSaveTakeEnd s) := by
  refine awake_counts ?_
  split
  · exact .ite fun _ => State.Ranges.trans {} (tame_post _ _ _).toRanges
  · exact .refl s

theorem tame_failLoad (s : State) (op : FlashOp) (i : TakeNo) (blocks : List Nat) (why : FlashFail) :
    s.Tame (s.failLoad op i blocks why) := State.Tame.trans {} (tame_post _ _ _)

theorem loadTakeHeader_counts (s : State) : s.Counts (execLoadTakeHeader s) := by
  refine awake_counts ?_
  split
  · refine .ite fun _ => ?_
    split
    · exact (tame_failLoad s _ _ _ _).toRanges
    · exact {}
  · exact .refl s

theorem loadTakeSample_counts (s : State) : s.Counts (execLoadTakeSample s) := by
  refine awake_counts ?_
  split
  · split
    · refine .ite fun _ => ?_
      split
      · exact (tame_failLoad s _ _ _ _).toRanges
      · unfold State.storeLoaded
        split <;> exact {}
    · exact .refl s
  · exact .refl s

theorem loadTakeEnd_counts (s : State) : s.Counts (execLoadTakeEnd s) := by
  refine awake_counts ?_
  split
  · split
    · exact (tame_failLoad s _ _ _ _).toRanges
    · split
      · split
        · exact .refl s
        · exact State.Ranges.trans {} (tame_post _ _ _).toRanges
      · exact .refl s
  · exact .refl s

theorem sectorDone_counts (s : State) : s.Counts (execFlashSectorDone s) := by
  refine awake_counts ?_
  split
  · unfold State.sectorDone
    split
    · exact .ite fun _ => {}
    · exact .ite fun _ => {}
    · exact .ite fun _ => {}
  · exact .refl s

theorem saveConfigEnd_counts (s : State) (back : List Byte) : s.Counts (execSaveConfigEnd back s) := by
  refine awake_counts ?_
  split
  · refine .ite fun _ => ?_
    unfold State.endConfig
    split <;> exact State.Ranges.trans {} (tame_post _ _ _).toRanges
  · exact .refl s

/-! ### The start -/

/-- The counts of the reset state are 0 or absent. -/
theorem ranges_resetWith (s : State) (flash : List Host.Cell) (ts : TakeStore) (n : Nat) (cs : List Instr) (held : Bool) :
    s.Ranges { State.reset with flash := flash, takes := ts, freeCount := n, pending := cs, sysreset := held } := by
  have link (st : Station) : State.reset.links.get st = Link.atReset := Tab.get_const ..
  have channel (c : Channel) : State.reset.zones.channels.get c = Presence.atReset := Tab.get_const ..
  have reader (st : Station) : State.reset.marks.readers.get st = none := Tab.get_const ..
  exact {
    links := fun _ st => by
      dsimp only
      rw [link]
      exact ⟨Nat.zero_le _, Nat.zero_le _, Nat.zero_le _, Nat.zero_le _, Nat.zero_le _, nofun⟩
    stations := fun _ => (by decide : ∀ st, (StationRec.defaults.get st).lastFrame ≤ 250 ∧
      (StationRec.defaults.get st).lastMove ≤ 20)
    presence := fun _ c => by
      dsimp only
      rw [channel]
      exact ⟨Nat.zero_le _, Nat.zero_le _⟩
    chain := fun _ => Nat.zero_le _
    halt := fun _ _ h => nomatch h
    readers := fun _ st n h => by rw [reader] at h; cases h
    count := fun _ => Nat.zero_le _
    lockout := fun _ => Nat.zero_le _
    missed := fun _ => Nat.zero_le _
    late := fun _ => Nat.zero_le _
    report := fun _ => Nat.zero_le _ }

theorem ranges_start (s : State) (ts : TakeStore) : s.Ranges (s.start ts) := by
  have reset := ranges_resetWith s s.flashAtStart ts s.freeNext s.pending false
  unfold State.start
  dsimp only
  split
  · exact reset
  · rename_i c _
    have restored (t : State) : t.Ranges (t.restored c) := {
      stations := fun _ st => by
        simp only [State.restored, Tab.get_map]
        exact ⟨Nat.zero_le _, Nat.zero_le _⟩ }
    exact reset.trans ((restored _).trans (tame_judgeZones _).toRanges)

theorem powerOn_counts (s : State) : s.Counts (execPowerOn s) := by
  refine .next ?_
  split
  · exact ranges_resetWith s _ _ _ _ _
  · exact ranges_start s _

theorem sysreset_counts (s : State) (asserted : Bool) : s.Counts (execSysreset asserted s) := by
  refine .next ?_
  split
  · exact {}
  · exact .ite fun _ => ranges_start s _

theorem ranges_takeSync (s : State) (st : Station) (value : Time) : s.Ranges (s.takeSync st value) := by
  unfold State.takeSync
  exact .ite fun _ => {}

theorem unknownRequest_counts (s : State) (st : Station) (tag code : Byte) (p : List Byte) :
    s.Counts (execUnknownRequest st tag code p s) := by
  refine awake_counts ?_
  split
  · exact .refl s
  · exact ranges_takeRequest (fun _ t => .refl t) s st tag code p

/-- A command that is no request of the catalogue. -/
theorem event_counts {c : Instr} (h : c.request? = none) (s : State) : s.Counts (exec c s) := by
  cases c
  case powerOn => exact powerOn_counts s
  case sysreset asserted => exact sysreset_counts s asserted
  case timebaseTick =>
    show s.Counts (execTimebaseTick s)
    exact awake_counts {}
  case update => exact awake_counts (ranges_updateOnce s)
  case timedStart => exact timedStart_counts s
  case wakeTimeout j => exact awake_counts (ranges_waitRunsOut s j _)
  case parkTimeout j => exact awake_counts (ranges_waitRunsOut s j _)
  case driveSilent j => exact awake_counts (.ite fun _ => (tame_driveFaults s j _).toRanges)
  case haltTimeout => exact haltTimeout_counts s
  case staleMark st => exact staleMark_counts s st
  case stationLost st => exact stationLost_counts s st
  case markReaderTimeout st => exact readerTimeout_counts s st
  case ratePeriodComplete => exact awake_counts (.ite fun _ => {})
  case driveReport bytes =>
    show s.Counts (execDriveReport bytes s)
    exact awake_counts (ranges_takeReport s bytes)
  case presenceSample lineA lineB =>
    show s.Counts (execPresenceSample lineA lineB s)
    exact awake_counts (ranges_presenceSample s lineA lineB)
  case presenceStateChange c present => exact awake_counts (.ite fun _ => ranges_takeReading s c _)
  case presenceFault c => exact awake_counts (.ite fun _ => (ranges_takeReading s c _).trans (tame_raise _ _ _).toRanges)
  case chainSample a b pressed =>
    show s.Counts (execChainSample a b pressed s)
    exact awake_counts (ranges_chainSample s _ pressed)
  case chainSplitFault => exact awake_counts (.ite fun _ => State.Ranges.trans {} (ranges_sampleChain _ _))
  case markInput => exact markInput_counts s
  case linkCharacter st ch => exact linkCharacter_counts s st ch
  case linkUp st => exact awake_counts (.ite fun _ => ranges_linkCameUp s st)
  case badFrame st chars => exact awake_counts (.ite fun _ => ranges_badFrame s st _)
  case badRunLimit st => exact awake_counts (.ite fun _ => ranges_badFrame s st _)
  case requestMore st tag code p => exact awake_counts (ranges_takeMore s st tag code p)
  case unknownRequest st tag code p => exact unknownRequest_counts s st tag code p
  case replySend st => exact awake_counts (.ite fun _ => ranges_modLink sendReply_inRange)
  case reportFrameSend st => exact awake_counts (.ite fun _ => ranges_modLink sendReport_inRange)
  case move st p =>
    exact awake_counts (ranges_onStream s st p _ _ (fun es t => ranges_takeMove t st es) fun _ t => .refl t)
  case trim st p =>
    exact awake_counts (ranges_onStream s st p _ _ (fun es t => ranges_takeTrim t st es) fun _ t => .refl t)
  case sync st p =>
    exact awake_counts (ranges_onStream s st p _ _ (fun v t => ranges_takeSync t st v) fun _ t => .refl t)
  case test st p =>
    exact awake_counts (ranges_onStream s st p _ _ (fun _ t => .refl t) fun ws t => ranges_takeTest t st ws)
  case saveTakeEnd => exact saveTakeEnd_counts s
  case loadTakeHeader => exact loadTakeHeader_counts s
  case loadTakeSample => exact loadTakeSample_counts s
  case loadTakeEnd => exact loadTakeEnd_counts s
  case flashSectorDone => exact sectorDone_counts s
  case saveConfigEnd back => exact saveConfigEnd_counts s back
  all_goals cases h

theorem exec_counts (c : Instr) (s : State) : s.Counts (exec c s) := by
  cases h : c.request? with
  | some r => exact request_counts h s
  | none => exact event_counts h s

/-- Settles O12. -/
theorem stepKeepsCountsInRange : Obligations.StepKeepsCountsInRange := by
  intro s t h hs
  unfold step at hs
  split at hs
  · cases hs; exact h
  · rename_i c rest _
    have counts := exec_counts c (s.withPending rest)
    rw [hs] at counts
    obtain ⟨ranges⟩ := counts
    exact ranges.countsInRange h

end Sys2Proof.Machine
end

section
/-! Steps and requests in general (O1, O2, O5, O26, O36): the front command, the part held in reset, the state after a
start, the timebase's own events, and the requests that reach no rule. -/

namespace Sys2Proof.Machine

/-! ### The front command and the part held in reset -/

/-- Settles O1: both cases are the equations of `step`. -/
theorem stepTakesTheFrontCommand : Obligations.StepTakesTheFrontCommand :=
  ⟨fun c s rest front => by rw [step, front], fun s empty => by rw [step, empty]⟩

/-- A request of the catalogue is a command of a part that is awake. -/
theorem exec_request_held {c : Instr} {st : Station} {tag code : Byte} {p : List Byte} {s : State}
    (request : c.request? = some (st, tag, code, p)) (held : s.sysreset = true) : exec c s = .next s := by
  obtain ⟨decode, serve, run, -⟩ := rule_of_request request
  exact (run s).trans (awake_held _ held)

/-- Settles O2: every command but a start runs only while the part is awake. -/
theorem heldInResetNothingHappens : Obligations.HeldInResetNothingHappens := by
  intro c s held noPowerOn noReset
  cases request : c.request? with
  | some r => exact exec_request_held request held
  | none =>
    cases c
    case powerOn => exact absurd rfl noPowerOn
    case sysreset b => exact absurd rfl (noReset b)
    all_goals simp only [exec, execTimebaseTick, execUpdate, execTimedStart, execWakeTimeout, execParkTimeout,
      execDriveSilent, execHaltTimeout, execStaleMark, execStationLost, execMarkReaderTimeout, execRatePeriodComplete,
      execDriveReport, execPresenceSample, execPresenceStateChange, execPresenceFault, execChainSample,
      execChainSplitFault, execMarkInput, execLinkCharacter, execLinkUp, execBadFrame, execBadRunLimit, execRequestMore,
      execUnknownRequest, execReplySend, execReportFrameSend, execMove, execTrim, execSync, execTest, execSaveTakeEnd,
      execLoadTakeHeader, execLoadTakeSample, execLoadTakeEnd, execFlashSectorDone, execSaveConfigEnd, awake_held _ held]
    all_goals cases request

/-! ### The state after the start that follows power-on -/

theorem reset_drivesAgree : State.reset.DrivesAgree := by
  refine (drivesAgree_iff _).mpr fun j => ?_
  have channel : State.reset.channels.get j = AxisChannel.unset := Tab.get_const ..
  have drive : State.reset.driveState j = .off := congrArg Drive.state (Tab.get_const ..)
  unfold State.AxisFits
  rw [channel, drive]
  exact ⟨by decide, nofun, ⟨fun _ => rfl, fun _ => rfl⟩, nofun, fun _ => rfl⟩

theorem reset_blocksKept : State.reset.BlocksKept := by
  have empty : State.reset.takes.slots.list.flatMap TakeSlot.blocks = [] :=
    List.flatMap_eq_nil_iff.mpr fun k mem => by rw [List.eq_of_mem_replicate mem]; rfl
  have free : State.reset.takes.freeList = List.range 8192 := by
    dsimp only [State.reset, TakeStore.atPowerOn]
  unfold State.BlocksKept
  rw [empty, List.append_nil, free]

theorem reset_stopsHoldTakes : State.reset.StopsHoldTakes := by
  have entry (j : Axis) : State.reset.auth.get j = AuthEntry.idle := Tab.get_const ..
  have slot (i : TakeNo) : State.reset.takes.slots.get i = .empty := Tab.get_const ..
  refine ⟨fun j => ?_, fun j => ?_, fun i => ?_, fun _ => ⟨.inl rfl, rfl⟩⟩
  · show (State.reset.auth.get j).mode.underTake = false
    rw [entry]; rfl
  · show (State.reset.auth.get j).mode = .idle ↔ _
    rw [entry]; exact ⟨fun _ => rfl, fun _ => rfl⟩
  · rw [slot]; exact ⟨nofun, fun ⟨_, recorder, _⟩ => nomatch recorder⟩

theorem reset_countsInRange : State.reset.CountsInRange := by
  refine ⟨fun st => ?_, by decide, fun c => ?_, Nat.zero_le _, nofun, fun st n open? => ?_, Nat.zero_le _, Nat.zero_le _,
    Nat.zero_le _, Nat.zero_le _, Nat.zero_le _⟩
  · rw [show State.reset.links.get st = Link.atReset from Tab.get_const ..]
    exact ⟨Nat.zero_le _, Nat.zero_le _, Nat.zero_le _, Nat.zero_le _, Nat.zero_le _, nofun⟩
  · rw [show State.reset.zones.channels.get c = Presence.atReset from Tab.get_const ..]
    exact ⟨Nat.zero_le _, Nat.zero_le _⟩
  · rw [show State.reset.marks.readers.get st = none from Tab.get_const ..] at open?
    cases open?

/-- Settles O5: each invariant is read off the values of the reset state. -/
theorem resetMeetsTheInvariants : Obligations.ResetMeetsTheInvariants :=
  ⟨⟨by decide, by decide⟩, ⟨le_rfl, ⟨fun _ => .inl rfl, fun _ => rfl⟩, ⟨fun _ => by decide, fun _ => rfl⟩⟩,
    ⟨by decide, by decide, by decide, by decide, trivial⟩, reset_drivesAgree, reset_blocksKept, reset_stopsHoldTakes,
    reset_countsInRange⟩

/-! ### Ticks and rate periods (R127, R132) -/

/-- Settles O26: a period that is due, in RATE and not taken yet, is completed. -/
theorem ticksAndRatePeriodsAreCounted : Obligations.TicksAndRatePeriodsAreCounted := by
  intro s running
  refine ⟨?tick, fun notTaken rate due => ?period⟩
  case tick =>
    show execTimebaseTick s = _
    rw [execTimebaseTick, awake_next _ running]
  case period =>
    have periodDue : s.time.periodDue = true := by simp [TimebaseUnit.periodDue, rate, due]
    show execRatePeriodComplete s = _
    rw [execRatePeriodComplete, awake_next _ running, if_pos ⟨notTaken, periodDue⟩]
    rfl

/-! ### Requests that reach no rule (R190, R191) -/

/-- A request of a known or an unknown code, refused in TEST. -/
theorem request_in_test {α : Type} {s : State} {st : Station} {tag code : Byte} {payload : List Byte}
    {decode : List Byte → Option α} {serve : α → State → State × Answer} (running : s.sysreset = false)
    (test : s.linkState st = .test) (short : payload.length ≤ 24) (free : (s.links.get st).assembly = none)
    (room : (s.links.get st).replies.length < 8) (noOverrun : (s.links.get st).overrun = none) (other : code ≠ 43) :
    request st tag code payload decode serve s = .next (s.answered st tag code .state []) :=
  (awake_next _ running).trans (congrArg _ (takeRequest_test test short free room noOverrun other))

theorem knownCode_of_out {code : Byte} (out : code = 0 ∨ 43 < code.toNat) : knownCode code = false := by
  rcases out with rfl | above
  · rfl
  · simp [knownCode, above]

/-- An unknown code reaches the frame, and the rule that answers UNKNOWN. -/
theorem exec_unknownRequest {s : State} {st : Station} {tag code : Byte} {p : List Byte} (running : s.sysreset = false)
    (out : code = 0 ∨ 43 < code.toNat) : exec (.unknownRequest st tag code p) s =
      .next (s.takeRequest st tag code p fun _ u => (u, ⟨.unknown, []⟩)) := by
  show execUnknownRequest st tag code p s = _
  rw [execUnknownRequest, awake_next _ running, if_neg (by simp [knownCode_of_out out])]

section Hears

variable {s : State} {st : Station} {p : List Byte}

/-- A frame that is heard is acted on in the state after it. -/
theorem onFrame_hears (h : s.Hears st p) (f : State → State) : s.onFrame st p f = f (s.afterFrame st) := by
  obtain ⟨-, up, short⟩ := h
  simp [State.onFrame, up, maxPayload, short]

theorem afterFrame_link (s : State) (st : Station) :
    (s.afterFrame st).links.get st = { s.links.get st with badRun := 0 } := Tab.get_modify_same ..

theorem afterFrame_assembly (s : State) (st : Station) :
    ((s.afterFrame st).links.get st).assembly = (s.links.get st).assembly := by rw [afterFrame_link]

theorem afterFrame_isFull (s : State) (st : Station) :
    ((s.afterFrame st).links.get st).isFull = (s.links.get st).isFull := by rw [afterFrame_link]; rfl

/-- A request that finds no room is only counted. -/
theorem submit_full {tag code : Byte} {serve : List Byte → State → State × Answer}
    (full : (s.links.get st).isFull = true) : s.submit st tag code p serve = s.countOverrun st tag code := if_pos full

/-- A request that is not held, on a link that is full. -/
theorem exec_claim_full {tag : Byte} (h : s.Hears st p) (free : (s.links.get st).assembly = none)
    (full : (s.links.get st).isFull = true) :
    exec (.claim st tag p) s = .next ((s.afterFrame st).countOverrun st tag 1) := by
  show execClaim st tag p s = _
  rw [execClaim, request, awake_next _ h.1, State.takeRequest, onFrame_hears h, afterFrame_assembly, free]
  dsimp only
  rw [submit_full (by rwa [afterFrame_isFull])]

/-- A frame of a request that is not complete is taken in the state after it. -/
theorem exec_requestMore_hears {tag code : Byte} (h : s.Hears st p) :
    exec (.requestMore st tag code p) s = .next ((match (s.links.get st).assembly with
      | none => s.afterFrame st
      | some b => (s.afterFrame st).endHeld st b).modLink st fun l => { l with assembly := some ⟨tag, code, p⟩ }) := by
  show execRequestMore st tag code p s = _
  rw [execRequestMore, awake_next _ h.1, State.takeMore, onFrame_hears h, afterFrame_assembly]
  cases (s.links.get st).assembly <;> rfl

end Hears

/-- An overrun record counted on after a frame. -/
theorem countOverrun_afterFrame {s : State} {st : Station} {tag code : Byte} {o : Option Overrun} {n : Overrun}
    (before : (s.links.get st).overrun = o)
    (after : n = match o with
      | none => ⟨tag, code, 1⟩
      | some o => { o with count := min 255 (o.count + 1) }) :
    (s.afterFrame st).countOverrun st tag code = { s.afterFrame st with
      links := s.links.modify st fun l => { l with badRun := 0, overrun := some n } } := by
  simp only [State.countOverrun, State.modLink, State.afterFrame_links, Tab.modify_modify]
  congr 1
  unfold Tab.modify
  dsimp only
  rw [before, after]
  cases o <;> rfl

/-- Settles O36: each case is one branch of the frame's taking, before the rule of the request. -/
theorem requestsThatReachNoRule : Obligations.RequestsThatReachNoRule := by
  refine ⟨fun s st tag code p h => ⟨fun free => ?held, fun b held room noOverrun => ?ended, fun served out => ?unknown,
    fun served bad => request_malformed served bad, fun free full noOverrun => ?counted, fun o free overrun => ?countedOn⟩,
    fun c s st tag code p running test short free room noOverrun kinds => ?inTest⟩
  case held =>
    rw [exec_requestMore_hears h, free]
    simp [State.modLink, State.afterFrame]
  case ended =>
    have notFull : ((s.afterFrame st).links.get st).isFull = false := by
      rw [afterFrame_isFull]
      simp [Link.isFull, noOverrun, maxReplies, Nat.not_le.mpr room]
    rw [exec_requestMore_hears h, held]
    dsimp only
    rw [State.endHeld, notFull]
    simp [State.modLink, State.afterFrame, State.clearAssembly, State.withReply]
  case unknown =>
    rw [exec_unknownRequest h.1 out]
    obtain ⟨hears, free, room, noOverrun⟩ := served
    have up : (s.links.get st).state = .up := h.2.1
    rw [State.takeRequest, onFrame_hears hears, afterFrame_assembly, free]
    simp [State.submit, Link.isFull, noOverrun, maxReplies, Nat.not_le.mpr room, up, State.answered]
  case counted =>
    rw [exec_claim_full h free (by simp [Link.isFull, maxReplies, full])]
    rw [countOverrun_afterFrame noOverrun rfl]
  case countedOn =>
    rw [exec_claim_full h free (by simp [Link.isFull, overrun]), countOverrun_afterFrame overrun rfl]
  case inTest =>
    rcases kinds with ⟨catalogue, other⟩ | ⟨rfl, out⟩
    · obtain ⟨decode, serve, run, -⟩ := rule_of_request catalogue
      exact (run s).trans (request_in_test running test short free room noOverrun other)
    · rw [exec_unknownRequest running out, takeRequest_test test short free room noOverrun]
      rintro rfl
      rcases out with zero | above
      · exact absurd zero (by decide)
      · exact absurd above (by decide)

end Sys2Proof.Machine
end

section
/-! Links, and requests that only answer (O34, O37, O41, O51): alignment, replies before reports, the link test, and what a
request leaves whose rule gives a state and an answer. -/

namespace Sys2Proof.Machine

/-! ### Alignment (R188) -/

section Alignment

variable {s : State} {st : Station}

theorem exec_idle (running : s.sysreset = false) : exec (.linkCharacter st .idle) s = .next (s.idleChar st) := by
  show execLinkCharacter st .idle s = _
  rw [execLinkCharacter, awake_next _ running]

theorem idleChar_down (down : s.linkState st = .down) :
    s.idleChar st = s.modLink st fun l => { l with state := .aligning, idleRun := 1 } := by
  rw [State.idleChar, down]

theorem idleChar_aligning (aligning : s.linkState st = .aligning) :
    s.idleChar st = if 16 ≤ (s.links.get st).idleRun + 1 then s.linkCameUp st
      else s.modLink st fun l => { l with idleRun := l.idleRun + 1 } := by
  rw [State.idleChar, aligning]

end Alignment

/-- Settles O34: an IDLE character counts on a DOWN and on an ALIGNING link, and any other starts the run afresh. -/
theorem alignmentBringsALinkUp : Obligations.AlignmentBringsALinkUp := by
  intro s st running
  refine ⟨fun down => ?_, fun aligning short => ?_, fun aligning ch other => ?_, fun aligning long c which => ?_⟩
  · rw [exec_idle running, idleChar_down down]
    rfl
  · rw [exec_idle running, idleChar_aligning aligning, if_neg (by omega)]
    rfl
  · have fresh : s.otherChar st = s.modLink st fun l => { l with idleRun := 0 } := if_pos aligning
    show execLinkCharacter st ch s = _
    rw [execLinkCharacter, awake_next _ running]
    rcases other with rfl | rfl
    · exact congrArg _ fresh
    · exact congrArg _ fresh
  · rcases which with rfl | rfl
    · rw [exec_idle running, idleChar_aligning aligning, if_pos (by omega)]
      rfl
    · show execLinkUp st s = _
      rw [execLinkUp, awake_next _ running, if_pos ⟨aligning, by omega⟩]
      rfl

/-! ### Replies before reports (R187, R191, R195) -/

section Sending

variable {s : State} {st : Station}

theorem exec_replySend (running : s.sysreset = false) (up : s.linkState st = .up) :
    exec (.replySend st) s = .next (s.modLink st Link.sendReply) := by
  show execReplySend st s = _
  rw [execReplySend, awake_next _ running, if_pos (.inl up)]

theorem exec_reportFrameSend (running : s.sysreset = false) (up : s.linkState st = .up) :
    exec (.reportFrameSend st) s = .next (s.modLink st Link.sendReport) := by
  show execReportFrameSend st s = _
  rw [execReportFrameSend, awake_next _ running, if_pos up]

/-- One link record changed in two ways that agree on the record as it stands. -/
theorem modLink_congr {f g : Link → Link} (h : f (s.links.get st) = g (s.links.get st)) :
    s.modLink st f = s.modLink st g := by
  unfold State.modLink Tab.modify
  rw [h]

end Sending

theorem sendReport_waits {l : Link} (h : l.replies ≠ [] ∨ l.overrun.isSome) : l.sendReport = l := by
  refine if_neg fun ⟨noReply, noOverrun⟩ => ?_
  rcases h with waiting | overrun
  · exact waiting noReply
  · rw [noOverrun] at overrun; cases overrun

/-- Settles O37: the reply at the head, then the overrun record, then a report frame. -/
theorem repliesAreSentBeforeReports : Obligations.RepliesAreSentBeforeReports := by
  intro s st running up
  refine ⟨fun r rest waiting => ?reply, fun o empty overrun => ?overrun, fun f rest empty noOverrun waiting => ?report,
    fun first => ?held⟩
  case reply =>
    rw [exec_replySend running up]
    exact congrArg _ (modLink_congr (by rw [Link.sendReply, waiting]; rfl))
  case overrun =>
    rw [exec_replySend running up]
    exact congrArg _ (modLink_congr (by rw [Link.sendReply, empty, overrun]; rfl))
  case report =>
    rw [exec_reportFrameSend running up]
    exact congrArg _ (modLink_congr (by rw [Link.sendReport, if_pos ⟨empty, noOverrun⟩, waiting]; rfl))
  case held =>
    rw [exec_reportFrameSend running up, modLink_congr (g := id) (sendReport_waits first)]
    simp [State.modLink, Tab.modify]

/-! ### What a request leaves whose rule gives a state and an answer -/

section Served

variable {α : Type} {s t : State} {st : Station} {tag code : Byte} {payload : List Byte} {decode : List Byte → Option α}
  {serve : α → State → State × Answer} {a : α} {r : Result} {detail : List Byte}

/-- A served request leaves what its rule gives, and its answer in the queue. -/
theorem request_gives (h : s.Serves st payload) (decodes : decode payload = some a)
    (rule : serve a (s.afterFrame st) = (t, ⟨r, detail⟩)) :
    request st tag code payload decode serve s = .next (t.withReply st ⟨tag, code, r, detail⟩) := by
  rw [request_serves h decodes, rule]

/-- A served request whose rule changes nothing is only answered. -/
theorem request_answered (h : s.Serves st payload) (decodes : decode payload = some a)
    (rule : serve a (s.afterFrame st) = (s.afterFrame st, ⟨r, detail⟩)) :
    request st tag code payload decode serve s = .next (s.answered st tag code r detail) :=
  request_gives h decodes rule

end Served

/-! ### The link test (R197, R198) -/

theorem predictWord_continues (w : BitVec 16) (i : Nat) (h : i < 16) : (w ++ predictWord w).getLsbD i =
    ((w ++ predictWord w).getLsbD (i + 14) ^^ (w ++ predictWord w).getLsbD (i + 15)) := by
  rw [predictWord_bit w i (by omega), predictWord_bit w (i + 14) (by omega), predictWord_bit w (i + 15) (by omega)]
  exact sequenceBit_eq _ 16 i le_rfl h

theorem testStartVerdict_none {s : State} {st : Station}
    (free : ∀ j, (s.auth.get j).owner ≠ some st ∧ (s.auth.get j).trimStation ≠ some st) :
    s.testStartVerdict st = none := by
  refine if_neg fun any => ?_
  obtain ⟨j, -, busy⟩ := List.any_eq_true.mp any
  rcases (by simpa using busy : (s.auth.get j).owner = some st ∨ (s.auth.get j).trimStation = some st) with owns | trims
  · exact (free j).1 owns
  · exact (free j).2 trims

theorem judge_cases (t : TestState) (w : BitVec 16) : t.judge w =
    if w.setWidth 15 = 0 then ⟨none, true, true, min 255 (t.errors + 1)⟩
    else if t.previous = none then { t with previous := some w }
    else if t.previous.map predictWord = some w then { t with previous := some w, live := false }
    else ⟨some w, true, true, min 255 (t.errors + 1)⟩ := by
  unfold TestState.judge
  split
  · rfl
  · cases previous : t.previous with
    | none => rfl
    | some p =>
      rw [if_neg (by simp)]
      simp only [Option.map_some, Option.some.injEq]
      rfl

/-- A TEST frame in TEST reaches the words it carries. -/
theorem exec_test_hears {s : State} {st : Station} {p : List Byte} {ws : List (BitVec 16)} (running : s.sysreset = false)
    (test : s.linkState st = .test) (short : p.length ≤ 24) (decodes : testPayload p = some ws) :
    exec (.test st p) s = .next ((s.afterFrame st).takeTest st ws) := by
  show execTest st p s = _
  rw [execTest, awake_next _ running, State.onStream, if_pos (.inr test), if_pos (show p.length ≤ maxPayload from short),
    decodes]
  simp [test]

/-- TEST_END is the one request that is decided in TEST. -/
theorem exec_testEnd {s : State} {st : Station} {tag : Byte} (running : s.sysreset = false) (test : s.linkState st = .test)
    (free : (s.links.get st).assembly = none) (room : (s.links.get st).replies.length < 8)
    (noOverrun : (s.links.get st).overrun = none) : exec (.testEnd st tag []) s =
      .next (((s.afterFrame st).testEnd st).1.addReply st tag 43 ((s.afterFrame st).testEnd st).2) := by
  have notFull : ((s.afterFrame st).links.get st).isFull = false := by
    rw [afterFrame_isFull]
    simp [Link.isFull, noOverrun, maxReplies, Nat.not_le.mpr room]
  show execTestEnd st tag [] s = _
  rw [execTestEnd, request, awake_next _ running, State.takeRequest, State.onFrame, if_pos (.inr test),
    if_pos (show [].length ≤ maxPayload from Nat.zero_le _), State.heard_eq, afterFrame_assembly, free]
  dsimp only
  rw [State.submit, notFull, if_neg Bool.false_ne_true, if_neg fun ⟨_, other⟩ => other rfl]
  rfl

/-- Settles O41: TEST_START clears the test state, a TEST frame folds the judgement of a word, TEST_END answers it. -/
theorem linkTestJudgesItsWords : Obligations.LinkTestJudgesItsWords := by
  refine ⟨predictWord_continues, fun s st tag => ⟨fun served free => ?start, fun p ws running test short decodes => ?words,
    judge_cases, fun running test free room noOverrun => ?stop⟩⟩
  case start =>
    refine (request_taken (a := ()) served rfl (testStartVerdict_none free)).trans ?_
    simp only [State.testStartTaken, State.modLink, State.afterFrame_links, Tab.modify_modify]
    rfl
  case words =>
    rw [exec_test_hears running test short decodes]
    simp only [State.takeTest, State.modLink, State.afterFrame_links, Tab.modify_modify]
  case stop =>
    rw [exec_testEnd running test free room noOverrun, State.testEnd, if_pos (by rwa [State.afterFrame_linkState])]
    simp only [State.modLink, State.modStation, State.afterFrame_links, State.afterFrame_stations, Tab.modify_modify,
      Tab.get_modify_same, State.addReply_eq]
    rfl

/-! ### READ_STOPS and TAKE_INFO (R124, R157) -/

section Reads

variable {s : State} {index part : Nat}

theorem readStops_outside (outside : 7 < index ∨ 4 < part) : s.readStops index part = ⟨.badArg, []⟩ := if_pos outside

theorem readStops_inside (inside : index ≤ 7) (inPart : part ≤ 4) : s.readStops index part =
    match s.stop.records[index]? with
    | none => ⟨.state, []⟩
    | some r => ⟨.ok, beBytes 2 r.sequence ++ byte s.stop.records.length ++ recordPart r part⟩ := if_neg (by omega)

theorem slotOf_val (i : TakeNo) : slotOf i.val = some i := dif_pos i.isLt

theorem takeInfo_outside (outside : 31 < index ∨ 13 < part) : s.takeInfo index part = ⟨.badArg, []⟩ := by
  unfold State.takeInfo
  cases slot : slotOf index with
  | none => rfl
  | some i =>
    have : index < 32 := by
      by_contra above
      rw [slotOf, dif_neg above] at slot
      cases slot
    exact if_pos (by omega)

theorem takeInfo_inside {i : TakeNo} (slot : i.val = index) (inPart : part ≤ 13) : s.takeInfo index part =
    match s.takes.slots.get i with
    | .empty => ⟨.noTake, []⟩
    | .loading count _ => if part = 0 then ⟨.ok, infoLoading count⟩ else ⟨.state, []⟩
    | .recording t => ⟨.ok, infoPart 1 t none part⟩
    | .closed t r => ⟨.ok, infoPart 2 t (some r) part⟩ := by
  subst slot
  rw [State.takeInfo, slotOf_val]
  exact if_neg (by omega)

end Reads

section ReadRequests

variable {s : State} {st : Station} {tag : Byte} {p : List Byte} {index part : Nat} {a : Answer}

theorem exec_readStops (served : s.Serves st p) (decodes : twoBytes p = some (index, part))
    (answer : s.readStops index part = a) : exec (.readStops st tag p) s = .next (s.answered st tag 20 a.result a.detail) :=
  request_answered served decodes (by subst answer; rfl)

theorem exec_takeInfo (served : s.Serves st p) (decodes : twoBytes p = some (index, part))
    (answer : s.takeInfo index part = a) : exec (.takeInfo st tag p) s = .next (s.answered st tag 31 a.result a.detail) :=
  request_answered served decodes (by subst answer; rfl)

end ReadRequests

/-- Settles O51: each read answers the part, and changes nothing. -/
theorem readsOnlyAnswer : Obligations.ReadsOnlyAnswer := by
  refine ⟨recordPart_holds, fun t state reason part which => infoPart_holds t state (by omega) reason part,
    fun s st tag p index part served decodes => ⟨fun r stands inside inPart => ?record, fun missing inside inPart => ?missing,
      fun outside => ?outside, fun outside => ?outsideTake, fun i q bs slot loading inPart => ?loading,
      fun i t slot recording inPart => ?recording, fun i t reason slot closed inPart => ?closed,
      fun i slot empty inPart => ?empty⟩⟩
  case record => exact exec_readStops served decodes (by rw [readStops_inside inside inPart, stands])
  case missing => exact exec_readStops served decodes (by rw [readStops_inside inside inPart, missing])
  case outside => exact exec_readStops served decodes (readStops_outside outside)
  case outsideTake => exact exec_takeInfo served decodes (takeInfo_outside outside)
  case loading =>
    rw [exec_takeInfo served decodes (by rw [takeInfo_inside slot inPart, loading])]
    dsimp only
    split
    · rfl
    · rfl
  case recording => exact exec_takeInfo served decodes (by rw [takeInfo_inside slot inPart, recording])
  case closed => exact exec_takeInfo served decodes (by rw [takeInfo_inside slot inPart, closed])
  case empty => exact exec_takeInfo served decodes (by rw [takeInfo_inside slot inPart, empty])

end Sys2Proof.Machine
end

section
/-! The Authority Table (O38, O39): MOVE and TRIM frames as folds over their entries, and trim stations. -/

namespace Sys2Proof.Machine

/-- What a fold leaves of a state, where no element changes it as long as it is left. -/
theorem foldl_fixed {σ α β : Type} (view : σ → β) {f : σ → α → σ} {v : β} (l : List α)
    (h : ∀ t, view t = v → ∀ e ∈ l, view (f t e) = v) (s : σ) (start : view s = v) : view (l.foldl f s) = v := by
  induction l generalizing s with
  | nil => exact start
  | cons e rest ih =>
    exact ih (fun t same e' mem => h t same e' (List.mem_cons_of_mem _ mem)) _ (h s start e (List.mem_cons_self ..))

/-- What the entries of a frame may write of an axis: its authority entry and its channel. -/
structure AxisView where
  entry : AuthEntry
  channel : AxisChannel

def State.view (s : State) (i : Axis) : AxisView := ⟨s.auth.get i, s.channels.get i⟩

/-! ### MOVE entries (R70, R71) -/

/-- The entry applies to its axis: the station owns it in MANUAL, and the value is one for its kind of axis. -/
def State.Takes (s : State) (st : Station) (j : Axis) (cmd : Command) : Prop :=
  (s.auth.get j).owner = some st ∧ s.mode j = .manual ∧ cmd.misplaced j = false

section Entries

variable {s : State} {st : Station} {i j : Axis} {cmd : Command}

theorem applyEntry_taken (h : s.Takes st j cmd) : s.applyEntry st j cmd =
    (s.modAuth j fun a => { a with command := cmd }).modChannel j fun c =>
      { c with moving := c.moving.map fun m => { m with target := targetOf m c.limits (s.mapFor j) cmd } } := if_pos h

theorem applyEntry_ignored (h : ¬ s.Takes st j cmd) : s.applyEntry st j cmd = s := if_neg h

/-- An entry of another axis, or one that does not apply, leaves the axis alone. -/
theorem applyEntry_view (h : j = i → ¬ s.Takes st j cmd) : (s.applyEntry st j cmd).view i = s.view i := by
  by_cases takes : s.Takes st j cmd
  · have other : i ≠ j := fun same => h same.symm takes
    rw [applyEntry_taken takes]
    simp only [State.view, State.modChannel_auth, State.modAuth_auth, State.modChannel_channels, State.modAuth_channels,
      Tab.get_modify_other _ _ other]
  · rw [applyEntry_ignored takes]

/-- The entries that follow leave an axis alone of which none applies. -/
theorem applyEntries_view (es : List (Axis × Command)) (h : ∀ cmd, (i, cmd) ∈ es → ¬ s.Takes st i cmd) :
    (es.foldl (fun t e => t.applyEntry st e.1 e.2) s).view i = s.view i := by
  refine foldl_fixed (fun t => State.view t i) es (fun t same e mem => ?_) s rfl
  refine (applyEntry_view fun axis takes => h e.2 (by rwa [← axis]) ?_).trans same
  rw [axis] at takes
  have entry : t.auth.get i = s.auth.get i := congrArg AxisView.entry same
  unfold State.Takes State.mode at takes ⊢
  rwa [entry] at takes

end Entries

theorem applyEntries_frame (st : Station) (es : List (Axis × Command)) (s : State) :
    es.foldl (fun t e => t.applyEntry st e.1 e.2) s =
      { s with
        auth := (es.foldl (fun t e => t.applyEntry st e.1 e.2) s).auth
        channels := (es.foldl (fun t e => t.applyEntry st e.1 e.2) s).channels } := by
  induction es generalizing s with
  | nil => rfl
  | cons e rest ih =>
    have one : s.applyEntry st e.1 e.2 =
        { s with auth := (s.applyEntry st e.1 e.2).auth, channels := (s.applyEntry st e.1 e.2).channels } := by
      by_cases takes : s.Takes st e.1 e.2
      · rw [applyEntry_taken takes]
        rfl
      · rw [applyEntry_ignored takes]
    rw [List.foldl_cons, ih]
    rw [one]

/-- A payload names each axis once, in ascending order. -/
theorem moveEntries_sublist {w : Nat} {l : List Axis} {bs : List Byte} {es : List (Axis × Command)}
    (h : moveEntries w l bs = some es) : (es.map Prod.fst).Sublist l := by
  induction l generalizing bs es with
  | nil =>
    rw [moveEntries] at h
    split at h
    · cases h; exact .refl _
    · cases h
  | cons j rest ih =>
    rw [moveEntries] at h
    split at h
    · split at h
      · obtain ⟨es', more, rfl⟩ := Option.map_eq_some_iff.mp h
        exact (ih more).cons_cons j
      · cases h
    · exact (ih h).cons j

theorem movePayload_nodup {bs : List Byte} {es : List (Axis × Command)} (h : movePayload bs = some es) :
    (es.map Prod.fst).Nodup := by
  unfold movePayload at h
  split at h
  · exact (moveEntries_sublist h).nodup (by decide)
  · cases h

theorem freshen_entry (s : State) (st : Station) (j : Axis) : (s.freshen st).auth.get j =
    { s.auth.get j with
      stale := if (s.auth.get j).owner = some st ∧ s.mode j = .manual then false else (s.auth.get j).stale } := by
  refine (Tab.get_map ..).trans ?_
  by_cases mine : (s.auth.get j).owner = some st ∧ s.mode j = .manual
  · rw [if_pos mine]
    exact if_pos mine
  · rw [if_neg mine]
    exact if_neg mine

/-- What a MOVE frame leaves of an axis that one of its entries applies to. -/
theorem takeMove_view {s : State} {st : Station} {es : List (Axis × Command)} {j : Axis} {cmd : Command}
    (once : (es.map Prod.fst).Nodup) (mem : (j, cmd) ∈ es) (takes : s.Takes st j cmd) :
    (s.takeMove st es).view j = ⟨{ s.auth.get j with command := cmd, stale := false },
      { s.channels.get j with moving := (s.channels.get j).moving.map fun m =>
        { m with target := targetOf m (s.channels.get j).limits (s.mapFor j) cmd } }⟩ := by
  obtain ⟨before, after, rfl⟩ := List.append_of_mem mem
  rw [List.map_append, List.map_cons, List.nodup_append] at once
  obtain ⟨-, onceAfter, apart⟩ := once
  have notBefore (c : Command) : (j, c) ∉ before := fun m =>
    apart j (List.mem_map_of_mem (f := Prod.fst) m) j (List.mem_cons_self ..) rfl
  have notAfter (c : Command) : (j, c) ∉ after := fun m =>
    (List.nodup_cons.mp onceAfter).1 (List.mem_map.mpr ⟨(j, c), m, rfl⟩)
  obtain ⟨t, fold⟩ : ∃ t, before.foldl (fun t e => t.applyEntry st e.1 e.2) (s.freshen st) = t := ⟨_, rfl⟩
  have same : t.view j = (s.freshen st).view j := fold ▸ applyEntries_view before fun c m => absurd m (notBefore c)
  have entry : t.auth.get j = { s.auth.get j with stale := false } := by
    rw [show t.auth.get j = (s.freshen st).auth.get j from congrArg AxisView.entry same, freshen_entry,
      if_pos ⟨takes.1, takes.2.1⟩]
  have channel : t.channels.get j = s.channels.get j := congrArg AxisView.channel same
  have maps : t.mapFor j = s.mapFor j := by
    rw [← fold, applyEntries_frame]
    rfl
  have stillTakes : t.Takes st j cmd := by
    refine ⟨by rw [entry]; exact takes.1, ?_, takes.2.2⟩
    rw [State.mode, entry]
    exact takes.2.1
  rw [State.takeMove, List.foldl_append, fold, List.foldl_cons, applyEntries_view after fun c m => absurd m (notAfter c),
    applyEntry_taken stillTakes]
  simp only [State.view, State.modChannel_auth, State.modAuth_auth, State.modChannel_channels, State.modAuth_channels,
    Tab.get_modify_same, entry, channel, maps]

/-! ### The target of an entry (R5, R37, R71) -/

theorem clampTarget_eq (lim : Limits) (x : Int) :
    clampTarget (some lim) x = max (lim.low * 256) (min (lim.high * 256) x) := rfl

theorem mapFor_lensAxis (s : State) (l : Lens) : s.mapFor (lensAxis l) = (s.maps.get l).map := by
  rw [State.mapFor, lensOf_lensAxis]

/-- Settles O38: the entries are applied one axis each, and leave every other axis as the frame itself does. -/
theorem moveFramesSetCommands : Obligations.MoveFramesSetCommands := by
  intro s st p es hears decodes
  have run : exec (.move st p) s = .next ((s.afterFrame st).takeMove st es) := by
    show execMove st p s = _
    rw [execMove, awake_next _ hears.1, onStream_hears hears decodes]
  have frame := applyEntries_frame st es ((s.afterFrame st).freshen st)
  refine ⟨_, run, ?lastMove, ?lastFrame, fun j cmd mem owner manual fits => ?taken, fun j none => ?ignored, ?frame⟩
  case lastMove =>
    rw [State.takeMove, frame]
    simp [State.freshen]
  case lastFrame =>
    rw [State.takeMove, frame]
    simp [State.freshen]
  case taken =>
    have view := takeMove_view (s := s.afterFrame st) (movePayload_nodup decodes) mem ⟨owner, manual, fits⟩
    refine ⟨congrArg AxisView.entry view, congrArg AxisView.channel view, fun m lim _ =>
      ⟨fun n vel => ?vel, fun c pos => ?pos, fun d x u delta position => ?position, fun d n delta velocity => ?velocity,
        fun l u user lens => ⟨fun mp map => ?mapped, fun noMap => ?unmapped⟩⟩⟩
    case vel => rw [vel]; rfl
    case pos => rw [pos]; rfl
    case position => rw [delta, targetOf, position]; rfl
    case velocity => rw [delta, targetOf, velocity]; rfl
    case mapped => rw [user, ← lens, mapFor_lensAxis, map]; rfl
    case unmapped => rw [user, ← lens, mapFor_lensAxis, noMap]; rfl
  case ignored =>
    have view := applyEntries_view (s := (s.afterFrame st).freshen st) (st := st) (i := j) es fun cmd mem takes => by
      refine none cmd mem ?_
      unfold State.Takes State.mode at takes
      rw [freshen_entry] at takes
      exact takes
    exact ⟨congrArg AxisView.channel view, (congrArg AxisView.entry view).trans (freshen_entry ..)⟩
  case frame =>
    rw [State.takeMove, frame]
    rfl

/-! ### TRIM entries (R79) -/

section Trims

variable {s : State} {st : Station} {i j : Axis} {d : Int} {lim : Limits}

theorem oneByte_axis (j : Axis) : oneByte [BitVec.ofNat 8 j.val] = some j.val := by
  have : j.val % 256 = j.val := Nat.mod_eq_of_lt (by omega)
  simp [oneByte, this]

/-- An entry for the axis of its trim station sets the demand. -/
theorem applyTrim_taken (trims : (s.auth.get j).trimStation = some st) (limits : s.limits j = some lim) :
    s.applyTrim st (j.val, d) =
      s.modChannel j fun c => { c with trimDemand := clamp (-(lim.trimRange : Int)) lim.trimRange d } := by
  rw [State.applyTrim, dif_pos j.isLt, if_pos trims]
  dsimp only
  rw [limits]

/-- An entry writes channels alone, and that of another axis no part of this one. -/
theorem applyTrim_view (st : Station) (e : Nat × Int) (s : State) :
    s.applyTrim st e = { s with channels := (s.applyTrim st e).channels } ∧
      ((s.auth.get i).trimStation ≠ some st ∨ e.1 ≠ i.val → (s.applyTrim st e).channels.get i = s.channels.get i) := by
  unfold State.applyTrim
  split
  · rename_i inside
    split
    · rename_i trims
      split
      · refine ⟨rfl, fun other => Tab.get_modify_other _ _ ?_⟩
        rintro rfl
        rcases other with noTrim | other
        · exact noTrim trims
        · exact other rfl
      · exact ⟨rfl, fun _ => rfl⟩
    · exact ⟨rfl, fun _ => rfl⟩
  · exact ⟨rfl, fun _ => rfl⟩

theorem takeTrim_frame (st : Station) (es : List (Nat × Int)) (s : State) :
    s.takeTrim st es = { s with channels := (s.takeTrim st es).channels } := by
  unfold State.takeTrim
  induction es generalizing s with
  | nil => rfl
  | cons e rest ih =>
    rw [List.foldl_cons, ih]
    rw [(applyTrim_view (i := 0) st e s).1]

/-- The entries of a frame leave an axis alone that is not the station's to trim, or that none of them names. -/
theorem takeTrim_other (es : List (Nat × Int))
    (other : (s.auth.get i).trimStation ≠ some st ∨ ∀ e ∈ es, e.1 ≠ i.val) :
    (s.takeTrim st es).channels.get i = s.channels.get i := by
  have view : (s.takeTrim st es).view i = s.view i := by
    refine foldl_fixed (fun t => State.view t i) es (fun t same e mem => ?_) s rfl
    obtain ⟨frame, channel⟩ := applyTrim_view (i := i) st e t
    have entry : t.auth.get i = s.auth.get i := congrArg AxisView.entry same
    have kept := channel (other.imp (fun no => by rwa [entry]) fun no => no e mem)
    calc (t.applyTrim st e).view i = t.view i := by rw [State.view, kept, frame, State.view]
      _ = s.view i := same
  exact congrArg AxisView.channel view

/-- What the entries of a frame leave of an axis of their trim station: all but its demand. -/
def State.besideDemand (s : State) (i : Axis) : AxisView := ⟨s.auth.get i, { s.channels.get i with trimDemand := 0 }⟩

theorem applyTrim_besideDemand (st : Station) (e : Nat × Int) (s : State) :
    (s.applyTrim st e).besideDemand i = s.besideDemand i := by
  unfold State.applyTrim
  split
  · split
    · split
      · simp only [State.besideDemand, State.modChannel_auth, State.modChannel_channels, Tab.get_modify]
        split
        · rename_i same
          rw [same]
        · rfl
      · rfl
    · rfl
  · rfl

theorem takeTrim_besideDemand (st : Station) (es : List (Nat × Int)) (s : State) :
    (s.takeTrim st es).besideDemand i = s.besideDemand i :=
  foldl_fixed (fun t => State.besideDemand t i) es
    (fun t same e _ => (applyTrim_besideDemand st e t).trans same) s rfl

/-- The last entry for an axis of its trim station is the one that stands. -/
theorem takeTrim_last (es rest : List (Nat × Int)) (last : ∀ e ∈ rest, e.1 ≠ j.val)
    (trims : (s.auth.get j).trimStation = some st) (limits : s.limits j = some lim) :
    (s.takeTrim st (es ++ (j.val, d) :: rest)).channels.get j =
      { s.channels.get j with trimDemand := clamp (-(lim.trimRange : Int)) lim.trimRange d } := by
  obtain ⟨t, fold⟩ : ∃ t, s.takeTrim st es = t := ⟨_, rfl⟩
  have beside : t.besideDemand j = s.besideDemand j := fold ▸ takeTrim_besideDemand st es s
  have entry : t.auth.get j = s.auth.get j := congrArg AxisView.entry beside
  have channel : { t.channels.get j with trimDemand := 0 } = { s.channels.get j with trimDemand := 0 } :=
    congrArg AxisView.channel beside
  have limitsThen : t.limits j = some lim := (congrArg AxisChannel.limits channel).trans limits
  have set : (t.applyTrim st (j.val, d)).channels.get j =
      { t.channels.get j with trimDemand := clamp (-(lim.trimRange : Int)) lim.trimRange d } := by
    rw [applyTrim_taken (by rw [entry]; exact trims) limitsThen]
    exact Tab.get_modify_same ..
  calc (s.takeTrim st (es ++ (j.val, d) :: rest)).channels.get j
    _ = ((t.applyTrim st (j.val, d)).takeTrim st rest).channels.get j := by
      rw [State.takeTrim, List.foldl_append, show es.foldl (fun t e => t.applyTrim st e) s = t from fold]
      rfl
    _ = { t.channels.get j with trimDemand := clamp (-(lim.trimRange : Int)) lim.trimRange d } :=
      (takeTrim_other rest (.inr last)).trans set
    _ = _ := congrArg (fun c : AxisChannel => { c with trimDemand := clamp (-(lim.trimRange : Int)) lim.trimRange d })
      channel

end Trims

/-! ### Trim stations (R77, R78) -/

section Stations

variable {s : State} {st o : Station} {j : Axis} {n : Nat}

theorem trimAttach_taken (right : s.holds st .trim = true) (under : (s.mode j).underTake = true)
    (step : s.trimStep j ≠ 0) (free : (s.auth.get j).trimStation = none) :
    s.trimAttach st j.val = (s.modAuth j fun a => { a with trimStation := some st }, ⟨.ok, []⟩) := by
  rw [State.trimAttach, if_neg (by simp [right]), dif_pos j.isLt, if_neg (by simp [under, step]), free]

theorem trimDetach_taken (trims : (s.auth.get j).trimStation = some o)
    (allowed : o = st ∨ (s.auth.get j).owner = some st) :
    s.trimDetach st j.val = (s.modAuth j fun a => { a with trimStation := none }, ⟨.ok, []⟩) := by
  rw [State.trimDetach, dif_pos j.isLt, trims]
  exact if_pos allowed

theorem trimDetach_refused (other : (s.auth.get j).trimStation = none ∨
    ((s.auth.get j).trimStation ≠ some st ∧ (s.auth.get j).owner ≠ some st)) :
    s.trimDetach st j.val = (s, ⟨.notOwner, []⟩) := by
  rw [State.trimDetach, dif_pos j.isLt]
  split
  · rfl
  · rename_i o trims
    rcases other with none | ⟨notTrim, notOwner⟩
    · rw [none] at trims; cases trims
    · exact if_neg fun allowed => allowed.elim (fun same => notTrim (same ▸ trims)) notOwner

end Stations

/-- Settles O39: the last entry of an axis stands, and the requests act on the entry of one axis. -/
theorem trimIsSetByItsStation : Obligations.TrimIsSetByItsStation := by
  intro s st j
  refine ⟨fun p es d rest lim hears decodes last limits trims => ?frame, fun tag lim served right under limits step free =>
      ?attach, fun tag k outside served => ?outside, fun tag served other => ?notOwner,
    fun tag o served trims allowed => ?detach⟩
  case frame =>
    have run : exec (.trim st p) s = .next ((s.afterFrame st).takeTrim st (es ++ (j.val, d) :: rest)) := by
      show execTrim st p s = _
      rw [execTrim, awake_next _ hears.1, onStream_hears hears decodes]
    exact ⟨_, run, takeTrim_last (s := s.afterFrame st) es rest last trims limits,
      fun i other => takeTrim_other _ (s := s.afterFrame st) other, takeTrim_frame ..⟩
  case attach =>
    exact request_gives served (oneByte_axis j) (trimAttach_taken (s := s.afterFrame st)
      (by rwa [State.afterFrame_holds]) under (by rw [State.trimStep, State.afterFrame_limits, limits]; exact step.ne') free)
  case outside =>
    exact request_answered served (a := k.toNat) rfl (dif_neg (by omega))
  case notOwner => exact request_answered served (oneByte_axis j) (trimDetach_refused (s := s.afterFrame st) other)
  case detach => exact request_gives served (oneByte_axis j) (trimDetach_taken (s := s.afterFrame st) trims allowed)

end Sys2Proof.Machine
end

section
/-! Requests over sets of axes (O42, O47): claims, releases, and the drive requests. -/

namespace Sys2Proof.Machine

/-! ### Folds in which an element acts on its own part alone -/

/-- A fold over elements of which one alone changes a view: it acts on a state with the view as at first. -/
theorem foldl_at {σ α β : Type} (view : σ → β) {f : σ → α → σ} {a : α} {l : List α} (once : l.Nodup) (mem : a ∈ l)
    (other : ∀ t, ∀ b ∈ l, b ≠ a → view (f t b) = view t) (s : σ) :
    ∃ before after, l = before ++ a :: after ∧ view (before.foldl f s) = view s ∧
      view (l.foldl f s) = view (f (before.foldl f s) a) := by
  obtain ⟨before, after, rfl⟩ := List.append_of_mem mem
  rw [List.nodup_middle, List.nodup_cons, List.mem_append, not_or] at once
  obtain ⟨⟨notBefore, notAfter⟩, -⟩ := once
  have untilThen : view (before.foldl f s) = view s := foldl_fixed view before
    (fun t same b m => (other t b (List.mem_append_left _ m) fun e => notBefore (e ▸ m)).trans same) s rfl
  refine ⟨before, after, rfl, untilThen, ?_⟩
  rw [List.foldl_append, List.foldl_cons]
  exact foldl_fixed view after (fun t same b m => (other t b
    (List.mem_append_right _ (List.mem_cons_of_mem _ m)) fun e => notAfter (e ▸ m)).trans same) _ rfl

theorem axesOf_nodup (axes : AxisSet) : (axesOf axes).Nodup := List.Nodup.filter _ (by decide)

/-- No axis of a set meets a test that each of them fails. -/
theorem any_axesOf_false {axes : AxisSet} {f : Axis → Bool} (h : ∀ j : Axis, axes.getLsbD j.val = true → f j = false) :
    (axesOf axes).any f = false :=
  List.any_eq_false.mpr fun j mem => by rw [h j (mem_axesOf.mp mem)]; exact Bool.false_ne_true

/-! ### What every request over a set asks -/

section Sets

variable {s : State} {st : Station} {w : BitVec 16}

theorem badSet_false (nonempty : w ≠ 0) (inRange : w.toNat < 1024) : badSet w = false := by
  simp [badSet, show w ≠ 0#16 from nonempty, inRange]

theorem lacksGroup_false (rights : ∀ j : Axis, (w.setWidth 10).getLsbD j.val = true → s.holds st (groupRight j) = true) :
    s.lacksGroup st w = false := any_axesOf_false fun j mem => by rw [rights j mem]; rfl

@[simp] theorem afterFrame_lacksGroup (o : Station) : (s.afterFrame o).lacksGroup st w = s.lacksGroup st w := by
  simp only [State.lacksGroup, State.afterFrame_holds]

theorem afterFrame_rank (s : State) (o i : Station) : ((s.afterFrame o).stations.get i).rank = (s.stations.get i).rank := by
  rw [State.afterFrame_stations, Tab.get_modify]
  split
  · rename_i same
    rw [same]
  · rfl

end Sets

/-! ### A notice changes one link alone -/

theorem post_eq (s : State) (st : Station) (f : Notices → Notices) : s.post st f = { s with links := (s.post st f).links } := by
  unfold State.post
  split
  · rfl
  · rfl

theorem post_link (s : State) (st o : Station) (f : Notices → Notices) : (s.post st f).links.get o =
    if o = st ∧ s.linkState st = .up then { s.links.get o with notices := f (s.links.get o).notices }
    else s.links.get o := by
  unfold State.post
  by_cases up : s.linkState st = .up
  · rw [if_pos up, State.modLink_links, Tab.get_modify]
    by_cases same : o = st
    · rw [if_pos same, if_pos ⟨same, up⟩, same]
    · rw [if_neg same, if_neg fun ⟨e, _⟩ => same e]
  · rw [if_neg up, if_neg fun ⟨_, e⟩ => up e]

/-! ### CLAIM and RELEASE (R66, R67, R68) -/

section Claims

variable {s before : State} {st o : Station} {w : BitVec 16} {takeover : Bool} {axes : AxisSet}

/-- A claim that nothing refuses. -/
theorem claimVerdict_none (nonempty : w ≠ 0) (inRange : w.toNat < 1024)
    (rest : ∀ j : Axis, (w.setWidth 10).getLsbD j.val = true → (s.mode j).underTake = false)
    (rights : ∀ j : Axis, (w.setWidth 10).getLsbD j.val = true → s.holds st (groupRight j) = true)
    (free : ∀ j : Axis, (w.setWidth 10).getLsbD j.val = true → ∀ o, (s.auth.get j).owner = some o → o ≠ st →
      takeover = true ∧ (s.stations.get o).rank < (s.stations.get st).rank ∧ s.mode j = .manual) :
    s.claimVerdict st w takeover = none := by
  have notHeld (j : Axis) (mem : (w.setWidth 10).getLsbD j.val = true) : s.heldAgainst st takeover j = false := by
    unfold State.heldAgainst
    split
    · rfl
    · rename_i o owner
      by_cases mine : o = st
      · simp [mine]
      · obtain ⟨allowed, rank, manual⟩ := free j mem o owner mine
        simp [allowed, rank, manual]
  have noneHeld : (axesOf (w.setWidth 10)).find? (s.heldAgainst st takeover) = none :=
    List.find?_eq_none.mpr fun j mem => by rw [notHeld j (mem_axesOf.mp mem)]; exact Bool.false_ne_true
  rw [State.claimVerdict, lacksGroup_false rights, badSet_false nonempty inRange, any_axesOf_false rest, noneHeld]
  rfl

@[simp] theorem afterFrame_claimVerdict : (s.afterFrame o).claimVerdict st w takeover = s.claimVerdict st w takeover := by
  have held : (s.afterFrame o).heldAgainst st takeover = s.heldAgainst st takeover := by
    funext j
    unfold State.heldAgainst
    rw [State.afterFrame_auth]
    split
    · rfl
    · rw [afterFrame_rank, afterFrame_rank]
      rfl
  rw [State.claimVerdict, afterFrame_lacksGroup, held]
  rfl

theorem releaseVerdict_none (nonempty : w ≠ 0) (inRange : w.toNat < 1024)
    (rest : ∀ j : Axis, (w.setWidth 10).getLsbD j.val = true → (s.mode j).underTake = false)
    (owned : ∀ j : Axis, (w.setWidth 10).getLsbD j.val = true → (s.auth.get j).owner = some st) :
    s.releaseVerdict st w = none := by
  rw [State.releaseVerdict, badSet_false nonempty inRange, any_axesOf_false rest,
    any_axesOf_false fun j mem => by simpa using owned j mem]
  rfl

theorem postLost_eq (s before : State) (st : Station) (axes : AxisSet) :
    s.postLost before st axes = { s with links := (s.postLost before st axes).links } := by
  unfold State.postLost
  generalize allStations = l
  induction l generalizing s with
  | nil => rfl
  | cons o rest ih =>
    rw [List.foldl_cons]
    split
    · rw [ih, post_eq s o]
    · exact ih s

/-- LOST_AXES comes to each other owner whose link is UP, and to no one else. -/
theorem postLost_link (s before : State) (st : Station) (axes : AxisSet) (o : Station) :
    (s.postLost before st axes).links.get o =
      if o ≠ st ∧ before.ownedIn axes o ≠ 0 then (s.post o fun n =>
        { n with lostAxes := some (before.ownedIn axes o, st) }).links.get o
      else s.links.get o := by
  have every : ∀ o : Station, o ∈ allStations := by decide
  obtain ⟨l, r, -, same, last⟩ := foldl_at (fun t : State => t.links.get o)
    (f := fun t o => if o ≠ st ∧ before.ownedIn axes o ≠ 0 then
      t.post o fun n => { n with lostAxes := some (before.ownedIn axes o, st) } else t)
    (l := allStations) (by decide) (every o) (fun t b _ ne => by
      split
      · rw [post_link, if_neg fun ⟨e, _⟩ => ne e.symm]
      · rfl) s
  refine last.trans ?_
  split
  · rw [post_link, post_link, State.linkState, same]
    rfl
  · exact same

end Claims

/-- Settles O42: a claim gives the axes and tells the owners what they lost, and a release lets the axes go. -/
theorem axesAreClaimedAndReleased : Obligations.AxesAreClaimedAndReleased := by
  rintro s st tag p w _ served rfl nonempty inRange rest
  refine ⟨fun takeover decodes free => ?claim, fun decodes owned => ?release⟩
  case claim =>
    have verdict : (s.afterFrame st).claimVerdict st w takeover = none := by
      rw [afterFrame_claimVerdict]
      exact claimVerdict_none nonempty inRange rest (fun j mem => (free j mem).1) fun j mem => (free j mem).2
    have run := request_taken (a := (w, takeover)) (code := 1) (tag := tag) (detail := []) (verdict := fun a t => State.claimVerdict t st a.1 a.2)
      (taken := fun a t => State.claimTaken t st (a.1.setWidth 10)) served decodes verdict
    have frame := postLost_eq ((s.afterFrame st).giveAxes st (w.setWidth 10)) (s.afterFrame st) st (w.setWidth 10)
    have link := postLost_link ((s.afterFrame st).giveAxes st (w.setWidth 10)) (s.afterFrame st) st (w.setWidth 10)
    refine ⟨_, run, ?reply, fun j => ?entry, fun j => ?channel, ?lastMove, fun o other up owned => ?lost, ?frame⟩
    case reply =>
      have given : ((s.afterFrame st).giveAxes st (w.setWidth 10)).links.get st = { s.links.get st with badRun := 0 } :=
        afterFrame_link s st
      rw [State.withReply_links, Tab.get_modify_same, State.claimTaken, link, if_neg fun ⟨ne, _⟩ => ne rfl, given]
    case entry =>
      rw [State.withReply_auth, State.claimTaken, frame]
      exact Tab.get_imap ..
    case channel =>
      rw [State.withReply_channels, State.claimTaken, frame]
      exact Tab.get_imap ..
    case lastMove =>
      rw [State.withReply_stations, State.claimTaken, frame]
      exact congrArg StationRec.lastMove (Tab.get_modify_same ..)
    case lost =>
      rw [State.withReply_links, Tab.get_modify_other _ _ other, State.claimTaken, link, if_pos ⟨other, owned⟩, post_link,
        if_pos ⟨rfl, by rw [State.linkState]; exact (State.afterFrame_linkState ..).trans up⟩]
      rfl
    case frame =>
      rw [State.claimTaken, frame]
      rfl
  case release =>
    exact ⟨_, request_taken (verdict := fun w t => State.releaseVerdict t st w)
      (taken := fun w t => State.releaseTaken t (w.setWidth 10)) served decodes
      (releaseVerdict_none nonempty inRange rest owned), fun j => Tab.get_imap ..,
      fun j => Tab.get_imap .., rfl⟩

/-! ### The drive requests (R46, R49, R51) -/

section Drives

variable {s : State} {st o : Station} {w : BitVec 16} {i j : Axis}

theorem enableVerdict_none (nonempty : w ≠ 0) (inRange : w.toNat < 1024) (lacks : s.lacksGroup st w = false)
    (calm : s.stop.level = 0) (ready : ∀ j : Axis, (w.setWidth 10).getLsbD j.val = true →
      (s.channels.get j).commissioning = .ready ∧ (s.driveState j = .off ∨ s.driveState j = .parked)) :
    s.enableVerdict st w = none := by
  rw [State.enableVerdict, lacks, badSet_false nonempty inRange, calm,
    any_axesOf_false fun j mem => by simpa using (ready j mem).1,
    any_axesOf_false fun j mem => by rw [decide_eq_true (ready j mem).2]; rfl]
  rfl

theorem parkVerdict_none (nonempty : w ≠ 0) (inRange : w.toNat < 1024) (lacks : s.lacksGroup st w = false)
    (rest : ∀ j : Axis, (w.setWidth 10).getLsbD j.val = true → s.driveState j = .active ∧ (s.mode j).underTake = false ∧
      ∀ m, (s.channels.get j).moving = some m → m.v = 0) : s.parkVerdict st w = none := by
  have still (j : Axis) (mem : (w.setWidth 10).getLsbD j.val = true) : s.moves j = false := by
    unfold State.moves
    split
    · rename_i m moving
      simpa using (rest j mem).2.2 m moving
    · rfl
  rw [State.parkVerdict, lacks, badSet_false nonempty inRange, any_axesOf_false fun j mem => by
    simpa [still j mem] using ⟨(rest j mem).1, (rest j mem).2.1⟩]
  rfl

theorem clearFaultVerdict_none (nonempty : w ≠ 0) (inRange : w.toNat < 1024) (lacks : s.lacksGroup st w = false)
    (faults : ∀ j : Axis, (w.setWidth 10).getLsbD j.val = true → s.driveState j = .fault ∧
      ∀ x, (s.port.drives.get j).lastReport ≠ some (.fault, x)) : s.clearFaultVerdict st w = none := by
  have quiet (j : Axis) (mem : (w.setWidth 10).getLsbD j.val = true) : s.reportsFault j = false := by
    unfold State.reportsFault
    split
    · rename_i x report
      exact absurd report ((faults j mem).2 x)
    · rfl
  rw [State.clearFaultVerdict, lacks, badSet_false nonempty inRange,
    any_axesOf_false fun j mem => by simpa using (faults j mem).1, any_axesOf_false quiet]
  rfl

/-! ### PARK: each drive of the set leaves ACTIVE -/

theorem closeTake_eq (s : State) (r : CloseReason) :
    s.closeTake r = { s with links := (s.closeTake r).links, takes := (s.closeTake r).takes } := by
  unfold State.closeTake
  split
  · rfl
  · split
    · split
      · rw [post_eq]
      · rw [post_eq]
    · rfl

theorem closeIfRecorded_eq (s : State) (j : Axis) : s.closeIfRecorded j =
    { s with links := (s.closeIfRecorded j).links, takes := (s.closeIfRecorded j).takes } := by
  unfold State.closeIfRecorded
  split
  · split
    · exact closeTake_eq ..
    · rfl
  · rfl

/-- What a drive that leaves ACTIVE changes: its own record and channel, and the take recorded. -/
theorem driveTo_eq (s : State) (j : Axis) (d : DriveState) (keep : Bool) : s.driveTo j d keep =
    { s with
      links := (s.driveTo j d keep).links, takes := (s.driveTo j d keep).takes
      channels := if s.driveState j = .active then s.channels.modify j fun c => c.giveUp (s.mode j) else s.channels
      port := { s.port with drives := s.port.drives.modify j fun r =>
        { r with state := d, silence := if keep then r.silence else 0, wait := 0, followingError := false } } } := by
  unfold State.driveTo State.leaveActive
  split
  · rw [closeIfRecorded_eq]
    rfl
  · rfl

theorem closeTake_recorder (s : State) (r : CloseReason) : (s.closeTake r).takes.recorder = none := (closeTake_frame s r).1

/-- The take recorded stays, or the recorder goes IDLE. -/
theorem driveTo_takes (s : State) (j : Axis) (d : DriveState) (keep : Bool) :
    (s.driveTo j d keep).takes = s.takes ∨ (s.driveTo j d keep).takes.recorder = none := by
  unfold State.driveTo State.leaveActive State.closeIfRecorded
  split
  · rw [State.modDrive_takes]
    split
    · split
      · exact .inr (closeTake_recorder ..)
      · exact .inl rfl
    · exact .inl rfl
  · exact .inl rfl

/-- A drive whose axis is of no take recorded leaves the Take Store alone. -/
theorem driveTo_takes_apart (d : DriveState) (keep : Bool)
    (apart : ∀ r k, s.takes.recordingTake = some (r, k) → k.axes.getLsbD j.val = false) :
    (s.driveTo j d keep).takes = s.takes := by
  unfold State.driveTo State.leaveActive State.closeIfRecorded
  split
  · rw [State.modDrive_takes]
    split
    · rename_i r k recording
      rw [if_neg (by rw [apart r k recording]; exact Bool.false_ne_true)]
      rfl
    · rfl
  · rfl

/-- An ACTIVE drive of a take recorded ends the recording. -/
theorem driveTo_ends_recording (d : DriveState) (keep : Bool) (active : s.driveState j = .active) {r : Recorder} {k : Take}
    (recording : s.takes.recordingTake = some (r, k)) (recorded : k.axes.getLsbD j.val = true) :
    (s.driveTo j d keep).takes.recorder = none := by
  have there : (s.modChannel j fun c => c.giveUp (s.mode j)).takes.recordingTake = some (r, k) := recording
  rw [State.driveTo, State.modDrive_takes, State.leaveActive, if_pos active, State.closeIfRecorded, there]
  dsimp only
  rw [if_pos recorded]
  exact closeTake_recorder ..

/-- The drives of a list leave ACTIVE for PARKING, as PARK and the halt point have it. -/
def State.parkAxes (s : State) (l : List Axis) : State := l.foldl (fun t j => t.driveTo j .parking true) s

theorem parkAxes_eq (l : List Axis) (s : State) : s.parkAxes l =
    { s with
      links := (s.parkAxes l).links, takes := (s.parkAxes l).takes, channels := (s.parkAxes l).channels
      port := { s.port with drives := (s.parkAxes l).port.drives } } := by
  unfold State.parkAxes
  induction l generalizing s with
  | nil => rfl
  | cons j rest ih => rw [List.foldl_cons, ih, driveTo_eq s j .parking true]

/-- What a PARKING drive was asked of: its record and its axis. -/
structure DriveView where
  drive : Drive
  channel : AxisChannel
  entry : AuthEntry

def State.driveView (s : State) (j : Axis) : DriveView := ⟨s.port.drives.get j, s.channels.get j, s.auth.get j⟩

theorem driveTo_other (d : DriveState) (keep : Bool) (other : i ≠ j) : (s.driveTo i d keep).driveView j = s.driveView j := by
  rw [driveTo_eq]
  unfold State.driveView
  split
  · simp only [Tab.get_modify_other _ _ other.symm]
  · simp only [Tab.get_modify_other _ _ other.symm]

theorem driveTo_same (d : DriveState) (active : s.driveState j = .active) : (s.driveTo j d true).driveView j =
    ⟨{ s.port.drives.get j with state := d, wait := 0, followingError := false },
      (s.channels.get j).giveUp (s.mode j), s.auth.get j⟩ := by
  rw [driveTo_eq, if_pos active]
  simp only [State.driveView, Tab.get_modify_same]
  rfl

theorem parkAxes_other {l : List Axis} (other : j ∉ l) : (s.parkAxes l).driveView j = s.driveView j :=
  foldl_fixed (fun t => State.driveView t j) l
    (fun _ same i mem => (driveTo_other _ _ fun e : i = j => other (e ▸ mem)).trans same) s rfl

theorem parkAxes_mem {l : List Axis} (once : l.Nodup) (mem : j ∈ l) (active : s.driveState j = .active) :
    (s.parkAxes l).driveView j = ⟨{ s.port.drives.get j with state := .parking, wait := 0, followingError := false },
      (s.channels.get j).giveUp (s.mode j), s.auth.get j⟩ := by
  obtain ⟨before, after, -, same, last⟩ := foldl_at (fun t => State.driveView t j)
    (f := fun t j => State.driveTo t j .parking true) once mem (fun t b _ ne => driveTo_other _ _ ne) s
  have drive : (before.foldl (fun t j => State.driveTo t j .parking true) s).port.drives.get j = s.port.drives.get j :=
    congrArg DriveView.drive same
  have channel := congrArg DriveView.channel same
  have entry := congrArg DriveView.entry same
  dsimp only [State.driveView] at channel entry
  refine last.trans ((driveTo_same _ ?_).trans ?_)
  · rw [State.driveState, drive]; exact active
  · rw [State.mode, drive, channel, entry]
    rfl

theorem parkAxes_takes_apart (l : List Axis)
    (apart : ∀ r k, s.takes.recordingTake = some (r, k) → ∀ j ∈ l, k.axes.getLsbD j.val = false) :
    (s.parkAxes l).takes = s.takes :=
  foldl_fixed State.takes l (fun t same j mem => (driveTo_takes_apart _ _ fun r k recording =>
    apart r k (by rwa [same] at recording) j mem).trans same) s rfl

/-- A recording of an axis that leaves ACTIVE ends. -/
theorem parkAxes_ends_recording {l : List Axis} (once : l.Nodup) (mem : j ∈ l) (active : s.driveState j = .active)
    {r : Recorder} {k : Take} (recording : s.takes.recordingTake = some (r, k)) (recorded : k.axes.getLsbD j.val = true) :
    (s.parkAxes l).takes.recorder = none := by
  have idle (l : List Axis) (t : State) (h : t.takes.recorder = none) :
      (l.foldl (fun t j => State.driveTo t j .parking true) t).takes.recorder = none :=
    foldl_fixed (fun t : State => t.takes.recorder) l (fun u none j _ =>
      (driveTo_takes u j .parking true).elim (fun same => (congrArg _ same).trans none) id) t h
  obtain ⟨before, after, split, same, -⟩ := foldl_at (fun t => State.driveView t j)
    (f := fun t j => State.driveTo t j .parking true) once mem (fun t b _ ne => driveTo_other _ _ ne) s
  have stillActive : (before.foldl (fun t j => State.driveTo t j .parking true) s).driveState j = .active :=
    (congrArg (fun v => v.drive.state) same).trans active
  have kept : (before.foldl (fun t j => State.driveTo t j .parking true) s).takes = s.takes ∨
      (before.foldl (fun t j => State.driveTo t j .parking true) s).takes.recorder = none := by
    clear split same stillActive
    induction before using List.reverseRecOn with
    | nil => exact .inl rfl
    | append_singleton l i ih =>
      rw [List.foldl_append]
      rcases driveTo_takes (l.foldl (fun t j => State.driveTo t j .parking true) s) i .parking true with stays | ends
      · exact ih.imp (stays.trans ·) fun none => (congrArg _ stays).trans none
      · exact .inr ends
  unfold State.parkAxes
  rw [split, List.foldl_append, List.foldl_cons]
  refine idle after _ ?_
  rcases kept with takes | none
  · exact driveTo_ends_recording _ _ stillActive (by rw [takes]; exact recording) recorded
  · exact (driveTo_takes _ j .parking true).elim (fun stays => (congrArg _ stays).trans none) id

end Drives

/-- Settles O47: ENABLE and CLEAR_FAULT set the records of the set, and PARK takes each drive of the set out of ACTIVE. -/
theorem driveRequestsMoveTheirDrives : Obligations.DriveRequestsMoveTheirDrives := by
  rintro s st tag p w _ served decodes rfl nonempty inRange rights
  have lacks : (s.afterFrame st).lacksGroup st w = false := by
    rw [afterFrame_lacksGroup]
    exact lacksGroup_false rights
  refine ⟨fun calm ready => ?enable, fun rest => ?park, fun faults => ?clear⟩
  case enable =>
    exact ⟨_, request_taken (verdict := fun w t => State.enableVerdict t st w) (taken := fun w t => State.enableTaken t w)
      served decodes (enableVerdict_none nonempty inRange lacks calm ready), fun j => Tab.get_imap .., rfl⟩
  case clear =>
    exact ⟨_, request_taken (verdict := fun w t => State.clearFaultVerdict t st w)
      (taken := fun w t => State.clearFaultTaken t w)
      served decodes (clearFaultVerdict_none nonempty inRange lacks faults), fun j => Tab.get_imap .., rfl⟩
  case park =>
    have once := axesOf_nodup (w.setWidth 10)
    have member {j : Axis} : j ∈ axesOf (w.setWidth 10) ↔ (w.setWidth 10).getLsbD j.val = true := mem_axesOf
    have others (j : Axis) (other : ¬ (w.setWidth 10).getLsbD j.val = true) :
        ((s.afterFrame st).parkAxes (axesOf (w.setWidth 10))).driveView j = s.driveView j :=
      parkAxes_other fun mem => other (member.mp mem)
    have parked (j : Axis) (mem : (w.setWidth 10).getLsbD j.val = true) :=
      parkAxes_mem (s := s.afterFrame st) once (member.mpr mem) (rest j mem).1
    refine ⟨_, request_taken (verdict := fun w t => State.parkVerdict t st w) (taken := fun w t => State.parkTaken t w)
      served decodes (parkVerdict_none nonempty inRange lacks rest), fun j => ?drive, fun j => ?channel,
      fun r k recording => ⟨fun ⟨j, mem, recorded⟩ => ?closes, fun apart => ?apart⟩, fun idle => ?idle, ?frame⟩
    case drive =>
      by_cases mem : (w.setWidth 10).getLsbD j.val = true
      · rw [if_pos mem]; exact congrArg DriveView.drive (parked j mem)
      · rw [if_neg mem]; exact congrArg DriveView.drive (others j mem)
    case channel =>
      by_cases mem : (w.setWidth 10).getLsbD j.val = true
      · rw [if_pos mem]
        refine (congrArg DriveView.channel (parked j mem)).trans ?_
        dsimp only
        rw [AxisChannel.giveUp, State.afterFrame_mode, (rest j mem).2.1]
        rfl
      · rw [if_neg mem]; exact congrArg DriveView.channel (others j mem)
    case closes =>
      exact parkAxes_ends_recording (s := s.afterFrame st) once (member.mpr mem) (rest j mem).1 recording recorded
    case apart =>
      refine parkAxes_takes_apart (s := s.afterFrame st) _ fun r' k' recording' j mem => ?_
      rw [State.afterFrame_takes, recording] at recording'
      cases recording'
      exact apart j (member.mp mem)
    case idle =>
      refine parkAxes_takes_apart (s := s.afterFrame st) _ fun r' k' recording' => ?_
      rw [State.afterFrame_takes, idle] at recording'
      cases recording'
    case frame => exact parkAxes_eq (axesOf (w.setWidth 10)) (s.afterFrame st)

end Sys2Proof.Machine
end

section
/-! Settings, limits records and lens maps (O43, O45, O46). -/

namespace Sys2Proof.Machine

/-! ### The settings requests (R63, R85, R129, R167) -/

section Settings

variable {s : State} {st : Station}

theorem stationTableVerdict_none {tab : Tab 4 (Nat × Rights)} (right : s.holds st .config = true)
    (ranks : ∀ k, k ∈ [1, 2, 3, 4] → ∃ o, (tab.get o).1 = k) (config : ∃ o, hasRight (tab.get o).2 .config = true) :
    s.stationTableVerdict st tab = none := by
  have every : ∀ o : Station, o ∈ allStations := by decide
  have ranked : ranksValid tab = true := List.all_eq_true.mpr fun k mem => by
    obtain ⟨o, rank⟩ := ranks k mem
    exact List.any_eq_true.mpr ⟨o, every o, decide_eq_true rank⟩
  have held : someConfig tab = true := by
    obtain ⟨o, holds⟩ := config
    exact List.any_eq_true.mpr ⟨o, every o, holds⟩
  simp [State.stationTableVerdict, right, ranked, held]

theorem setUp_restarts {u : TimebaseUnit} {x : SyncSettings} : u.restarts x = true ↔
    x.counter ≠ u.settings.counter ∨ x.period ≠ u.settings.period ∨ x.threshold ≠ u.settings.threshold := by
  simp [TimebaseUnit.restarts, or_assoc]

end Settings

/-- Settles O43: each request that CONFIG allows and whose values lie in their ranges sets what it carries. -/
theorem settingsAreReplaced : Obligations.SettingsAreReplaced := by
  intro s st tag p served config
  have right : (s.afterFrame st).holds st .config = true := by rwa [State.afterFrame_holds]
  refine ⟨fun tab decodes ranks some => ?stations, fun n decodes low high => ?debounce,
    fun offset lead decodes inOffset inLead => ?play, fun a x decodes inRange => ?sync⟩
  case stations =>
    exact ⟨_, request_taken (verdict := fun a t => State.stationTableVerdict t st a) served decodes
      (stationTableVerdict_none right ranks some), fun o => Tab.get_imap .., rfl⟩
  case debounce =>
    refine request_taken (verdict := fun a t => State.debounceVerdict t st a) served decodes ?_
    simp only [State.debounceVerdict, right]
    rw [if_neg (by simp), if_neg (by omega)]
  case play =>
    refine request_taken (a := (offset, lead)) (verdict := fun a t => State.playSetupVerdict t st a.1 a.2) served decodes ?_
    simp only [State.playSetupVerdict, right]
    rw [if_neg (by simp), if_neg (by omega)]
  case sync =>
    have taken : (s.afterFrame st).syncSetupTaken a = { s.afterFrame st with time := s.time.setUp x } := by
      rw [State.syncSetupTaken, inRange]
      rfl
    have run := request_taken (tag := tag) (code := 22) (detail := []) (verdict := fun a t => State.syncSetupVerdict t st a)
      (taken := fun a t => State.syncSetupTaken t a) served decodes (by simp [State.syncSetupVerdict, config, inRange])
    rw [taken] at run
    refine ⟨s.time.setUp x, run, rfl, rfl, rfl, fun same => ?same, fun changed => ?changed, rfl⟩
    case same =>
      have stays : s.time.restarts x = false := by
        by_contra restarts
        rcases setUp_restarts.mp (by simpa using restarts) with counter | period | threshold
        · exact counter same.1
        · exact period same.2.1
        · exact threshold same.2.2
      simp [TimebaseUnit.setUp, stays]
    case changed => simp [TimebaseUnit.setUp, setUp_restarts.mpr changed]

/-! ### LOAD_LIMITS in two frames (R3, R4, R190) -/

section Held

variable {α : Type} {s : State} {st : Station} {tag code : Byte} {b p : List Byte} {decode : List Byte → Option α} {a : α}
  {serve : α → State → State × Answer}

/-- The state in which a request that completes a held one is decided. -/
def State.afterJoin (s : State) (st : Station) : State := (s.afterFrame st).clearAssembly st

theorem afterJoin_links (s : State) (st : Station) :
    (s.afterJoin st).links = s.links.modify st fun l => { l with badRun := 0, assembly := none } := by
  simp only [State.afterJoin, State.clearAssembly, State.modLink_links, State.afterFrame_links, Tab.modify_modify]

/-- A request whose held bytes have the same tag and code is decided on the bytes joined. -/
theorem request_joined (hears : s.Hears st p) (held : (s.links.get st).assembly = some ⟨tag, code, b⟩)
    (room : (s.links.get st).replies.length < 8) (noOverrun : (s.links.get st).overrun = none)
    (decodes : decode (b ++ p) = some a) : request st tag code p decode serve s =
      .next ((serve a (s.afterJoin st)).1.withReply st
        ⟨tag, code, (serve a (s.afterJoin st)).2.result, (serve a (s.afterJoin st)).2.detail⟩) := by
  have up : (s.links.get st).state = .up := hears.2.1
  rw [request, awake_next _ hears.1, State.takeRequest, onFrame_hears hears, afterFrame_assembly, held]
  dsimp only
  rw [if_pos ⟨rfl, rfl⟩, State.submit]
  have link : ((s.afterFrame st).clearAssembly st).links.get st = { s.links.get st with badRun := 0, assembly := none } := by
    rw [show ((s.afterFrame st).clearAssembly st).links = _ from afterJoin_links s st, Tab.get_modify_same]
  rw [link]
  simp [Link.isFull, noOverrun, maxReplies, Nat.not_le.mpr room, up, serveArgs, decodes, State.afterJoin]

@[simp] theorem afterJoin_holds (s : State) (st o : Station) (q : Right) :
    (s.afterJoin st).holds o q = s.holds o q := State.afterFrame_holds ..

end Held

theorem axisNumber_val (j : Axis) : axisNumber j.val = some j := dif_pos j.isLt

theorem loadLimitsVerdict_none {s : State} {st : Station} {j : Axis} {r : Limits} (config : s.holds st .config = true)
    (valid : validLimits j r = true) (rest : s.driveState j = .off ∨ s.driveState j = .parked)
    (apart : (s.mode j).underTake = false) : s.loadLimitsVerdict st j.val r = none := by
  simp [State.loadLimitsVerdict, config, axisNumber_val, valid, rest, apart]

theorem lensOf_none_iff {j : Axis} : lensOf j = none ↔ j.val < 7 := by
  unfold lensOf
  split
  · exact ⟨nofun, by omega⟩
  · exact ⟨fun _ => by omega, fun _ => rfl⟩

theorem lensAxis_val_ge (l : Lens) : ¬ (lensAxis l).val < 7 := by revert l; decide

/-- What a limits record taken leaves: the channel of its axis, and no valid map of a lens axis. -/
theorem setLimits_eq (s : State) (j : Axis) (r : Limits) : ∃ maps : Tab 3 LensMap,
    s.setLimits j r = { s with
      channels := s.channels.modify j fun c =>
        { c with limits := some r, commissioning := if j.val < 7 then .ready else .limited }
      maps := maps } ∧
    ∀ l, maps.get l = if lensAxis l = j then { s.maps.get l with map := none } else s.maps.get l := by
  unfold State.setLimits
  split
  · rename_i motion
    refine ⟨s.maps, ?_, fun l => ?_⟩
    · rw [if_pos (lensOf_none_iff.mp motion)]
      rfl
    · rw [if_neg]
      rintro rfl
      exact lensAxis_val_ge l (lensOf_none_iff.mp motion)
  · rename_i k lens
    obtain rfl := lensOf_eq_some.mp lens
    refine ⟨s.maps.modify k fun m => { m with map := none }, ?_, fun l => ?_⟩
    · rw [if_neg (lensAxis_val_ge k)]
      rfl
    · rw [Tab.get_modify]
      by_cases same : l = k
      · rw [if_pos same, if_pos (congrArg _ same), same]
      · rw [if_neg same, if_neg fun e => same (by simpa [lensOf_lensAxis] using congrArg lensOf e)]

/-- Settles O45: the joined bytes decide the request, and the record taken changes one channel. -/
theorem limitsAreLoaded : Obligations.LimitsAreLoaded := by
  intro s st tag b p j r hears held room noOverrun decodes config valid rest apart
  obtain ⟨maps, taken, invalid⟩ := setLimits_eq (s.afterJoin st) j r
  have verdict : (s.afterJoin st).loadLimitsVerdict st j.val r = none :=
    loadLimitsVerdict_none (by rwa [afterJoin_holds]) valid rest apart
  have run : exec (.loadLimits st tag p) s = .next (((s.afterJoin st).setLimits j r).withReply st ⟨tag, 6, .ok, []⟩) := by
    refine (request_joined hears held room noOverrun decodes).trans ?_
    dsimp only
    rw [verdict, judged_taken, State.loadLimitsTaken, axisNumber_val]
  rw [taken] at run
  refine ⟨_, run, Tab.get_modify_same .., fun i other => Tab.get_modify_other _ _ other, invalid, ?frame⟩
  case frame =>
    rw [afterJoin_links]
    rfl

/-! ### Building and loading a lens map (R30 to R34, R38, R150) -/

section Maps

variable {s : State} {st : Station} {l : Lens} {count first : Nat} {ps : List (Nat × Int)}
  {slots : List (Option (Nat × Int))} {lim : Limits} {mp : MapPoints}

theorem lensNumber_add (l : Lens) : lensNumber (l.val + 7) = some l := by revert l; decide

theorem mapOpenVerdict_none (config : s.holds st .config = true) (low : 2 ≤ count) (high : count ≤ 24) :
    s.mapOpenVerdict st (l.val + 7) count = none := by
  rw [State.mapOpenVerdict, if_neg (by simp [config]), lensNumber_add, if_neg]
  rintro (none | short | long)
  · cases none
  · omega
  · omega

theorem stagedSlots_eq (staged : s.mapStaging.get l = some ⟨st, slots⟩) : s.stagedSlots l st = some slots := by
  rw [State.stagedSlots, staged]
  exact if_pos rfl

theorem mapPointsVerdict_none (config : s.holds st .config = true) (staged : s.mapStaging.get l = some ⟨st, slots⟩)
    (low : 1 ≤ first) (high : first ≤ 24) (fits : first + ps.length ≤ slots.length + 1)
    (inRange : ∀ q ∈ ps, (userRange l).1 ≤ q.1 ∧ q.1 ≤ (userRange l).2) :
    s.mapPointsVerdict st (l.val + 7) first ps = none := by
  have slot : badSlot first = false := by
    rw [badSlot, decide_eq_false (by omega), decide_eq_false (by omega)]
    rfl
  have points : ps.any (outsideRange l) = false := List.any_eq_false.mpr fun q mem => by
    obtain ⟨lo, hi⟩ := inRange q mem
    simp [outsideRange, lo, hi]
  rw [State.mapPointsVerdict, if_neg (by simp [config]), lensNumber_add]
  dsimp only
  rw [slot, stagedSlots_eq staged]
  dsimp only
  rw [if_neg Bool.false_ne_true, if_neg (by omega), points]
  rfl

/-- The points stand in their slots in order, and every other slot stays. -/
theorem putPoints_get (ps : List (Nat × Int)) (slots : List (Option (Nat × Int))) (place i : Nat)
    (fits : place + ps.length ≤ slots.length) : (putPoints slots place ps)[i]? =
      if place ≤ i ∧ i < place + ps.length then ps[i - place]?.map some else slots[i]? := by
  induction ps generalizing slots place with
  | nil => rw [putPoints, if_neg (by simp)]
  | cons q rest ih =>
    rw [List.length_cons] at fits ⊢
    rw [putPoints, ih _ _ (by rw [List.length_set]; omega), List.getElem?_set]
    by_cases here : i = place
    · subst here
      rw [if_neg (by omega), if_pos rfl, if_pos (by omega), if_pos (by omega), Nat.sub_self]
      rfl
    · by_cases inside : place + 1 ≤ i ∧ i < place + 1 + rest.length
      · rw [if_pos inside, if_pos (by omega), show i - place = (i - (place + 1)) + 1 by omega, List.getElem?_cons_succ]
      · rw [if_neg inside, if_neg (Ne.symm here), if_neg (by omega)]

theorem fullSlots_map_some (ps : List (Nat × Int)) : fullSlots (ps.map some) = some ps := by
  induction ps with
  | nil => rfl
  | cons q rest ih => rw [List.map_cons, fullSlots, ih]; rfl

theorem stagedMap_eq (limits : s.limits (lensAxis l) = some lim) (map : mapOf l lim ps = some mp) :
    s.stagedMap l (ps.map some) = some mp := by
  rw [State.stagedMap, fullSlots_map_some, limits]
  exact map

theorem loadMapVerdict_none (config : s.holds st .config = true) (staged : s.mapStaging.get l = some ⟨st, ps.map some⟩)
    (limits : s.limits (lensAxis l) = some lim) (map : mapOf l lim ps = some mp)
    (set : (s.channels.get (lensAxis l)).commissioning ≠ .unset)
    (free : s.driveState (lensAxis l) = .off ∨ s.driveState (lensAxis l) = .parked ∨
      (s.mode (lensAxis l)).underTake = false) : s.loadMapVerdict st (l.val + 7) = none := by
  have allowed : s.mapBarred l = false := by
    rw [State.mapBarred, decide_eq_false set, Bool.false_or]
    rcases free with off | parked | apart
    · simp [off]
    · simp [parked]
    · simp [apart]
  rw [State.loadMapVerdict, if_neg (by simp [config]), lensNumber_add]
  dsimp only
  rw [stagedSlots_eq staged]
  dsimp only
  rw [allowed, stagedMap_eq limits map]
  rfl

theorem loadMapTaken_eq (staged : s.mapStaging.get l = some ⟨st, ps.map some⟩)
    (limits : s.limits (lensAxis l) = some lim) (map : mapOf l lim ps = some mp) :
    s.loadMapTaken st (l.val + 7) = s.installMap l mp := by
  rw [State.loadMapTaken, lensNumber_add]
  dsimp only
  rw [stagedSlots_eq staged]
  dsimp only
  rw [stagedMap_eq limits map]

end Maps

/-- Settles O46: the staging record of the axis is opened and filled, and a map that the points make is installed. -/
theorem lensMapsAreBuiltAndLoaded : Obligations.LensMapsAreBuiltAndLoaded := by
  intro s st tag p l served config
  have right : (s.afterFrame st).holds st .config = true := by rwa [State.afterFrame_holds]
  refine ⟨fun count decodes low high => ?opens, fun first ps slots decodes staged low high fits inRange => ?points,
    fun ps lim mp decodes staged limits map set free => ?loads⟩
  case opens =>
    have run := request_taken (a := (l.val + 7, count)) (tag := tag) (code := 7) (detail := [])
      (verdict := fun a t => State.mapOpenVerdict t st a.1 a.2) (taken := fun a t => State.mapOpenTaken t st a.1 a.2) served
      decodes (mapOpenVerdict_none right low high)
    dsimp only at run
    rw [State.mapOpenTaken, lensNumber_add] at run
    exact run
  case points =>
    have run := request_taken (a := (l.val + 7, first, ps)) (tag := tag) (code := 8) (detail := [])
      (verdict := fun a t => State.mapPointsVerdict t st a.1 a.2.1 a.2.2)
      (taken := fun a t => State.mapPointsTaken t a.1 a.2.1 a.2.2) served decodes
      (mapPointsVerdict_none right staged low high fits inRange)
    dsimp only at run
    rw [State.mapPointsTaken, lensNumber_add] at run
    dsimp only at run
    rw [Tab.modify, State.afterFrame_mapStaging, staged] at run
    refine ⟨_, run, fun i => ?_⟩
    rw [putPoints_get ps slots (first - 1) i (by omega)]
    by_cases inside : first ≤ i + 1 ∧ i + 1 < first + ps.length
    · rw [if_pos inside, if_pos (by omega), show i - (first - 1) = i + 1 - first by omega]
    · rw [if_neg inside, if_neg (by omega)]
  case loads =>
    have run := request_taken (a := l.val + 7) (tag := tag) (code := 9) (detail := [])
      (verdict := fun n t => State.loadMapVerdict t st n) (taken := fun n t => State.loadMapTaken t st n) served decodes
      (loadMapVerdict_none right staged limits map set free)
    rw [loadMapTaken_eq (s := s.afterFrame st) staged limits map] at run
    refine ⟨_, run, Tab.get_modify_same .., fun k other => Tab.get_modify_other _ _ other, rfl,
      congrArg AxisChannel.commissioning (Tab.get_modify_same ..), fun m x u moving kept => ?target,
      fun j other => Tab.get_modify_other _ _ other, fun i k d recording member data => ?mixed,
      fun i k r closed => ?closed, rfl⟩
    case target =>
      refine (congrArg AxisChannel.moving (Tab.get_modify_same ..)).trans ?_
      rw [State.afterFrame_channels, moving]
      simp only [Option.map_some, Target.remapped, kept]
      rfl
    case mixed =>
      refine (Tab.get_map ..).trans ?_
      rw [State.modChannel_takes, State.afterFrame_takes, recording, TakeSlot.mixed, if_pos member, data]
      rfl
    case closed =>
      refine (Tab.get_map ..).trans ?_
      rw [State.modChannel_takes, State.afterFrame_takes, closed]
      rfl

end Sys2Proof.Machine
end

section
/-! Stops (O22, O23, O24, O31, O49, O50): drives that enter FAULT, the halt timer, stale marks, the emergency-stop chain,
STOP_REQUEST and RELEASE_STOP. -/

namespace Sys2Proof.Machine

/-! ### What a raise keeps of one drive, one channel and the Stop Controller -/

section Raise

variable {s : State} {c : Cause} {l : Nat} {j : Axis}

/-- A drive record that no raise changes stays through a raise and its judgement. -/
theorem raise_drive_fixed (fixed : ∀ n, (s.port.drives.get j).onRaise n = s.port.drives.get j) :
    (s.raise c l).port.drives.get j = s.port.drives.get j :=
  State.raise_keeps (P := fun t => t.port.drives.get j = s.port.drives.get j) c l (fun _ h => h)
    (fun t z b h => by rwa [State.modZone_port]) (fun t z h => by rw [raiseOnce_drive, h, fixed])
    (by rw [raiseOnce_drive, fixed])

theorem onRaise_unpowered {d : Drive} (n : Nat) (unpowered : d.state.powered = false) : d.onRaise n = d := by
  cases state : d.state <;> simp [state, DriveState.powered] at unpowered <;> simp [Drive.onRaise, state]

theorem raiseOnce_moving_none (h : (s.channels.get j).moving = none) : ((s.raiseOnce c l).channels.get j).moving = none := by
  simp only [State.raiseOnce, State.portOnRaise, Tab.get_imap]
  rw [(closeTake_frame _ .interrupted).2.2.1]
  have engine : ((s.takeRaise c l).generatorOnRaise.engineOnRaise.channels.get j).moving = none := by
    have same := (engineOnRaise_sameAxis (s.takeRaise c l).generatorOnRaise j).1
    rw [(takeRaise_frame s c l).2.2.1, h] at same
    simpa using same
  split
  · rfl
  · exact engine

/-- A raise gives no axis a setpoint. -/
theorem raise_moving_none (h : (s.channels.get j).moving = none) : ((s.raise c l).channels.get j).moving = none :=
  State.raise_keeps (P := fun t => (t.channels.get j).moving = none) c l (fun _ h => h)
    (fun t z b h => by rwa [State.modZone_channels]) (fun t z h => raiseOnce_moving_none h) (raiseOnce_moving_none h)

/-- What the judgement of the chain stands at, which a raise leaves alone. -/
theorem raise_chain (s : State) (c : Cause) (l : Nat) :
    (s.raise c l).stop.chain = s.stop.chain ∧ (s.raise c l).stop.chainSplit = s.stop.chainSplit ∧
      (s.raise c l).stop.localReset = s.stop.localReset :=
  State.raise_keeps (P := fun t => t.stop.chain = s.stop.chain ∧ t.stop.chainSplit = s.stop.chainSplit ∧
      t.stop.localReset = s.stop.localReset) c l (fun _ h => h) (fun t z b h => by rwa [State.modZone_stop])
    (fun t z h => by rw [State.raiseOnce_stop]; exact h) (by rw [State.raiseOnce_stop]; exact ⟨rfl, rfl, rfl⟩)

/-- A raise to level 3 clears local-reset-seen. -/
theorem raise_localResetSeen (s : State) (c : Cause) : (s.raise c 3).stop.localResetSeen = false :=
  State.raise_keeps (P := fun t => t.stop.localResetSeen = false) c 3 (fun _ h => h)
    (fun t z b h => by rwa [State.modZone_stop])
    (fun t z h => by rw [State.raiseOnce_stop, StopController.raised]; exact h) (by rw [State.raiseOnce_stop]; rfl)

/-- A raise to level 3 from below it leaves no halt timer. -/
theorem raise_haltTimer (s : State) (c : Cause) (idle : s.stop.haltTimer = none) :
    (s.raise c 3).stop.haltTimer = none :=
  (State.raise_keeps (P := fun t => t.stop.haltTimer = none ∧ 3 ≤ t.stop.level) c 3 (fun _ h => h)
    (fun t z b h => by rwa [State.modZone_stop])
    (fun t z h => by
      rw [State.raiseOnce_stop]
      refine ⟨?_, le_trans h.2 (le_max_left ..)⟩
      have above : ¬ t.stop.level < 2 := by omega
      simp [StopController.raised, StopController.haltAfter, above, h.1])
    (by
      rw [State.raiseOnce_stop]
      refine ⟨?_, le_max_right ..⟩
      simp [StopController.raised, StopController.haltAfter, idle])).1

end Raise

/-! ### A drive that enters FAULT (R54) -/

theorem driveTo_changedByAStop (s : State) (j : Axis) (d : DriveState) (keep : Bool) :
    s.ChangedByAStop (s.driveTo j d keep) := by
  unfold State.ChangedByAStop
  rw [driveTo_eq]

/-- An ACTIVE drive that leaves its state leaves its axis without a setpoint. -/
theorem driveTo_moving_none {s : State} {j : Axis} (active : s.driveState j = .active) (d : DriveState) (keep : Bool) :
    ((s.driveTo j d keep).channels.get j).moving = none := by
  rw [driveTo_eq, if_pos active]
  exact congrArg AxisChannel.moving (Tab.get_modify_same ..)

theorem driveTo_drive (s : State) (j : Axis) (d : DriveState) (keep : Bool) : (s.driveTo j d keep).port.drives.get j =
    { s.port.drives.get j with
      state := d, silence := if keep then (s.port.drives.get j).silence else 0, wait := 0, followingError := false } := by
  rw [driveTo_eq]
  exact Tab.get_modify_same ..

theorem driveTo_stop (s : State) (j : Axis) (d : DriveState) (keep : Bool) : (s.driveTo j d keep).stop = s.stop := by
  rw [driveTo_eq]

/-- The record of a drive that has entered FAULT. -/
theorem driveFaults_drive (s : State) (j : Axis) (c : Cause) : (s.driveFaults j c).port.drives.get j =
    { s.port.drives.get j with state := .fault, silence := 0, wait := 0, followingError := false } := by
  have drive := driveTo_drive s j .fault false
  exact (raise_drive_fixed fun n => onRaise_unpowered n (by rw [drive]; rfl)).trans drive

theorem driveFaults_faulted (s : State) (j : Axis) (c : Cause) : s.DriveFaulted (s.driveFaults j c) j c := by
  have drive := driveFaults_drive s j c
  refine ⟨congrArg Drive.state drive, congrArg Drive.wait drive, congrArg Drive.silence drive,
    congrArg Drive.followingError drive, fun active => raise_moving_none (driveTo_moving_none active _ _), ?_,
    raise_memory _ _ _ _ (.inl rfl), State.raise_generator .., raise_changedByAStop _ _ (driveTo_changedByAStop ..)⟩
  rw [State.driveFaults, State.raise_level c le_rfl, driveTo_stop]

/-! ### Timeouts of drives (R47, R50, R52) -/

section Timeouts

variable {s : State} {j : Axis}

theorem waitRunsOut_due {d : DriveState} {n : Nat} (state : s.driveState j = d) (first : s.silenceFirst j d = false)
    (limit : waitLimit d = some n) (due : n ≤ (s.port.drives.get j).wait + 1) :
    s.waitRunsOut j d = s.driveFaults j (.driveFault j) := by
  rw [State.waitRunsOut, if_pos ⟨state, first⟩, limit]
  exact if_pos due

theorem waitRunsOut_silence {d : DriveState} (first : s.driveState j = d → s.silenceFirst j d = true) :
    s.waitRunsOut j d = s := if_neg fun ⟨state, other⟩ => by rw [first state] at other; cases other

theorem exec_wakeTimeout (running : s.sysreset = false) : exec (.wakeTimeout j) s = .next (s.waitRunsOut j .waking) := by
  show execWakeTimeout j s = _
  rw [execWakeTimeout, awake_next _ running]

theorem exec_parkTimeout (running : s.sysreset = false) : exec (.parkTimeout j) s = .next (s.waitRunsOut j .parking) := by
  show execParkTimeout j s = _
  rw [execParkTimeout, awake_next _ running]

end Timeouts

/-- Settles O22: each timeout that no silence comes before takes its drive to FAULT, and the third unanswered frame does. -/
theorem driveTimeoutsFault : Obligations.DriveTimeoutsFault := by
  intro s j running
  have anySilent {i : Axis} (silent : s.fallsSilent i = true) : allAxes.any s.fallsSilent = true :=
    List.any_eq_true.mpr ⟨i, (by decide : ∀ i : Axis, i ∈ allAxes) i, silent⟩
  refine ⟨fun waking due none => ?wake, fun parking due notSilent => ?park,
    fun f sent asked unanswered powered two => ?silent⟩
  case wake =>
    have first : s.silenceFirst j .waking = false := by
      rw [State.silenceFirst, none j, List.any_eq_false.mpr fun i _ => by rw [none i]; exact Bool.false_ne_true]
      rfl
    rw [exec_wakeTimeout running, waitRunsOut_due waking first rfl (Nat.succ_le_succ due)]
    exact ⟨_, rfl, driveFaults_faulted ..⟩
  case park =>
    have first : s.silenceFirst j .parking = false := by
      rw [State.silenceFirst, notSilent]
      rfl
    rw [exec_parkTimeout running, waitRunsOut_due parking first rfl (Nat.succ_le_succ due)]
    exact ⟨_, rfl, driveFaults_faulted ..⟩
  case silent =>
    have silent : s.fallsSilent j = true := by
      rw [State.fallsSilent, State.unanswered, sent]
      simp [powered, asked, unanswered]
      omega
    refine ⟨?_, fun i => ?_, ?_⟩
    · rw [exec_parkTimeout running, waitRunsOut_silence fun _ => by rw [State.silenceFirst, silent]; rfl]
    · rw [exec_wakeTimeout running, waitRunsOut_silence fun _ => by
        rw [State.silenceFirst, anySilent silent]
        simp]
    · show ∃ t, execDriveSilent j s = .next t ∧ _
      rw [execDriveSilent, awake_next _ running, if_pos silent]
      exact ⟨_, rfl, driveFaults_faulted ..⟩

/-! ### The halt timer (R113) -/

/-- Settles O23: with a drive powered the timer raises HALT_TIMEOUT at level 3, and otherwise it only ends. -/
theorem haltTimerRunsOut : Obligations.HaltTimerRunsOut := by
  intro s n running level timer due
  have run : exec .haltTimeout s = .next s.haltRunsOut := by
    show execHaltTimeout s = _
    rw [execHaltTimeout, awake_next _ running, timer]
    exact congrArg _ (if_pos (Nat.succ_le_succ due))
  refine ⟨fun i powered => ?raises, fun none => ?ends⟩
  case raises =>
    have any : s.anyPowered = true := List.any_eq_true.mpr ⟨i, (by decide : ∀ i : Axis, i ∈ allAxes) i, powered⟩
    have below : s.stop.level < 3 := by omega
    rw [run, State.haltRunsOut, if_pos any]
    obtain ⟨top, unpowered⟩ := raise_unpowered { s with stop := { s.stop with haltTimer := none } } .haltTimeout below.le
    exact ⟨_, rfl, top, raise_cut _ _ below, raise_haltTimer _ _ rfl, raise_memory _ _ _ _ (.inl rfl), unpowered,
      raise_changedByAStop _ _ rfl⟩
  case ends =>
    have noneAny : s.anyPowered = false := List.any_eq_false.mpr fun i _ => by rw [none i]; exact Bool.false_ne_true
    rw [run, State.haltRunsOut, if_neg (by simp [noneAny])]

/-! ### Stale marks (R72) -/

/-- Settles O24: the mark and its effect on entry and channel are given axis by axis. -/
theorem staleMarkStopsItsAxes : Obligations.StaleMarkStopsItsAxes := by
  intro s st running up due
  have run : exec (.staleMark st) s = .next ((s.modStation st fun r => { r with lastMove := 20 }).markStale st) := by
    show execStaleMark st s = _
    rw [execStaleMark, awake_next _ running, if_pos ⟨up, Nat.succ_le_succ due⟩]
  refine ⟨_, run, Tab.get_modify_same .., fun o other => Tab.get_modify_other _ _ other,
    fun j owner manual fresh => ⟨(Tab.get_map ..).trans (if_pos ⟨owner, manual, fresh⟩),
      (Tab.get_imap ..).trans (if_pos ⟨owner, manual, fresh⟩)⟩,
    fun j other => ⟨(Tab.get_map ..).trans (if_neg other), (Tab.get_imap ..).trans (if_neg other)⟩, rfl⟩

/-! ### The emergency-stop chain (R114, R116) -/

section Chain

variable {s : State} {r : ChainReading} {pressed : Bool}

theorem exec_chainSample (running : s.sysreset = false) (a b : Bool) :
    exec (.chainSample a b pressed) s = .next (s.chainSample (chainReading a b) pressed) := by
  show execChainSample a b pressed s = _
  rw [execChainSample, awake_next _ running]

theorem chainReading_split {a b : Bool} (h : a ≠ b) : chainReading a b = .split := if_pos h

theorem press_off_closed {k : StopController} (h : k.chain ≠ .closed) :
    k.press pressed = { k with localReset := pressed } := by
  rw [StopController.press, if_neg fun ⟨_, _, _, closed⟩ => h closed]

/-- What a sample that raises ESTOP_CHAIN leaves, with the chain judged `x`. -/
theorem sampleChain_raises (s : State) {x : ChainState} (next : s.stop.chainNext r = x)
    (raises : s.stop.chainRaises r = true) : (s.sampleChain r).stop.chain = x ∧
      (s.sampleChain r).stop.chainSplit = (if r = .split then min 21 (s.stop.chainSplit + 1) else 0) ∧
      (s.sampleChain r).stop.level = max s.stop.level 3 ∧ .estopChain ∈ (s.sampleChain r).stop.memory ∧
      (s.sampleChain r).stop.localResetSeen = false ∧ (s.stop.level < 3 → (s.sampleChain r).stop.cut = true) ∧
      (s.stop.level ≤ 3 → ∀ j, ((s.sampleChain r).driveState j).powered = false) ∧ s.ChangedByAStop (s.sampleChain r) := by
  rw [State.sampleChain, if_pos raises]
  obtain ⟨u, judged⟩ : ∃ u, { s with stop := s.stop.judgeChain r } = u := ⟨_, rfl⟩
  have changed : s.ChangedByAStop u := by subst judged; rfl
  have level : u.stop.level = s.stop.level := by subst judged; rfl
  obtain ⟨chain, split, -⟩ := raise_chain u .estopChain 3
  rw [judged]
  refine ⟨chain.trans (by subst judged; exact next), split.trans (by subst judged; rfl),
    (State.raise_level _ (by decide)).trans (by rw [level]), raise_memory u _ _ 3 (.inl rfl), raise_localResetSeen u _,
    fun below => raise_cut u _ (by rwa [level]), fun top => (raise_unpowered u _ (by rwa [level])).2,
    raise_changedByAStop _ _ changed⟩

theorem chainNext_fault (count : 20 ≤ s.stop.chainSplit) : s.stop.chainNext .split = .fault :=
  if_pos (.inl (Nat.succ_le_succ count))

theorem chainRaises_fault (count : 20 ≤ s.stop.chainSplit) (other : s.stop.chain ≠ .fault) :
    s.stop.chainRaises .split = true := by
  simp [StopController.chainRaises, chainNext_fault count, other]

/-- The state with the chain part of a sample marked as taken ahead, or no more so. -/
def State.chainTaken (s : State) (b : Bool) : State := { s with taken := { s.taken with chain := b } }

theorem changedByAStop_taken {t : State} {b : Bool} (h : (s.chainTaken b).ChangedByAStop t) :
    { s with taken := t.taken }.ChangedByAStop t := by
  unfold State.ChangedByAStop at h ⊢
  rw [h]
  rfl

theorem changedByAStop_withStop {t u : State} (h : u.ChangedByAStop t) (k : StopController) :
    u.ChangedByAStop { t with stop := k } := by
  unfold State.ChangedByAStop at h ⊢
  rw [h]

/-- A press after a sample that has left the chain other than CLOSED. -/
theorem chainSample_judged (free : ¬(s.taken.chain = true ∧ r = .split))
    (judged : ((s.chainTaken false).sampleChain r).stop.chain ≠ .closed) :
    s.chainSample r pressed =
      { (s.chainTaken false).sampleChain r with
        stop := { ((s.chainTaken false).sampleChain r).stop with
          localReset := pressed } } := by
  rw [State.chainSample]
  dsimp only
  rw [if_neg free]
  exact congrArg (fun k => { (s.chainTaken false).sampleChain r with stop := k }) (press_off_closed judged)

end Chain

/-- Settles O31: each reading of the chain, judged before the press. -/
theorem chainSamplesAreJudged : Obligations.ChainSamplesAreJudged := by
  intro s pressed running
  refine ⟨?closed, fun other => ?opens, fun taken a b differ notClosed => ?passed,
    fun free count notFault a b differ => ?splits, fun free count notFault c which => ?faults⟩
  case closed =>
    rw [exec_chainSample running]
    simp [State.chainSample, chainReading, State.sampleChain, StopController.chainRaises, StopController.judgeChain,
      StopController.chainNext, StopController.press]
  case opens =>
    have facts := sampleChain_raises (r := .bothOpen) (s.chainTaken false) rfl
      (by simp [StopController.chainRaises, State.chainTaken, other])
    obtain ⟨chain, split, level, memory, seen, cut, unpowered, changed⟩ := facts
    rw [exec_chainSample running, show chainReading true true = .bothOpen from rfl,
      chainSample_judged (by simp) (by rw [chain]; exact ChainState.noConfusion)]
    refine ⟨_, rfl, chain, split, level, memory, seen, cut, unpowered,
      changedByAStop_taken (changedByAStop_withStop changed _)⟩
  case passed =>
    rw [exec_chainSample running, chainReading_split differ, State.chainSample]
    dsimp only
    rw [if_pos ⟨taken, rfl⟩, press_off_closed notClosed]
  case splits =>
    have next : s.stop.chainNext .split = .split := if_neg (by rintro (many | fault); omega; exact notFault fault)
    have same : s.chainTaken false = s := by rw [← free]; rfl
    have judged : s.sampleChain .split = { s with stop := s.stop.judgeChain .split } :=
      if_neg (by simp [StopController.chainRaises, next])
    rw [exec_chainSample running, chainReading_split differ, chainSample_judged (by simp [free]) (by
      rw [same, judged]
      exact (by simp [StopController.judgeChain, next])), same, judged]
    have counted : (s.stop.judgeChain .split).chainSplit = s.stop.chainSplit + 1 := by
      rw [StopController.judgeChain, if_pos rfl, min_eq_right (by omega)]
    exact ⟨_, rfl, next, counted, rfl, rfl, rfl⟩
  case faults =>
    have split (t : State) (stop : t.stop = s.stop) := sampleChain_raises (r := .split) t (x := .fault)
      (by rw [stop]; exact chainNext_fault count) (by rw [stop]; exact chainRaises_fault count notFault)
    have limit : min 21 (s.stop.chainSplit + 1) = 21 := by omega
    have sample (a b : Bool) (differ : a ≠ b) : ∃ t : State, exec (.chainSample a b pressed) s = .next t ∧
        t.stop.chain = .fault ∧ t.stop.chainSplit = 21 ∧ t.stop.level = max s.stop.level 3 ∧
        .estopChain ∈ t.stop.memory ∧ { s with taken := t.taken }.ChangedByAStop t := by
      obtain ⟨chain, count, level, memory, -, -, -, changed⟩ := split (s.chainTaken false) rfl
      rw [exec_chainSample running, chainReading_split differ, chainSample_judged (by simp [free]) (by rw [chain]; exact ChainState.noConfusion)]
      refine ⟨_, rfl, chain, count.trans limit, level, memory,
        changedByAStop_taken (changedByAStop_withStop changed _)⟩
    rcases which with rfl | rfl | rfl
    · obtain ⟨chain, splits, level, memory, -, -, -, changed⟩ := split (s.chainTaken true) rfl
      show ∃ t, execChainSplitFault s = .next t ∧ _
      rw [execChainSplitFault, awake_next _ running, if_pos ⟨chainNext_fault count, notFault⟩]
      refine ⟨_, rfl, chain, splits.trans limit, level, memory, changedByAStop_taken changed⟩
    · exact sample true false nofun
    · exact sample false true nofun

/-! ### STOP_REQUEST (R112) -/

/-- The record that the first raise from an IDLE engine makes. -/
theorem raise_record {s : State} {c : Cause} {n : Nat} (lifts : s.stop.level < n) (idle : s.play.state = .idle) :
    (s.raise c n).stop.primaryCause = some c ∧ (s.raise c n).stop.primaryRecord = some s.stop.nextSequence ∧
      (s.raise c n).stop.nextSequence = (s.stop.nextSequence + 1) % 65536 ∧
      (s.raise c n).stop.records = (s.stopRecord c n :: s.stop.records).take 8 := by
  have records : s.stop.records? c n = true := by simp [StopController.records?, lifts]
  rw [raise_idle s c n idle, State.raiseOnce_stop]
  simp only [StopController.raised, lifts, records, if_true, and_self]

theorem stopRecord_idle {s : State} {c : Cause} {n : Nat} (lifts : s.stop.level < n) (idle : s.play.state = .idle) :
    s.stopRecord c n = ⟨s.stop.nextSequence, s.time.now, c, n, false, none, s.setpointsNow, none⟩ := by
  simp [State.stopRecord, State.playbackPosition, idle, lifts, max_eq_right lifts.le]

/-- Settles O49: the request is the raise, and what it leaves is what a raise leaves. -/
theorem stopRequestsStopTheCrane : Obligations.StopRequestsStopTheCrane := by
  intro s st tag p n served decodes low high top
  have run := request_taken (tag := tag) (code := 18) (detail := []) (verdict := fun n _ => stopRequestVerdict n)
    (taken := fun n t => State.raise t (.stopRequest st) n) served decodes (if_neg (by omega))
  obtain ⟨still, recorder⟩ := raise_stopsTakes (s.afterFrame st) (.stopRequest st) n
  refine ⟨_, run, ?reply, State.le_raise_level (s := s.afterFrame st) _ _, fun two => State.raise_level (s := s.afterFrame st) _ two,
    raise_memory _ _ _ _ (.inl rfl), State.raise_generator .., recorder, still, ?three, fun lifts idle => ?record, ?frame⟩
  case reply =>
    rw [State.withReply_links, Tab.get_modify_same]
    refine congrArg (· ++ _) ((raise_replies ..).trans ?_)
    rw [afterFrame_link]
  case three =>
    rintro rfl
    exact ⟨fun below => raise_cut (s.afterFrame st) _ below, (raise_unpowered (s.afterFrame st) _ top).2⟩
  case record =>
    obtain ⟨cause, number, next, records⟩ := raise_record (s := s.afterFrame st) (c := .stopRequest st) lifts idle
    refine ⟨cause, number, next, _, records, ?_⟩
    rw [stopRecord_idle (s := s.afterFrame st) lifts idle]
    exact ⟨rfl, rfl, rfl, rfl, rfl, rfl, rfl, fun j => Tab.get_map ..⟩
  case frame =>
    have changed : { s with stations := (s.afterFrame st).stations }.ChangedByAStop (s.afterFrame st) := rfl
    have raised := raise_changedByAStop (.stopRequest st) n changed
    unfold State.ChangedByAStop at raised ⊢
    rw [raised]
    rfl

/-! ### RELEASE_STOP (R118, R119, R120) -/

section Release

variable {s : State} {st : Station}

/-- The authority that the level in force asks for (R118). -/
theorem mayRelease_iff (above : s.stop.level = 1 ∨ s.stop.level = 2 ∨ s.stop.level = 3) : s.mayRelease st = true ↔
    (s.stop.level = 1 ∧ ((∃ j, (s.auth.get j).owner = some st) ∨ s.holds st .play = true ∨ s.holds st .release2 = true)) ∨
      (s.stop.level = 2 ∧ s.holds st .release2 = true) ∨
      (s.stop.level = 3 ∧ s.holds st .release2 = true ∧ s.stop.localResetSeen = true) := by
  have owns : s.ownsAny st = true ↔ ∃ j, (s.auth.get j).owner = some st := by
    rw [State.ownsAny, List.any_eq_true]
    exact ⟨fun ⟨j, _, h⟩ => ⟨j, of_decide_eq_true h⟩,
      fun ⟨j, h⟩ => ⟨j, (by decide : ∀ j : Axis, j ∈ allAxes) j, decide_eq_true h⟩⟩
  rcases above with one | two | three
  · simp [State.mayRelease, one, owns, or_assoc]
  · simp [State.mayRelease, two]
  · simp [State.mayRelease, three]

@[simp] theorem afterFrame_mayRelease (o : Station) : (s.afterFrame o).mayRelease st = s.mayRelease st := by
  simp only [State.mayRelease, State.afterFrame_holds, State.afterFrame_stop]
  rfl

theorem exec_releaseStop_refused {tag : Byte} {a : Answer} (served : s.Serves st [])
    (refused : s.releaseStopVerdict st = some a) :
    exec (.releaseStop st tag []) s = .next (s.answered st tag 19 a.result a.detail) := by
  refine request_answered (a := ()) served rfl ?_
  have verdict : (s.afterFrame st).releaseStopVerdict st = s.releaseStopVerdict st := by
    rw [State.releaseStopVerdict, afterFrame_mayRelease]
    rfl
  rw [verdict, refused, judged_refused]

/-- With the authority the first standing condition decides. -/
theorem releaseStopVerdict_allowed (above : s.stop.level ≠ 0) (allowed : s.mayRelease st = true) :
    s.releaseStopVerdict st = s.standing.map fun x => ⟨.condition, byte x.1 ++ byte x.2⟩ := by
  rw [State.releaseStopVerdict, if_neg above, if_neg (by rw [allowed]; exact Bool.noConfusion)]
  cases s.standing <;> rfl

/-! ### The first standing condition (R119) -/

theorem find_axis {f : Axis → Bool} {j : Axis} (here : f j = true) (before : ∀ i : Axis, i.val < j.val → f i = false) :
    allAxes.find? f = some j := by
  have place : ∀ i : Axis, allAxes[i.val]? = some i := by decide
  refine List.find?_eq_some_iff_getElem.mpr ⟨here, j.val, j.isLt, ?_, fun i less => ?_⟩
  · exact Option.some.inj ((List.getElem?_eq_getElem _).symm.trans (place j))
  · have there := Option.some.inj ((List.getElem?_eq_getElem (l := allAxes) (by simp [allAxes]; omega)).symm.trans
      (place ⟨i, by omega⟩))
    simp only at there
    rw [there, before _ less]
    rfl

theorem find_channel {f : Channel → Bool} {c : Channel} (here : f c = true)
    (before : ∀ i : Channel, i.val < c.val → f i = false) : allChannels.find? f = some c := by
  have place : ∀ i : Channel, allChannels[i.val]? = some i := by decide
  refine List.find?_eq_some_iff_getElem.mpr ⟨here, c.val, c.isLt, ?_, fun i less => ?_⟩
  · exact Option.some.inj ((List.getElem?_eq_getElem _).symm.trans (place c))
  · have there := Option.some.inj ((List.getElem?_eq_getElem (l := allChannels) (by simp [allChannels]; omega)).symm.trans
      (place ⟨i, by omega⟩))
    simp only at there
    rw [there, before _ less]
    rfl

theorem noFaultChannel (none : ∀ c, (s.zones.channels.get c).state ≠ .fault) :
    (allChannels.find? fun c => decide ((s.zones.channels.get c).state = .fault)) = .none :=
  List.find?_eq_none.mpr fun c _ => by simpa using none c

theorem standsOccupied_iff {z : ZoneId} : s.standsOccupied z = true ↔
    (s.zone z).active = true ∧ (s.zone z).entry.kind = .hard ∧ (s.zone z).occupied = true := by
  simp [State.standsOccupied, and_assoc]

theorem noOccupiedZone (none : ∀ z, (s.zone z).active = true → (s.zone z).entry.kind = .hard → (s.zone z).occupied = false) :
    allZones.find? s.standsOccupied = .none :=
  List.find?_eq_none.mpr fun z _ stands => by
    obtain ⟨active, hard, occupied⟩ := standsOccupied_iff.mp stands
    rw [none z active hard] at occupied
    cases occupied

end Release

/-- Settles O50: the authority first, then the first condition that stands, and the release with none. -/
theorem stopsAreReleased : Obligations.StopsAreReleased := by
  intro s st tag served
  refine ⟨fun zero => ?atZero, fun lacks => ?noRight, fun allowed => ?allowed⟩
  case atZero => exact exec_releaseStop_refused served (if_pos zero)
  case noRight =>
    have above : s.stop.level = 1 ∨ s.stop.level = 2 ∨ s.stop.level = 3 := by
      rcases lacks with ⟨one, -⟩ | ⟨two, -⟩ | ⟨three, -⟩
      · exact .inl one
      · exact .inr (.inl two)
      · exact .inr (.inr three)
    have mayNot : s.mayRelease st = false := by
      rw [← Bool.not_eq_true, mayRelease_iff above]
      rcases lacks with ⟨one, noAxis, noPlay, noRelease⟩ | ⟨two, noRelease⟩ | ⟨three, noRelease | notSeen⟩
      · simp [one, noAxis, noPlay, noRelease]
      · simp [two, noRelease]
      · simp [three, noRelease]
      · simp [three, notSeen]
    have verdict : s.releaseStopVerdict st = some ⟨.noRight, byte s.stop.level ++ flagByte s.stop.localResetSeen⟩ := by
      rw [State.releaseStopVerdict, if_neg (by omega), if_pos mayNot]
    rw [exec_releaseStop_refused served verdict]
    cases s.stop.localResetSeen <;> rfl
  case allowed =>
    have above : s.stop.level = 1 ∨ s.stop.level = 2 ∨ s.stop.level = 3 := by
      rcases allowed with ⟨one, -⟩ | ⟨two, -⟩ | ⟨three, -⟩
      · exact .inl one
      · exact .inr (.inl two)
      · exact .inr (.inr three)
    have verdict := releaseStopVerdict_allowed (show s.stop.level ≠ 0 by omega) ((mayRelease_iff above).mpr allowed)
    refine ⟨fun notClosed => ?chain, fun c closed fault first => ?channel,
      fun before z rest closed noFault split active hard occupied first => ?zone,
      fun j closed noFault noZone fault first => ?drive, fun closed noFault noZone noDrive => ?released⟩
    case chain =>
      have standing : s.standing = some (0, 0) := if_pos notClosed
      rw [standing] at verdict
      exact exec_releaseStop_refused served verdict
    case channel =>
      have standing : s.standing = some (1, c.val) := by
        rw [State.standing, if_neg (by simp [closed]), find_channel (decide_eq_true fault) fun i less =>
          decide_eq_false (first i less)]
      rw [standing] at verdict
      exact exec_releaseStop_refused served verdict
    case zone =>
      have found : allZones.find? s.standsOccupied = some z :=
        List.find?_eq_some_iff_append.mpr ⟨standsOccupied_iff.mpr ⟨active, hard, occupied⟩, before, rest, split,
          fun y mem => by
            rw [Bool.not_eq_true', ← Bool.not_eq_true, standsOccupied_iff]
            rintro ⟨yActive, yHard, yOccupied⟩
            rw [first y mem yActive yHard] at yOccupied
            cases yOccupied⟩
      have standing : s.standing = some (2, z.byte) := by
        rw [State.standing, if_neg (by simp [closed]), noFaultChannel noFault]
        dsimp only
        rw [found]
      rw [standing] at verdict
      rw [exec_releaseStop_refused served verdict]
      obtain ⟨table, index⟩ := z
      cases table <;> rfl
    case drive =>
      have standing : s.standing = some (3, j.val) := by
        rw [State.standing, if_neg (by simp [closed]), noFaultChannel noFault]
        dsimp only
        rw [noOccupiedZone noZone]
        dsimp only
        rw [find_axis (decide_eq_true fault) fun i less => decide_eq_false (first i less)]
      rw [standing] at verdict
      exact exec_releaseStop_refused served verdict
    case released =>
      have standing : s.standing = none := by
        rw [State.standing, if_neg (by simp [closed]), noFaultChannel noFault]
        dsimp only
        rw [noOccupiedZone noZone]
        dsimp only
        rw [List.find?_eq_none.mpr fun j _ => by simpa using noDrive j]
      rw [standing] at verdict
      have after : (s.afterFrame st).releaseStopVerdict st = none := by
        refine Eq.trans ?_ verdict
        rw [State.releaseStopVerdict, afterFrame_mayRelease]
        rfl
      exact ⟨_, request_taken (a := ()) (verdict := fun _ t => State.releaseStopVerdict t st)
        (taken := fun _ t => State.releaseStopTaken t) served rfl after, rfl, rfl, fun j => Tab.get_map ..,
        fun j => Tab.get_imap .., rfl⟩

end Sys2Proof.Machine
end

section
/-! The Mark Latch (O32, O33): marks latched and published, and the readers of the published mark. -/

namespace Sys2Proof.Machine

section Latch

variable {s : State} {st o : Station} {source : MarkSource}

/-! ### Publishing (R138, R141) -/

theorem noReaders_iff {k : MarkLatch} : k.noReaders = true ↔ ∀ o, k.readers.get o = none := by
  rw [MarkLatch.noReaders, List.all_eq_true]
  exact ⟨fun h o => Option.isNone_iff_eq_none.mp (h o ((by decide : ∀ o : Station, o ∈ allStations) o)),
    fun h o _ => Option.isNone_iff_eq_none.mpr (h o)⟩

/-- The notice of a mark published. -/
def Mark.notice (m : Mark) (n : Notices) : Notices := { n with markPublished := some (m.source, m.timebase) }

/-- A mark published: its copy, and MARK_PUBLISHED to every station whose link is UP. -/
theorem publishMark_eq {m : Mark} (newest : s.marks.newest = some m) :
    s.publishMark = { s with
      marks := { s.marks with published := some m, pending := false }
      links := (s.postAll m.notice).links } := by
  rw [State.publishMark, newest]
  rfl

theorem postAll_notices (f : Notices → Notices) (up : s.linkState o = .up) :
    ((s.postAll f).links.get o).notices = f (s.links.get o).notices := by
  rw [State.postAll]
  dsimp only
  rw [Tab.get_map, if_pos (show (s.links.get o).state = .up from up)]

theorem withReply_notices (s : State) (st o : Station) (r : Reply) :
    ((s.withReply st r).links.get o).notices = (s.links.get o).notices := by
  rw [State.withReply_links, Tab.get_modify]
  split
  · rename_i same
    rw [same]
  · rfl

/-- The mark that a latch takes (R137). -/
def State.markNow (s : State) (source : MarkSource) : Mark where
  source := source
  timebase := s.time.now
  playing := match s.play.state with
    | .running h e => some (h.slot, e)
    | _ => none
  recording := match s.takes.recordingTake with
    | some (r, t) => some (r.slot, t.count)
    | none => none
  setpoints := s.setpointsNow
  userValues := Tab.ofFn s.userValue

/-- The state with a mark latched and not published yet. -/
def State.latched (s : State) (source : MarkSource) : State :=
  { s with marks := { s.marks with newest := some (s.markNow source), count := min 65535 (s.marks.count + 1) } }

theorem latchMark_published (free : ∀ o, s.marks.readers.get o = none) :
    s.latchMark source = (s.latched source).publishMark := if_pos (noReaders_iff.mpr free)

theorem latchMark_pending (reader : s.marks.readers.get o ≠ none) : s.latchMark source =
    { s.latched source with marks := { (s.latched source).marks with pending := true } } :=
  if_neg fun none => reader (noReaders_iff.mp none o)

/-- What a latched mark leaves, whether it is published or waits. -/
structure Latched (s t : State) (source : MarkSource) : Prop where
  newest : t.marks.newest = some (s.markNow source)
  count : t.marks.count = min 65535 (s.marks.count + 1)
  readers : t.marks.readers = s.marks.readers
  published : (∀ o, s.marks.readers.get o = none) → t.marks.published = some (s.markNow source) ∧ t.marks.pending = false ∧
    ∀ o, s.linkState o = .up → (t.links.get o).notices.markPublished = some (source, s.time.now)
  pending : ∀ o, s.marks.readers.get o ≠ none → t.marks.published = s.marks.published ∧ t.marks.pending = true

theorem latchMark_latched (s : State) (source : MarkSource) : Latched s (s.latchMark source) source ∧
    (s.latchMark source).marks.lockout = s.marks.lockout ∧
    s.latchMark source = { s with links := (s.latchMark source).links, marks := (s.latchMark source).marks } := by
  by_cases free : ∀ o, s.marks.readers.get o = none
  · rw [latchMark_published free, publishMark_eq (s := s.latched source) rfl]
    exact ⟨⟨rfl, rfl, rfl, fun _ => ⟨rfl, rfl, fun o up =>
      congrArg Notices.markPublished (postAll_notices (s := s.latched source) (s.markNow source).notice up)⟩, fun o reader => absurd (free o) reader⟩,
      rfl, rfl⟩
  · obtain ⟨o, reader⟩ := not_forall.mp free
    rw [latchMark_pending reader]
    exact ⟨⟨rfl, rfl, rfl, fun none => absurd none free, fun _ _ => ⟨rfl, rfl⟩⟩, rfl, rfl⟩

end Latch

/-- Settles O32: the input and the request latch the same mark, and the lockout is the input's alone. -/
theorem marksAreLatched : Obligations.MarksAreLatched := by
  intro s running
  have input (t : State) (h : (if s.marks.lockout = 0 then
      { s.latchMark .input with marks := { (s.latchMark .input).marks with lockout := 20 } } else s) = t) :
      exec .markInput s = .next t := by
    show execMarkInput s = _
    rw [execMarkInput, awake_next _ running, ← h]
  refine ⟨fun locked => input s (if_neg locked.ne'), fun c source st tag which => ?_⟩
  rcases which with ⟨rfl, rfl, free⟩ | ⟨rfl, rfl, served⟩
  · obtain ⟨l, lockout, frame⟩ := latchMark_latched s .input
    refine ⟨_, s.markNow .input, input _ (if_pos free), l.newest, rfl, rfl, fun j => Tab.get_map .., l.count, l.readers,
      rfl, l.published, l.pending, ?_⟩
    rw [frame]
  · obtain ⟨l, lockout, frame⟩ := latchMark_latched (s.afterFrame st) (.request st)
    have run : exec (.mark st tag []) s =
        .next (((s.afterFrame st).latchMark (.request st)).withReply st ⟨tag, 24, .ok, []⟩) :=
      request_gives (a := ()) served rfl rfl
    refine ⟨_, (s.afterFrame st).markNow (.request st), run, l.newest, rfl, rfl, fun j => Tab.get_map .., l.count,
      l.readers, lockout.trans (if_neg nofun).symm, fun free => ?_, l.pending, ?_⟩
    · obtain ⟨published, pending, notice⟩ := l.published free
      refine ⟨published, pending, fun o up => ?_⟩
      rw [withReply_notices]
      exact notice o (by rwa [State.afterFrame_linkState])
    · rw [frame]
      rfl

/-! ### Readers of the published mark (R139, R140, R141) -/

section Readers

variable {s : State} {st o : Station} {n : Nat} {m : Mark}

/-- The state in which a station has left the open-readers set. -/
def State.withoutReader (s : State) (st : Station) : State :=
  { s with marks := { s.marks with readers := s.marks.readers.set st none } }

theorem removeReader_eq (reader : s.marks.readers.get st = some n) : s.removeReader st =
    if (s.withoutReader st).marks.noReaders && s.marks.pending then (s.withoutReader st).publishMark
    else s.withoutReader st := if_pos (by rw [reader]; rfl)

theorem withoutReader_noReaders : (s.withoutReader st).marks.noReaders = true ↔
    ∀ o, o ≠ st → s.marks.readers.get o = none := by
  rw [noReaders_iff]
  constructor
  · intro none o other
    have := none o
    rwa [State.withoutReader, Tab.get_set_other _ _ other] at this
  · intro none o
    rw [State.withoutReader, Tab.get_set]
    split
    · rfl
    · rename_i other
      exact none o other

/-- What the closing of a reader leaves. -/
structure ReaderClosed (s t : State) (st : Station) : Prop where
  readers : t.marks.readers = s.marks.readers.set st none
  newest : t.marks.newest = s.marks.newest
  count : t.marks.count = s.marks.count
  lockout : t.marks.lockout = s.marks.lockout
  published : ∀ m, s.marks.pending = true → s.marks.newest = some m → (∀ o, o ≠ st → s.marks.readers.get o = none) →
    t.marks.published = some m ∧ t.marks.pending = false ∧
      ∀ o, s.linkState o = .up → (t.links.get o).notices.markPublished = some (m.source, m.timebase)
  waits : s.marks.pending = false ∨ (∃ o, o ≠ st ∧ s.marks.readers.get o ≠ none) →
    t.marks.published = s.marks.published ∧ t.marks.pending = s.marks.pending
  replies : ∀ o, (t.links.get o).replies = (s.links.get o).replies

theorem removeReader_closes (reader : s.marks.readers.get st = some n) : ReaderClosed s (s.removeReader st) st ∧
    s.removeReader st = { s with links := (s.removeReader st).links, marks := (s.removeReader st).marks } := by
  rw [removeReader_eq reader]
  by_cases due : ((s.withoutReader st).marks.noReaders && s.marks.pending) = true
  · obtain ⟨last, pending⟩ := Bool.and_eq_true_iff.mp due
    have noWait : ¬ (s.marks.pending = false ∨ ∃ o, o ≠ st ∧ s.marks.readers.get o ≠ none) := by
      rintro (clear | ⟨o, other, still⟩)
      · rw [pending] at clear; cases clear
      · exact still (withoutReader_noReaders.mp last o other)
    rw [if_pos due]
    cases newest : s.marks.newest with
    | none =>
      have only : (s.withoutReader st).publishMark =
          { s with marks := { s.marks with readers := s.marks.readers.set st none, pending := false } } := by
        rw [State.publishMark, show (s.withoutReader st).marks.newest = none from newest]
        rfl
      rw [only]
      exact ⟨⟨rfl, rfl, rfl, rfl, fun m _ some _ => (by rw [newest] at some; cases some),
        fun w => absurd w noWait,
        fun _ => rfl⟩, rfl⟩
    | some m =>
      rw [publishMark_eq (s := s.withoutReader st) newest]
      refine ⟨⟨rfl, rfl, rfl, rfl, fun m' _ some _ => ?_, fun w => absurd w noWait, fun o => ?_⟩, rfl⟩
      · rw [newest] at some
        cases some
        exact ⟨rfl, rfl, fun o up =>
          congrArg Notices.markPublished (postAll_notices (s := s.withoutReader st) m.notice up)⟩
      · exact postAll_replies (s.withoutReader st) m.notice o
  · rw [if_neg due]
    refine ⟨⟨rfl, rfl, rfl, rfl, fun m pending _ last => ?_, fun _ => ⟨rfl, rfl⟩, fun _ => rfl⟩, rfl⟩
    exact absurd (Bool.and_eq_true_iff.mpr ⟨withoutReader_noReaders.mpr last, pending⟩) due

/-! ### The parts of a MARK_READ -/

theorem markRead_outside {part : Nat} (outside : 2 < part) : s.markRead st part = (s, ⟨.badArg, []⟩) := if_pos outside

theorem markRead_first (published : s.marks.published = some m) :
    s.markRead st 0 = (s.openReader st, ⟨.ok, markPart0 m⟩) := by
  rw [State.markRead, if_neg (by omega), if_pos rfl, published]

theorem markRead_none (published : s.marks.published = none) : s.markRead st 0 = (s, ⟨.noTake, []⟩) := by
  rw [State.markRead, if_neg (by omega), if_pos rfl, published]

theorem markRead_closed {part : Nat} (later : part = 1 ∨ part = 2) (noReader : s.marks.readers.get st = none) :
    s.markRead st part = (s, ⟨.state, []⟩) := by
  rw [State.markRead, if_neg (by omega), if_neg (by omega), noReader]

theorem markRead_later {part : Nat} (later : part = 1 ∨ part = 2) (reader : s.marks.readers.get st = some n)
    (published : s.marks.published = some m) : s.markRead st part =
      if part = 1 then (s.openReader st, ⟨.ok, markSetpoints m false⟩)
      else (s.removeReader st, ⟨.ok, markSetpoints m true⟩) := by
  rw [State.markRead, if_neg (by omega), if_neg (by omega), reader, published]

end Readers

/-- Settles O33: each part is one answer, and part 2 and the timeout close the reader alike. -/
theorem markReadersOpenAndClose : Obligations.MarkReadersOpenAndClose := by
  refine ⟨fun m => ⟨markPart0_holds m, markSetpoints_hold m⟩, fun s st running => ⟨fun tag k outside served => ?outside,
    fun tag none served => ?noMark, fun tag k later noReader served => ?noReader, fun tag m published served => ?first,
    fun tag m n published reader served => ?second, fun c n tag reader which => ?closes⟩⟩
  case outside => exact request_answered served (a := k.toNat) rfl (markRead_outside outside)
  case noMark => exact request_answered served (a := 0) rfl (markRead_none (s := s.afterFrame st) none)
  case noReader =>
    refine request_answered served (a := k.toNat) rfl (markRead_closed (s := s.afterFrame st) ?_ noReader)
    rcases later with rfl | rfl
    · exact .inl rfl
    · exact .inr rfl
  case first => exact request_gives served (a := 0) rfl (markRead_first (s := s.afterFrame st) published)
  case second =>
    exact request_gives served (a := 1) rfl (markRead_later (s := s.afterFrame st) (.inl rfl) reader published)
  case closes =>
    rcases which with ⟨rfl, due⟩ | ⟨rfl, served, some⟩
    · obtain ⟨closed, frame⟩ := removeReader_closes reader
      have run : exec (.markReaderTimeout st) s = .next (s.removeReader st) := by
        show execMarkReaderTimeout st s = _
        rw [execMarkReaderTimeout, awake_next _ running, reader]
        exact congrArg _ (if_pos (Nat.succ_le_succ due))
      refine ⟨_, run, closed.readers, closed.newest, closed.count, closed.lockout, nofun, closed.published, closed.waits, ?_⟩
      rw [frame]
    · obtain ⟨m, published⟩ := Option.isSome_iff_exists.mp some
      have there : (s.afterFrame st).marks.readers.get st = .some n := reader
      obtain ⟨closed, frame⟩ := removeReader_closes there
      have run : exec (.markRead st tag [2]) s = .next
          (((s.afterFrame st).removeReader st).withReply st ⟨tag, 25, .ok, markSetpoints m true⟩) :=
        request_gives served (a := 2) rfl (markRead_later (s := s.afterFrame st) (.inr rfl) reader published)
      refine ⟨_, run, closed.readers, closed.newest, closed.count, closed.lockout, fun m' _ again => ?_,
        fun m' pending newest last => ?_, closed.waits, ?_⟩
      · rw [published] at again
        cases again
        rw [State.withReply_links, Tab.get_modify_same]
        exact congrArg (· ++ _) ((closed.replies st).trans (by rw [afterFrame_link]))
      · obtain ⟨copy, clear, notice⟩ := closed.published m' pending newest last
        refine ⟨copy, clear, fun o up => ?_⟩
        rw [withReply_notices]
        exact notice o (by rwa [State.afterFrame_linkState])
      · rw [frame]
        rfl

end Sys2Proof.Machine
end

section
/-! Position reports (O27, O28): the drives they wake, park and fault, and the comparison with the setpoint answered. -/

namespace Sys2Proof.Machine

/-! ### One axis under a raise below level 3 -/

/-- What the engine's part in a raise does to one axis: nothing, its return out of a cue, or the pause of its take. -/
inductive ActedOn (a : AuthEntry) (c : AxisChannel) : AuthEntry → AxisChannel → Prop
  | left : ActedOn a c a c
  | returned (up : Bool) : ActedOn a c (a.returned up) { c.zeroTarget with trimDemand := 0, trimOffset := 0 }
  | paused : ActedOn a c { a with mode := .paused, stale := false } c

theorem returnAxes_actedOn (s : State) (axes : AxisSet) (j : Axis) :
    ActedOn (s.auth.get j) (s.channels.get j) ((s.returnAxes axes).auth.get j) ((s.returnAxes axes).channels.get j) := by
  simp only [State.returnAxes, Tab.get_imap]
  split
  · exact .returned _
  · exact .left

theorem engineOnRaise_actedOn (s : State) (j : Axis) :
    ActedOn (s.auth.get j) (s.channels.get j) (s.engineOnRaise.auth.get j) (s.engineOnRaise.channels.get j) := by
  unfold State.engineOnRaise
  split
  · exact .left
  · exact .left
  · rw [State.post_auth, State.post_channels]; exact returnAxes_actedOn _ _ j
  · rw [State.post_auth, State.post_channels]; exact returnAxes_actedOn _ _ j
  · simp only [State.setModes, Tab.get_imap]
    split
    · exact .paused
    · exact .left

theorem raiseOnce_actedOn {s : State} {c : Cause} {l : Nat} (below : max s.stop.level l ≠ 3) (j : Axis) :
    ActedOn (s.auth.get j) (s.channels.get j) ((s.raiseOnce c l).auth.get j) ((s.raiseOnce c l).channels.get j) := by
  obtain ⟨auth, -, -, channels, -⟩ := madeKnown_frame s c l
  have acted := engineOnRaise_actedOn (s.takeRaise c l).generatorOnRaise j
  obtain ⟨-, -, channels', auth', -⟩ := closeTake_frame (s.takeRaise c l).generatorOnRaise.engineOnRaise .interrupted
  rw [auth, channels, ← auth', ← channels'] at acted
  have same : (s.raiseOnce c l).channels.get j =
      (((s.takeRaise c l).generatorOnRaise.engineOnRaise).closeTake .interrupted).channels.get j := by
    simp only [State.raiseOnce, State.portOnRaise, Tab.get_imap]
    exact if_neg fun ⟨top, _⟩ => below top
  rw [same]
  exact acted

/-! ### An axis at rest with VEL 0 under an ACTIVE drive -/

/-- What a wake brings an axis to: an ACTIVE drive whose record is `d`, the setpoint `m` with a velocity demand of 0, a SLOW
cap of 100 % and the command VEL 0, below level 3. -/
def State.Rests (s : State) (j : Axis) (d : Drive) (m : Moving) : Prop :=
  s.stop.level ≤ 2 ∧ s.port.drives.get j = d ∧ d.state = .active ∧ m.target = .velocity 0 ∧
    (s.channels.get j).moving = some m ∧ (s.channels.get j).slowCap = 100 ∧ (s.auth.get j).command = .vel 0

theorem onRaise_active {d : Drive} (active : d.state = .active) {n : Nat} (below : n ≤ 2) : d.onRaise n = d := by
  have low : n ≠ 3 := by omega
  simp [Drive.onRaise, active, low]

section Rests

variable {s : State} {j : Axis} {d : Drive} {m : Moving}

theorem raiseOnce_rests (c : Cause) {l : Nat} (low : l ≤ 2) (h : s.Rests j d m) : (s.raiseOnce c l).Rests j d m := by
  obtain ⟨level, drive, active, target, moving, cap, command⟩ := h
  have below : max s.stop.level l ≤ 2 := max_le level low
  have acted := raiseOnce_actedOn (c := c) (l := l) (by omega : max s.stop.level l ≠ 3) j
  refine ⟨by rw [State.raiseOnce_level]; exact below, ?_, active, target, ?_⟩
  · rw [raiseOnce_drive, drive, onRaise_active active below]
  generalize (s.raiseOnce c l).auth.get j = a at acted ⊢
  generalize (s.raiseOnce c l).channels.get j = k at acted ⊢
  cases acted with
  | left => exact ⟨moving, cap, command⟩
  | returned up =>
    refine ⟨?_, cap, by cases up <;> rfl⟩
    simp only [AxisChannel.zeroTarget, moving, Option.map_some, ← target]
  | paused => exact ⟨moving, cap, command⟩

theorem modZone_rests (z : ZoneId) (f : Zone → Zone) (h : s.Rests j d m) : (s.modZone z f).Rests j d m := by
  unfold State.Rests
  rwa [State.modZone_stop, State.modZone_port, State.modZone_channels, State.modZone_auth]

theorem raise_rests (c : Cause) {l : Nat} (low : l ≤ 2) (h : s.Rests j d m) : (s.raise c l).Rests j d m :=
  State.raise_keeps (P := fun t => t.Rests j d m) c l (fun _ h => h) (fun _ _ _ h => modZone_rests _ _ h) (fun _ _ h => raiseOnce_rests _ le_rfl h)
    (raiseOnce_rests c low h)

theorem testWoken_rests (i : Motion) (h : s.Rests j d m) : (s.testWoken i).Rests j d m :=
  State.testZones_keeps (P := fun t => t.Rests j d m) _ (fun _ _ _ h => modZone_rests _ _ h) (fun _ _ h => raise_rests _ le_rfl h) h

end Rests

/-! ### A drive that a raise leaves ACTIVE or its axis without a setpoint -/

/-- An axis under an ACTIVE drive, or one that holds no setpoint. -/
def State.ActiveOrStill (s : State) (j : Axis) : Prop := s.driveState j = .active ∨ (s.channels.get j).moving = none

theorem raiseOnce_activeOrStill {s : State} {j : Axis} (c : Cause) (l : Nat) (h : s.ActiveOrStill j) :
    (s.raiseOnce c l).ActiveOrStill j := by
  obtain active | still := h
  · by_cases top : max s.stop.level l = 3
    · right
      obtain ⟨-, -, -, -, port⟩ := madeKnown_frame s c l
      have drive : (((s.takeRaise c l).generatorOnRaise.engineOnRaise).closeTake .interrupted).driveState j = .active := by
        rw [State.driveState, (closeTake_frame _ _).2.1, (engineOnRaise_port _).1, port]
        exact active
      simp only [State.raiseOnce, State.portOnRaise, Tab.get_imap]
      rw [if_pos ⟨top, drive⟩]
      rfl
    · left
      rw [State.driveState, raiseOnce_drive]
      have state : (s.port.drives.get j).state = .active := active
      simp [Drive.onRaise, top, state]
  · exact .inr (raiseOnce_moving_none still)

theorem raise_activeOrStill {s : State} {j : Axis} (c : Cause) (l : Nat) (h : s.ActiveOrStill j) :
    (s.raise c l).ActiveOrStill j :=
  State.raise_keeps (P := fun t => t.ActiveOrStill j) c l (fun _ h => h)
    (fun t z b h => by unfold State.ActiveOrStill State.driveState; rwa [State.modZone_port, State.modZone_channels])
    (fun _ _ h => raiseOnce_activeOrStill _ _ h) (raiseOnce_activeOrStill c l h)

/-! ### An accepted report -/

/-- The state with an accepted report recorded, and the drive record changed besides. -/
def State.reported (s : State) (j : Axis) (f : SentFrame) (g : Drive → Drive) : State :=
  { s with port := { s.port with
      drives := s.port.drives.modify j g, sent := some { f with answered := f.answered.set j true } } }

section Report

variable {s : State} {j : Axis} {bytes : List Byte} {r : Report} {f : SentFrame}

theorem exec_driveReport (running : s.sysreset = false) : exec (.driveReport bytes) s = .next (s.takeReport bytes) := by
  show execDriveReport bytes s = _
  rw [execDriveReport, awake_next _ running]

theorem acceptedFrom_eq (address : r.address.toNat = j.val) (sent : s.port.sent = some f) (number : r.number = f.number)
    (open_ : f.answered.get j = false) : s.acceptedFrom r = some j := by
  have small : r.address.toNat < 10 := by rw [address]; exact j.isLt
  have axis : (⟨r.address.toNat, small⟩ : Axis) = j := Fin.ext address
  rw [State.acceptedFrom, sent]
  dsimp only
  rw [dif_pos small, axis, if_pos ⟨number, open_⟩]

/-- A report that is accepted answers a frame that no report has answered yet. -/
theorem acceptedFrom_some (h : s.acceptedFrom r = some j) : ∃ f, s.port.sent = some f ∧ r.address.toNat = j.val ∧
    r.number = f.number ∧ f.answered.get j = false := by
  unfold State.acceptedFrom at h
  split at h
  · cases h
  · rename_i f sent
    split at h
    · split at h
      · rename_i accepted
        injection h with h
        subst h
        exact ⟨f, sent, rfl, accepted⟩
      · cases h
    · cases h

theorem takeReport_accepted (report : reportOf bytes = some r) (accepted : s.acceptedFrom r = some j) :
    s.takeReport bytes = ((s.recordReport j r.code (reportedPosition (s.inverted j) r.position)).compareReport j
      (reportedPosition (s.inverted j) r.position)).reportActs j (s.driveState j) r.code
      (reportedPosition (s.inverted j) r.position) := by
  rw [State.takeReport, report]
  dsimp only
  rw [accepted]

theorem takeReport_dropped (dropped : ∀ r f j, reportOf bytes = some r → s.port.sent = some f → r.address.toNat = j.val →
    r.number ≠ f.number ∨ f.answered.get j = true) : s.takeReport bytes = s := by
  unfold State.takeReport
  split
  · rfl
  · rename_i r report
    split
    · rfl
    · rename_i j accepted
      obtain ⟨f, sent, address, number, free⟩ := acceptedFrom_some accepted
      obtain other | answered := dropped r f j report sent address
      · exact absurd number other
      · rw [free] at answered; cases answered

theorem recordReport_eq (sent : s.port.sent = some f) (code : ReportCode) (pos : Int) :
    s.recordReport j code pos = s.reported j f fun d => { d with lastReport := some (code, pos), silence := 0 } := by
  rw [State.recordReport, sent]
  rfl

theorem modDrive_reported (g h : Drive → Drive) : (s.reported j f g).modDrive j h = s.reported j f fun d => h (g d) := by
  simp only [State.modDrive, State.reported, Tab.modify_modify]

theorem driveFaulted_of_changed {t u : State} {c : Cause} (changed : s.ChangedByAStop u) (level : max u.stop.level 2 =
    max s.stop.level 2) (still : s.driveState j = .active → (t.channels.get j).moving = none) (h : u.DriveFaulted t j c) :
    s.DriveFaulted t j c := by
  obtain ⟨fault, wait, silence, flag, -, lifted, memory, generator, frame⟩ := h
  refine ⟨fault, wait, silence, flag, still, lifted.trans level, memory, generator, ?_⟩
  unfold State.ChangedByAStop at changed frame ⊢
  rw [frame, changed]

theorem reported_drive (g : Drive → Drive) : (s.reported j f g).port.drives.get j = g (s.port.drives.get j) :=
  Tab.get_modify_same ..

theorem reported_changedByAStop (g : Drive → Drive) : s.ChangedByAStop (s.reported j f g) := rfl

/-- A drive that is not ACTIVE is not compared, and what its report does is what its code asks for. -/
theorem takeReport_inactive (report : reportOf bytes = some r) (accepted : s.acceptedFrom r = some j)
    (sent : s.port.sent = some f) (inactive : s.driveState j ≠ .active) {pos : Int}
    (at_ : pos = reportedPosition (s.inverted j) r.position) : s.takeReport bytes =
      (s.reported j f fun d => { d with lastReport := some (r.code, pos), silence := 0 }).reportActs j (s.driveState j)
        r.code pos := by
  rw [takeReport_accepted report accepted, ← at_, compareReport_inactive _ _ _ (by rwa [recordReport_driveState]),
    recordReport_eq sent]

end Report

/-! ### Waking -/

theorem wakeDrive_rests {s : State} {j : Axis} (pos : Int) (level : s.stop.level ≤ 2) : (s.wakeDrive j pos).Rests j
    { s.port.drives.get j with state := .active, wait := 0, followingError := false } ⟨pos * 256, 0, .velocity 0⟩ := by
  have woken : (((s.modDrive j fun d => { d with state := .active, wait := 0, followingError := false }).modChannel j
      fun c => c.wake (s.mode j) pos).modAuth j fun a => { a with command := .vel 0 }).Rests j
      { s.port.drives.get j with state := .active, wait := 0, followingError := false } ⟨pos * 256, 0, .velocity 0⟩ := by
    refine ⟨level, ?_, rfl, rfl, ?_, ?_, ?_⟩ <;> simp [AxisChannel.wake, ofCount]
  unfold State.wakeDrive
  dsimp only
  split
  · exact testWoken_rests _ woken
  · exact woken

theorem modZone_changedByAStop {s t : State} {z : ZoneId} {f : Zone → Zone} (h : s.ChangedByAStop t) :
    s.ChangedByAStop (t.modZone z f) := by
  unfold State.ChangedByAStop State.modZone at *
  rw [h]
  split <;> rfl

theorem testWoken_changedByAStop {s u : State} (m : Motion) (h : s.ChangedByAStop u) :
    s.ChangedByAStop (u.testWoken m) :=
  State.testZones_keeps (P := fun t => s.ChangedByAStop t) _
    (fun t z b h => modZone_changedByAStop h) (fun t z h => raise_changedByAStop _ _ h) h

theorem wakeDrive_changedByAStop {s u : State} (j : Axis) (pos : Int) (h : s.ChangedByAStop u) :
    s.ChangedByAStop (u.wakeDrive j pos) := by
  have woken : s.ChangedByAStop (((u.modDrive j fun d => { d with state := .active, wait := 0, followingError := false
      }).modChannel j fun c => c.wake (u.mode j) pos).modAuth j fun a => { a with command := .vel 0 }) := by
    unfold State.ChangedByAStop at h ⊢
    rw [h]
    rfl
  unfold State.wakeDrive
  dsimp only
  split
  · exact testWoken_changedByAStop _ woken
  · exact woken

/-- Settles O27: a dropped report changes nothing, and an accepted one is recorded and then acts by its code and the state
of the drive. -/
theorem readyReportWakesTheDrive : Obligations.ReadyReportWakesTheDrive := by
  refine ⟨fun s bytes running dropped => ?_,
    fun s j bytes r f pos running report address sent number free at_ => ?_⟩
  · rw [exec_driveReport running, takeReport_dropped fun r f j report sent address => dropped r f j report sent address]
  have inactive (h : s.driveState j ≠ .active) := takeReport_inactive report (acceptedFrom_eq address sent number free) sent h at_
  have still : s.ChangedByAStop (s.reported j f fun d => { d with lastReport := some (r.code, pos), silence := 0 }) := rfl
  rw [exec_driveReport running]
  refine ⟨fun ready waking level => ?wakes, fun fault was => ?faults, fun braked parking => ?parks, fun other => ?records⟩
  case wakes =>
    have acts := inactive (by rw [waking]; exact DriveState.noConfusion)
    rw [waking, ready] at acts
    rw [acts]
    obtain ⟨-, drive, -, -, moving, cap, command⟩ := wakeDrive_rests (j := j)
      (s := s.reported j f fun d => { d with lastReport := some (.ready, pos), silence := 0 }) pos level
    rw [reported_drive] at drive
    exact ⟨_, rfl, congrArg Drive.state drive, congrArg Drive.lastReport drive, congrArg Drive.silence drive, moving, cap,
      command, wakeDrive_changedByAStop _ _ rfl⟩
  case faults =>
    have notActive : s.driveState j ≠ .active := by rcases was with h | h | h <;> rw [h] <;> exact DriveState.noConfusion
    have acts := inactive notActive
    have faulted : s.takeReport bytes = (s.reported j f fun d => { d with lastReport := some (r.code, pos), silence := 0
        }).driveFaults j (.driveFault j) := by
      rw [acts, fault]
      rcases was with h | h | h <;> rw [h] <;> rfl
    rw [faulted]
    refine ⟨_, rfl, driveFaulted_of_changed still rfl (fun active => absurd active notActive) (driveFaults_faulted ..), ?_⟩
    rw [driveFaults_drive, reported_drive, fault]
  case parks =>
    have acts := inactive (by rw [parking]; exact DriveState.noConfusion)
    rw [parking, braked] at acts
    have apart : (s.reported j f fun d => { d with lastReport := some (.braked, pos), silence := 0 }).driveState j ≠
        .active := by
      rw [State.driveState, reported_drive]
      show s.driveState j ≠ _
      rw [parking]
      exact DriveState.noConfusion
    rw [acts]
    show Host.Outcome.next (State.driveTo _ j .parked false) = _
    rw [State.driveTo, State.leaveActive, if_neg apart, modDrive_reported]
    rfl
  case records =>
    have acts : s.takeReport bytes =
        s.reported j f fun d => { d with lastReport := some (r.code, pos), silence := 0 } := by
      rcases other with h | h | ⟨h, code⟩ | ⟨h, code⟩ | ⟨h, code⟩
      · rw [inactive (by rw [h]; exact DriveState.noConfusion), h]; rfl
      · rw [inactive (by rw [h]; exact DriveState.noConfusion), h]; rfl
      · rw [inactive (by rw [h]; exact DriveState.noConfusion), h]
        unfold State.reportActs
        split <;> simp_all
      · rw [inactive (by rw [h]; exact DriveState.noConfusion), h]
        rcases code with code | code <;> rw [code] <;> rfl
      · rw [inactive (by rw [h]; exact DriveState.noConfusion), h]
        rcases code with code | code <;> rw [code] <;> rfl
    rw [acts]
    rfl

/-! ### The comparison with the setpoint answered (R53) -/

section Compare

variable {s : State} {j : Axis} {f : SentFrame} {c pos : Int} {lim : Limits} {g : Drive → Drive}

theorem compareReport_noRun (sent : s.port.sent = some f) (noRun : ∀ x, f.entries.get j ≠ .run x) :
    s.compareReport j pos = s := by
  have entry : s.runEntry j = none := by
    rw [State.runEntry, sent]
    dsimp only
    split
    · rename_i x run; exact absurd run (noRun x)
    · rfl
  rw [State.compareReport, entry]

theorem compareReport_run (sent : s.port.sent = some f) (run : f.entries.get j = .run c) (limits : s.limits j = some lim)
    (active : s.driveState j = .active) : s.compareReport j pos =
      if lim.feLimit < (pos - c).natAbs then
        if (s.port.drives.get j).followingError then s
        else (s.modDrive j fun d => { d with followingError := true }).raise (.followingError j) 2
      else s.modDrive j fun d => { d with followingError := false } := by
  have entry : s.runEntry j = some c := by
    rw [State.runEntry, sent]
    dsimp only
    rw [run]
  rw [State.compareReport, entry, limits]
  exact if_pos active

/-- The comparison leaves the axis under its ACTIVE drive or without a setpoint, the level as a raise to 2 leaves it, and
changes no more than a stop. -/
theorem compareReport_frame (s : State) (j : Axis) (pos : Int) :
    (s.driveState j = .active → (s.compareReport j pos).ActiveOrStill j) ∧
      max (s.compareReport j pos).stop.level 2 = max s.stop.level 2 ∧ s.ChangedByAStop (s.compareReport j pos) := by
  have flag (b : Bool) : (s.modDrive j fun d => { d with followingError := b }).driveState j = s.driveState j := by
    simp [State.driveState]
  unfold State.compareReport
  split
  · rename_i c lim _ _
    split
    · rename_i active
      split
      · split
        · exact ⟨.inl, rfl, rfl⟩
        · refine ⟨fun _ => raise_activeOrStill _ _ (.inl ((flag true).trans active)), ?_, raise_changedByAStop _ _ rfl⟩
          rw [State.raise_level _ le_rfl, State.modDrive_stop, max_assoc, max_self]
      · exact ⟨fun _ => .inl ((flag false).trans active), rfl, rfl⟩
    · exact ⟨.inl, rfl, rfl⟩
  · exact ⟨.inl, rfl, rfl⟩

theorem driveFaults_moving_none {s : State} {j : Axis} (h : s.ActiveOrStill j) (c : Cause) :
    ((s.driveFaults j c).channels.get j).moving = none := by
  refine raise_moving_none ?_
  obtain active | still := h
  · exact driveTo_moving_none active _ _
  · rw [driveTo_eq]
    dsimp only
    split
    · rw [Tab.get_modify_same]; rfl
    · exact still

/-- The drive that a raise at level 2 or below leaves ACTIVE keeps its record. -/
theorem raise_drive_active {s : State} {j : Axis} {d : Drive} (c : Cause) (level : s.stop.level ≤ 2)
    (drive : s.port.drives.get j = d) (active : d.state = .active) : (s.raise c 2).port.drives.get j = d :=
  (State.raise_keeps (P := fun t => t.stop.level ≤ 2 ∧ t.port.drives.get j = d) c 2 (fun _ h => h)
    (fun t z b h => by rwa [State.modZone_stop, State.modZone_port])
    (fun t z h => ⟨by rw [State.raiseOnce_level]; exact max_le h.1 le_rfl,
      by rw [raiseOnce_drive, h.2, onRaise_active active (max_le h.1 le_rfl)]⟩)
    ⟨by rw [State.raiseOnce_level]; exact max_le level le_rfl,
      by rw [raiseOnce_drive, drive, onRaise_active active (max_le level le_rfl)]⟩).2

end Compare

/-- Settles O28: the report is recorded and compared, and a code other than READY faults the drive. -/
theorem reportsOfAnActiveDriveAreJudged : Obligations.ReportsOfAnActiveDriveAreJudged := by
  intro s j bytes r f c pos lim running report address sent number free active limits at_
  obtain ⟨u, recorded⟩ : ∃ u, s.reported j f (fun d => { d with lastReport := some (r.code, pos), silence := 0 }) = u :=
    ⟨_, rfl⟩
  have taken : s.takeReport bytes = (u.compareReport j pos).reportActs j .active r.code pos := by
    rw [takeReport_accepted report (acceptedFrom_eq address sent number free), ← at_, recordReport_eq sent, recorded, active]
  have uActive : u.driveState j = .active := by
    rw [← recorded, State.driveState, reported_drive]
    exact active
  have uSent : u.port.sent = some { f with answered := f.answered.set j true } := by rw [← recorded]; rfl
  have uLimits : u.limits j = some lim := by rw [← recorded]; exact limits
  have uFlag : (u.port.drives.get j).followingError = (s.port.drives.get j).followingError := by
    rw [← recorded, reported_drive]
  have onlyCompared (ready : r.code = .ready) : s.takeReport bytes = u.compareReport j pos := by
    rw [taken, ready]
    rfl
  rw [exec_driveReport running]
  refine ⟨fun other => ?faults, fun ready only => ?records, fun ready run beyond clear level => ?raises,
    fun ready run within => ?clears⟩
  case faults =>
    obtain ⟨stays, level, changed⟩ := compareReport_frame u j pos
    have acts : s.takeReport bytes = (u.compareReport j pos).driveFaults j (.driveFault j) := by
      rw [taken]
      cases code : r.code with
      | ready => exact absurd code other
      | braked => rfl
      | powering => rfl
      | fault => rfl
    rw [acts]
    refine ⟨_, rfl, driveFaulted_of_changed ?_ ?_ (fun _ => driveFaults_moving_none (stays uActive) _)
      (driveFaults_faulted ..)⟩
    · rw [← recorded] at changed ⊢
      unfold State.ChangedByAStop at changed ⊢
      rw [changed]
      rfl
    · rw [level, ← recorded]
      rfl
  case records =>
    have same : u.compareReport j pos = u := by
      obtain noRun | ⟨run, beyond, flag⟩ := only
      · exact compareReport_noRun uSent noRun
      · rw [compareReport_run uSent run uLimits uActive, if_pos beyond, uFlag, flag, if_pos rfl]
    rw [onlyCompared ready, same, ← recorded, ready]
    rfl
  case raises =>
    have raised : u.compareReport j pos = (u.modDrive j fun d => { d with followingError := true }).raise
        (.followingError j) 2 := by
      rw [compareReport_run uSent run uLimits uActive, if_pos beyond, uFlag, clear, if_neg Bool.false_ne_true]
    have drive : (u.modDrive j fun d => { d with followingError := true }).port.drives.get j =
        { s.port.drives.get j with lastReport := some (.ready, pos), silence := 0, followingError := true } := by
      rw [← recorded, modDrive_reported, reported_drive, ready]
    have uLevel : (u.modDrive j fun d => { d with followingError := true }).stop.level = s.stop.level := by
      rw [← recorded]
      rfl
    have kept := raise_drive_active (.followingError j) (by rw [uLevel]; exact level) drive active
    rw [onlyCompared ready, raised]
    refine ⟨_, rfl, (congrArg Drive.state kept).trans active, congrArg Drive.followingError kept,
      congrArg Drive.lastReport kept, ?_, raise_memory _ _ _ _ (.inl rfl), State.raise_generator ..,
      raise_changedByAStop _ _ ?_⟩
    · rw [State.raise_level _ le_rfl, uLevel, max_eq_right level]
    · rw [← recorded]
      rfl
  case clears =>
    rw [onlyCompared ready, compareReport_run uSent run uLimits uActive, if_neg (by omega), ← recorded, modDrive_reported,
      ready]
    rfl

end Sys2Proof.Machine
end

section
/-! The presence channels (O29, O30): what a reading makes of its channel, through the judgement of the zones and the raises
that follow it. -/

namespace Sys2Proof.Machine

/-! ### What judgements and raises keep of the channels, the memory and the level -/

theorem modZone_zoneChannels (s : State) (z : ZoneId) (f : Zone → Zone) :
    (s.modZone z f).zones.channels = s.zones.channels := by
  unfold State.modZone
  split <;> rfl

theorem raise_zoneChannels (s : State) (c : Cause) (l : Nat) : (s.raise c l).zones.channels = s.zones.channels :=
  State.raise_keeps (P := fun t => t.zones.channels = s.zones.channels) c l (fun _ h => h)
    (fun _ _ _ h => (modZone_zoneChannels ..).trans h) (fun t z h => by rw [raiseOnce_zones]; exact h)
    (by rw [raiseOnce_zones])

theorem judgeZones_zoneChannels (s : State) : s.judgeZones.zones.channels = s.zones.channels :=
  State.judgeZones_keeps (P := fun t => t.zones.channels = s.zones.channels) (fun _ h => h)
    (fun _ _ _ h => (modZone_zoneChannels ..).trans h) (fun t z h => by rw [raiseOnce_zones]; exact h) rfl

theorem le_judgeZones_level (s : State) : s.stop.level ≤ s.judgeZones.stop.level :=
  State.judgeZones_keeps (P := fun t => s.stop.level ≤ t.stop.level) (fun _ h => h)
    (fun t z b h => by rwa [State.modZone_stop])
    (fun t z h => by rw [State.raiseOnce_level]; exact le_trans h (le_max_left ..)) le_rfl

/-! ### PRESENCE_FAULT raised for a list of channels -/

section RaiseFaults

variable {s u : State} (cs : List Channel)

theorem raiseFaults_zoneChannels (s : State) : (s.raiseFaults cs).zones.channels = s.zones.channels := by
  induction cs generalizing s with
  | nil => rfl
  | cons c cs ih => exact (ih _).trans (raise_zoneChannels ..)

theorem raiseFaults_changedByAStop (h : s.ChangedByAStop u) : s.ChangedByAStop (u.raiseFaults cs) := by
  induction cs generalizing u with
  | nil => exact h
  | cons c cs ih => exact ih (raise_changedByAStop _ _ h)

/-- What a list of raises keeps: causes remembered and a level reached. -/
theorem raiseFaults_keeps {c : Cause} {n : Nat} (memory : c ∈ s.stop.memory) (level : n ≤ s.stop.level) :
    c ∈ (s.raiseFaults cs).stop.memory ∧ n ≤ (s.raiseFaults cs).stop.level := by
  induction cs generalizing s with
  | nil => exact ⟨memory, level⟩
  | cons d cs ih =>
    exact ih (raise_memory _ _ _ _ (.inr memory)) ((level.trans (le_max_left ..)).trans (State.le_raise_level ..))

theorem raiseFaults_raises {c : Channel} (member : c ∈ cs) {n : Nat} (level : n ≤ s.stop.level) :
    .presenceFault c ∈ (s.raiseFaults cs).stop.memory ∧ max n 1 ≤ (s.raiseFaults cs).stop.level := by
  induction cs generalizing s with
  | nil => cases member
  | cons d cs ih =>
    have above : max n 1 ≤ (s.raise (.presenceFault d) 1).stop.level :=
      (max_le_max level le_rfl).trans (State.le_raise_level ..)
    obtain rfl | later := List.mem_cons.mp member
    · exact raiseFaults_keeps cs (raise_memory _ _ _ _ (.inl rfl)) above
    · exact ih later ((le_max_left ..).trans above)

end RaiseFaults

/-! ### The filter of one channel (R83, R84) -/

section Filter

variable {p : Presence} {r : Reading} {debounce : Nat}

theorem filtered_split : p.filtered debounce .split =
    ⟨if 21 ≤ p.split + 1 then .fault else p.state, some .split, 0, min 21 (p.split + 1)⟩ := if_pos rfl

theorem filtered_settles (agrees : r ≠ .split) (enough : debounce ≤ p.agreeNext r) :
    p.filtered debounce r = ⟨agreedState r, some r, p.agreeNext r, 0⟩ := by
  rw [Presence.filtered, if_neg agrees, if_pos enough]

theorem filtered_counts (agrees : r ≠ .split) (few : ¬ debounce ≤ p.agreeNext r) :
    p.filtered debounce r = { p with last := some r, agree := p.agreeNext r } := by
  rw [Presence.filtered, if_neg agrees, if_neg few]

theorem readingOf_same (b : Bool) : readingOf b b = if b then .bothPresent else .bothClear := if_neg fun h => h rfl

theorem agreedState_of (b : Bool) :
    agreedState (if b then .bothPresent else .bothClear) = if b then .present else .clear := by cases b <;> rfl

theorem agreeing_ne_split (b : Bool) : (if b then Reading.bothPresent else .bothClear) ≠ .split := by cases b <;> nofun

end Filter

/-! ### A presence sample -/

section Sample

variable {s : State} {lineA lineB : ChannelSet} {c : Channel}

theorem exec_presenceSample (running : s.sysreset = false) :
    exec (.presenceSample lineA lineB) s = .next (s.presenceSample lineA lineB) := by
  show execPresenceSample lineA lineB s = _
  rw [execPresenceSample, awake_next _ running]

theorem presenceSample_channel (s : State) (lineA lineB : ChannelSet) (c : Channel) :
    (s.presenceSample lineA lineB).zones.channels.get c =
      if s.readingTaken c (readingAt lineA lineB c) then s.zones.channels.get c
      else (s.zones.channels.get c).filtered s.zones.debounce (readingAt lineA lineB c) := by
  rw [State.presenceSample, raiseFaults_zoneChannels, judgeZones_zoneChannels]
  exact Tab.get_imap ..

theorem presenceSample_raises (free : s.readingTaken c (readingAt lineA lineB c) = false)
    (faults : (s.zones.channels.get c).faults (readingAt lineA lineB c) = true) :
    .presenceFault c ∈ (s.presenceSample lineA lineB).stop.memory ∧
      max s.stop.level 1 ≤ (s.presenceSample lineA lineB).stop.level := by
  refine raiseFaults_raises _ (List.mem_filter.mpr ⟨(by decide : ∀ c : Channel, c ∈ allChannels) c, ?_⟩)
    (le_judgeZones_level (s.filterChannels lineA lineB))
  rw [free, faults]
  rfl

theorem presenceSample_changed (s : State) (lineA lineB : ChannelSet) :
    { s with taken := (s.presenceSample lineA lineB).taken }.ChangedByAStop (s.presenceSample lineA lineB) := by
  have changed : (s.filterChannels lineA lineB).ChangedByAStop (s.presenceSample lineA lineB) :=
    raiseFaults_changedByAStop (s.newFaults lineA lineB)
      (judgeZones_changedByAStop (s := s.filterChannels lineA lineB) (u := s.filterChannels lineA lineB) rfl)
  unfold State.ChangedByAStop at changed ⊢
  rw [changed]
  rfl

end Sample

/-- Settles O29: the filter gives the channel, and the laws of a judgement give the zones. -/
theorem presenceSampleJudgesChannels : Obligations.PresenceSampleJudgesChannels := by
  intro s lineA lineB c p running at_
  subst at_
  have channel := presenceSample_channel s lineA lineB c
  refine ⟨_, _, exec_presenceSample running, rfl, fun taken => ?taken, fun free agree r reading => ?agrees,
    fun free differ => ?splits, State.presenceSample_judged .., presenceSample_changed ..⟩
  case taken => rw [channel, if_pos taken]
  case agrees =>
    have read : readingAt lineA lineB c = r := by rw [readingAt, ← agree, readingOf_same, reading]
    have agrees : r ≠ .split := by rw [reading]; exact agreeing_ne_split _
    rw [free, if_neg Bool.false_ne_true, read] at channel
    by_cases enough : s.zones.debounce ≤ (s.zones.channels.get c).agreeNext r
    · rw [filtered_settles agrees enough] at channel
      rw [channel]
      exact ⟨rfl, rfl, fun _ => ⟨rfl, by rw [reading]; exact agreedState_of _⟩, fun few => absurd enough (not_le.mpr few)⟩
    · rw [filtered_counts agrees enough] at channel
      rw [channel]
      exact ⟨rfl, rfl, fun enough' => absurd enough' enough, fun _ => ⟨rfl, rfl⟩⟩
  case splits =>
    have read : readingAt lineA lineB c = .split := if_pos differ
    have raises (many : 20 ≤ (s.zones.channels.get c).split) (other : (s.zones.channels.get c).state ≠ .fault) :=
      presenceSample_raises free (by rw [read]; simp [Presence.faults, many, other])
    rw [free, if_neg Bool.false_ne_true, read, filtered_split] at channel
    rw [channel]
    exact ⟨rfl, rfl, rfl, fun few => if_neg (by omega), fun many => if_pos (by omega), raises⟩

/-! ### The events of one channel -/

section Reading

variable {s : State} {c : Channel} {r : Reading}

theorem takeReading_channels (s : State) (c : Channel) (r : Reading) : (s.takeReading c r).zones.channels =
    s.zones.channels.modify c fun p => p.filtered s.zones.debounce r := judgeZones_zoneChannels _

/-- The state in which a row has taken one channel's reading ahead of its sample. -/
def State.presenceTaken (s : State) (c : Channel) : State :=
  { s with taken := { s.taken with presence := s.taken.presence.set c true } }

theorem takeReading_changed (s : State) (c : Channel) (r : Reading) :
    (s.presenceTaken c).ChangedByAStop (s.takeReading c r) := judgeZones_changedByAStop rfl

theorem changedByAStop_presenceTaken {t : State} (h : (s.presenceTaken c).ChangedByAStop t) :
    { s with taken := t.taken }.ChangedByAStop t := by
  unfold State.ChangedByAStop at h ⊢
  rw [h]
  rfl

end Reading

/-- Settles O30: the reading is taken for its one channel, and a fault is raised after the judgement. -/
theorem presenceEventsChangeTheChannel : Obligations.PresenceEventsChangeTheChannel := by
  intro s c p running at_
  subst at_
  refine ⟨fun present r n other reading count enough => ?changes, fun other many => ?faults⟩
  case changes =>
    have agreed : n = (s.zones.channels.get c).agreeNext r := count
    have agrees : r ≠ .split := by rw [reading]; exact agreeing_ne_split _
    have settled : (s.zones.channels.get c).filtered s.zones.debounce r = ⟨if present then .present else .clear, some r, n, 0⟩ := by
      rw [filtered_settles agrees (by rwa [← agreed]), ← agreed, reading, agreedState_of]
    show ∃ t, execPresenceStateChange c present s = .next t ∧ _
    rw [execPresenceStateChange, awake_next _ running, readingOf_same, ← reading]
    dsimp only
    rw [if_pos (by rw [settled]; exact Ne.symm other)]
    refine ⟨_, rfl, ?_, fun k apart => ?_, (State.takeReading_judged s c r).1,
      changedByAStop_presenceTaken (takeReading_changed ..)⟩
    · rw [takeReading_channels, Tab.get_modify_same, settled]
    · rw [takeReading_channels, Tab.get_modify_other _ _ apart]
  case faults =>
    have faults : (s.zones.channels.get c).faults .split = true := by simp [Presence.faults, many, other]
    show ∃ t, execPresenceFault c s = .next t ∧ _
    rw [execPresenceFault, awake_next _ running, if_pos faults]
    have level : s.stop.level ≤ (s.takeReading c .split).stop.level :=
      le_judgeZones_level (s := { s.presenceTaken c with zones := { s.zones with channels := _ } })
    refine ⟨_, rfl, ?_, fun k apart => ?_, raise_memory _ _ _ _ (.inl rfl),
      (max_le_max level le_rfl).trans (State.le_raise_level ..), (State.takeReading_judged s c .split).2,
      changedByAStop_presenceTaken (raise_changedByAStop _ _ (takeReading_changed ..))⟩
    · rw [raise_zoneChannels, takeReading_channels, Tab.get_modify_same, filtered_split, if_pos (by omega),
        min_eq_left (by omega)]
    · rw [raise_zoneChannels, takeReading_channels, Tab.get_modify_other _ _ apart]

end Sys2Proof.Machine
end

section
/-! The loss of a station (O25, O35): what its link, its axes and its records come to, through the raise of LINK_LOST. -/

namespace Sys2Proof.Machine

/-! ### A link that is not UP takes no notice -/

section Down

variable {s : State} {o st : Station}

theorem post_link_down (f : Notices → Notices) (down : s.linkState o ≠ .up) :
    (s.post st f).links.get o = s.links.get o := by
  rw [post_link]
  refine if_neg ?_
  rintro ⟨rfl, up⟩
  exact down up

theorem postAll_link_down (f : Notices → Notices) (down : s.linkState o ≠ .up) :
    (s.postAll f).links.get o = s.links.get o := by
  rw [State.postAll]
  dsimp only
  rw [Tab.get_map]
  exact if_neg down

theorem closeTake_link_down (r : CloseReason) (down : s.linkState o ≠ .up) :
    (s.closeTake r).links.get o = s.links.get o := by
  unfold State.closeTake
  split
  · rfl
  · split
    · split
      · exact post_link_down (s := { s with takes := _ }) _ down
      · exact post_link_down (s := { s with takes := _ }) _ down
    · rfl

theorem engineOnRaise_link_down (down : s.linkState o ≠ .up) : s.engineOnRaise.links.get o = s.links.get o := by
  unfold State.engineOnRaise
  split
  · rfl
  · rfl
  · exact post_link_down (s := s.dropTake _) _ down
  · exact post_link_down (s := s.dropTake _) _ down
  · rfl

theorem takeRaise_link_down (c : Cause) (l : Nat) (down : s.linkState o ≠ .up) :
    (s.takeRaise c l).generatorOnRaise.links.get o = s.links.get o := by
  unfold State.generatorOnRaise State.takeRaise
  dsimp only
  split
  · exact postAll_link_down (s := { s with stop := _ }) _ down
  · rfl

theorem raiseOnce_link_down (c : Cause) (l : Nat) (down : s.linkState o ≠ .up) :
    (s.raiseOnce c l).links.get o = s.links.get o := by
  have told := takeRaise_link_down c l down
  have engine := engineOnRaise_link_down (s := (s.takeRaise c l).generatorOnRaise) (o := o)
    (by rw [State.linkState, told]; exact down)
  have closed := closeTake_link_down (s := (s.takeRaise c l).generatorOnRaise.engineOnRaise) (o := o) .interrupted
    (by rw [State.linkState, engine, told]; exact down)
  exact closed.trans (engine.trans told)

theorem raise_link_down (c : Cause) (l : Nat) (down : s.linkState o ≠ .up) :
    (s.raise c l).links.get o = s.links.get o :=
  State.raise_keeps (P := fun t => t.links.get o = s.links.get o) c l (fun _ h => h)
    (fun t z b h => by rwa [State.modZone_links])
    (fun t z h => (raiseOnce_link_down _ _ (by rw [State.linkState, h]; exact down)).trans h)
    (raiseOnce_link_down c l down)

theorem removeReader_link_down (down : s.linkState o ≠ .up) : (s.removeReader st).links.get o = s.links.get o := by
  unfold State.removeReader
  dsimp only
  split
  · split
    · unfold State.publishMark
      dsimp only
      split
      · rfl
      · exact postAll_link_down (s := { s with marks := _ }) _ down
    · rfl
  · rfl

end Down

theorem removeReader_readers (s : State) (st : Station) : (s.removeReader st).marks.readers.get st = none := by
  cases reader : s.marks.readers.get st with
  | none =>
    rw [State.removeReader, if_neg (by rw [reader]; exact Bool.false_ne_true)]
    exact reader
  | some n =>
    rw [(removeReader_closes reader).1.readers]
    exact Tab.get_set_same ..

theorem removeReader_frame (s : State) (st : Station) :
    s.removeReader st = { s with links := (s.removeReader st).links, marks := (s.removeReader st).marks } := by
  cases reader : s.marks.readers.get st with
  | none => rw [State.removeReader, if_neg (by rw [reader]; exact Bool.false_ne_true)]
  | some n => exact (removeReader_closes reader).2

/-! ### What a raise keeps of trim stations and staging records -/

theorem raiseOnce_authActedOn (s : State) (c : Cause) (l : Nat) (j : Axis) :
    ∃ k, ActedOn (s.auth.get j) (s.channels.get j) ((s.raiseOnce c l).auth.get j) k := by
  obtain ⟨auth, -, -, channels, -⟩ := madeKnown_frame s c l
  have acted := engineOnRaise_actedOn (s.takeRaise c l).generatorOnRaise j
  obtain ⟨-, -, -, auth', -⟩ := closeTake_frame (s.takeRaise c l).generatorOnRaise.engineOnRaise .interrupted
  rw [auth, channels, ← auth'] at acted
  exact ⟨_, acted⟩

theorem ActedOn.trimStation {a a' : AuthEntry} {c c' : AxisChannel} (h : ActedOn a c a' c') {st : Station}
    (other : a.trimStation ≠ some st) : a'.trimStation ≠ some st := by
  cases h with
  | left => exact other
  | returned up => cases up <;> exact nofun
  | paused => exact other

theorem raise_trimStation {s : State} {j : Axis} {st : Station} (c : Cause) (l : Nat)
    (other : (s.auth.get j).trimStation ≠ some st) : ((s.raise c l).auth.get j).trimStation ≠ some st := by
  have once (t : State) (c : Cause) (l : Nat) (h : (t.auth.get j).trimStation ≠ some st) :
      ((t.raiseOnce c l).auth.get j).trimStation ≠ some st := by
    obtain ⟨k, acted⟩ := raiseOnce_authActedOn t c l j
    exact acted.trimStation h
  exact State.raise_keeps (P := fun t => (t.auth.get j).trimStation ≠ some st) c l (fun _ h => h)
    (fun t z b h => by rwa [State.modZone_auth]) (fun t z h => once t _ _ h) (once s c l other)

theorem modZone_staging (s : State) (z : ZoneId) (f : Zone → Zone) : (s.modZone z f).zones.staging = s.zones.staging := by
  unfold State.modZone
  split <;> rfl

theorem raise_staging (s : State) (c : Cause) (l : Nat) : (s.raise c l).zones.staging = s.zones.staging :=
  State.raise_keeps (P := fun t => t.zones.staging = s.zones.staging) c l (fun _ h => h)
    (fun _ _ _ h => (modZone_staging ..).trans h) (fun t z h => by rw [raiseOnce_zones]; exact h)
    (by rw [raiseOnce_zones])

/-! ### The loss itself, and the raise after it -/

/-- The state of a station's loss before any raise: its link DOWN, its axes and records given up. -/
def State.cutOff (s : State) (st : Station) : State := ((s.modLink st Link.goDown).loseAuthority st).removeReader st

/-- What the loss of a station leaves of its link and its records, with a raise after it or none. -/
structure StationGone (s t : State) (st : Station) : Prop where
  link : t.links.get st = (s.links.get st).goDown
  trim : ∀ j, (t.auth.get j).trimStation ≠ some st
  staging : t.zones.staging.get st = none
  maps : ∀ l g, t.mapStaging.get l = some g → g.station ≠ st
  reader : t.marks.readers.get st = none

section Loss

variable {s : State} {st : Station} {j : Axis}

theorem cutOff_frame (s : State) (st : Station) : s.cutOff st = { s.loseAuthority st with
    links := (s.cutOff st).links, marks := (s.cutOff st).marks } := by
  rw [State.cutOff, removeReader_frame]
  rfl

theorem cutOff_auth (s : State) (st : Station) (j : Axis) : (s.cutOff st).auth.get j = (s.auth.get j).afterLoss st := by
  rw [cutOff_frame]
  exact Tab.get_map ..

theorem cutOff_channel (s : State) (st : Station) (j : Axis) : (s.cutOff st).channels.get j =
    if (s.auth.get j).owner = some st ∧ (s.auth.get j).mode = .manual then (s.channels.get j).zeroTarget
    else s.channels.get j := by
  rw [cutOff_frame]
  exact Tab.get_imap ..

theorem cutOff_link (s : State) (st : Station) : (s.cutOff st).links.get st = (s.links.get st).goDown := by
  have lost : ((s.modLink st Link.goDown).loseAuthority st).links.get st = (s.links.get st).goDown := Tab.get_modify_same ..
  exact (removeReader_link_down (by rw [State.linkState, lost]; exact LinkState.noConfusion)).trans lost

theorem afterLoss_trimStation (a : AuthEntry) (st : Station) : ¬ (a.afterLoss st).trimStation = some st := by
  unfold AuthEntry.afterLoss
  split
  · exact nofun
  · split
    · exact nofun
    · assumption

theorem cutOff_gone (s : State) (st : Station) : StationGone s (s.cutOff st) st where
  link := cutOff_link s st
  trim j := by rw [cutOff_auth]; exact afterLoss_trimStation _ _
  staging := by rw [cutOff_frame]; exact Tab.get_set_same ..
  maps l g held := by
    rw [cutOff_frame] at held
    replace held : stagingAfterLoss (s.mapStaging.get l) st = some g := (Tab.get_map ..).symm.trans held
    unfold stagingAfterLoss at held
    split at held
    · split at held
      · cases held
      · rename_i other
        injection held with held
        rwa [← held]
    · cases held
  reader := removeReader_readers ..

theorem raise_gone {t : State} (c : Cause) (l : Nat) (gone : StationGone s t st) : StationGone s (t.raise c l) st where
  link := (raise_link_down c l (by rw [State.linkState, gone.link]; exact LinkState.noConfusion)).trans gone.link
  trim j := raise_trimStation c l (gone.trim j)
  staging := by rw [raise_staging]; exact gone.staging
  maps := by rw [State.raise_mapStaging]; exact gone.maps
  reader := by rw [State.raise_marks]; exact gone.reader

theorem stationDown_gone (s : State) (st : Station) : StationGone s (s.stationDown st) st := by
  have gone := cutOff_gone s st
  unfold State.stationDown
  dsimp only
  split
  · exact raise_gone _ _ gone
  · exact gone

theorem stationDown_raises (owns : s.ownsUnderTake st = true) :
    s.stationDown st = (s.cutOff st).raise (.linkLost st) 1 := if_pos owns

theorem stationDown_quiet (owns : s.ownsUnderTake st = false) : s.stationDown st = s.cutOff st :=
  if_neg (by rw [owns]; exact Bool.false_ne_true)

theorem afterLoss_manual {a : AuthEntry} (owner : a.owner = some st) (manual : a.mode = .manual) :
    a.afterLoss st = AuthEntry.idle := if_pos ⟨owner, manual⟩

/-- An entry that the loss does not make IDLE keeps all but its trim station. -/
theorem afterLoss_kept {a : AuthEntry} (kept : ¬ (a.owner = some st ∧ a.mode = .manual)) :
    (a.afterLoss st).mode = a.mode ∧ (a.afterLoss st).owner = a.owner ∧ (a.afterLoss st).command = a.command := by
  rw [AuthEntry.afterLoss, if_neg kept]
  split <;> exact ⟨rfl, rfl, rfl⟩

end Loss

/-! ### A raise takes the engine's part once -/

section Once

variable {s : State} {c : Cause} {l : Nat}

theorem engineOnRaise_stopped (stopped : s.Stopped) : s.engineOnRaise = s := by
  unfold State.engineOnRaise
  obtain idle | ⟨h, e, paused⟩ := stopped
  · rw [idle]
  · rw [paused]

/-- A raise below level 3 leaves the engine and the channels as the engine's part leaves them. -/
theorem raiseOnce_engine (s : State) (c : Cause) (l : Nat) :
    (s.raiseOnce c l).play = (s.takeRaise c l).generatorOnRaise.engineOnRaise.play ∧
      (s.raiseOnce c l).auth = (s.takeRaise c l).generatorOnRaise.engineOnRaise.auth ∧
      (max s.stop.level l ≤ 2 →
        (s.raiseOnce c l).channels = (s.takeRaise c l).generatorOnRaise.engineOnRaise.channels) := by
  obtain ⟨-, -, channels, auth, play, -⟩ := closeTake_frame (s.takeRaise c l).generatorOnRaise.engineOnRaise .interrupted
  refine ⟨play, auth, fun low => ?_⟩
  have below : max s.stop.level l ≠ 3 := by omega
  rw [← channels]
  refine Tab.ext_get fun j => (Tab.get_imap ..).trans (if_neg fun ⟨top, _⟩ => below top)

theorem raiseOnce_stopped_play (stopped : s.Stopped) (c : Cause) (l : Nat) : (s.raiseOnce c l).play = s.play := by
  obtain ⟨-, play, -⟩ := madeKnown_frame s c l
  rw [(raiseOnce_engine s c l).1, engineOnRaise_stopped (by unfold State.Stopped; rwa [play]), play]

theorem raiseOnce_stopped_channels (stopped : s.Stopped) (c : Cause) (low : max s.stop.level l ≤ 2) :
    (s.raiseOnce c l).channels = s.channels := by
  obtain ⟨-, play, -, channels, -⟩ := madeKnown_frame s c l
  rw [(raiseOnce_engine s c l).2.2 low, engineOnRaise_stopped (by unfold State.Stopped; rwa [play]), channels]

/-- After its first raise a raise changes neither modes nor engine, and below level 3 no channel. -/
theorem raise_asOnce (s : State) (c : Cause) (l : Nat) :
    (s.raise c l).auth = (s.raiseOnce c l).auth ∧ (s.raise c l).play = (s.raiseOnce c l).play ∧
      (max s.stop.level l ≤ 2 → (s.raise c l).channels = (s.raiseOnce c l).channels) := by
  have kept : (s.raise c l).Stopped ∧ (s.raise c l).auth = (s.raiseOnce c l).auth ∧
      (s.raise c l).play = (s.raiseOnce c l).play ∧ (max s.stop.level l ≤ 2 → (s.raise c l).stop.level ≤ 2 ∧
        (s.raise c l).channels = (s.raiseOnce c l).channels) := by
    refine State.raise_keeps (P := fun t => t.Stopped ∧ t.auth = (s.raiseOnce c l).auth ∧
      t.play = (s.raiseOnce c l).play ∧ (max s.stop.level l ≤ 2 → t.stop.level ≤ 2 ∧
        t.channels = (s.raiseOnce c l).channels)) c l (fun _ h => h) (fun t z b h => ?flag)
      (fun t z h => ?act) ⟨State.raiseOnce_stopped .., rfl, rfl, fun low => ⟨by rwa [State.raiseOnce_level], rfl⟩⟩
    case flag =>
      unfold State.Stopped
      rwa [State.modZone_play, State.modZone_auth, State.modZone_stop, State.modZone_channels]
    case act =>
      obtain ⟨stopped, auth, play, channels⟩ := h
      refine ⟨State.raiseOnce_stopped .., (State.raiseOnce_auth stopped _ _).trans auth,
        (raiseOnce_stopped_play stopped _ _).trans play, fun low => ?_⟩
      obtain ⟨level, same⟩ := channels low
      exact ⟨by rw [State.raiseOnce_level]; exact max_le level le_rfl,
        (raiseOnce_stopped_channels stopped _ (max_le level le_rfl)).trans same⟩
  exact ⟨kept.2.1, kept.2.2.1, fun low => (kept.2.2.2 low).2⟩

end Once

/-! ### The engine's part in a raise, axis by axis -/

section Engine

variable {s : State} {h : Hold} {e : Nat} {c : Cue} {j : Axis}

theorem engineOnRaise_running (running : s.play.state = .running h e) : s.engineOnRaise =
    ({ s with play := { s.play with state := .paused h e } }).setModes (s.takeAxes h.slot) .paused := by
  rw [State.engineOnRaise, running]

/-- A cue, SEEKING or READY, is cancelled. -/
theorem engineOnRaise_cued (cued : s.play.state = .seeking c ∨ s.play.state = .ready c) :
    s.engineOnRaise.play = { s.play with state := .idle } ∧
      s.engineOnRaise.auth = (s.returnAxes (s.takeAxes c.hold.slot)).auth ∧
      s.engineOnRaise.channels = (s.returnAxes (s.takeAxes c.hold.slot)).channels := by
  unfold State.engineOnRaise
  obtain cued | cued := cued <;> rw [cued] <;> dsimp only <;>
    rw [State.post_play, State.post_auth, State.post_channels] <;> exact ⟨rfl, rfl, rfl⟩

/-- An axis that is not under a take, where modes and engine agree, is none of the axes that the engine's part names. -/
theorem takeAxes_apart (fit : s.modesFit) {m : Mode} (seat : s.play.state.seat = some (h, m))
    (apart : (s.mode j).underTake = false) (under : m.underTake = true) :
    (s.takeAxes h.slot).getLsbD j.val = false := by
  rw [modesFit_iff, seat] at fit
  obtain ⟨t, closed, holds⟩ := fit
  rw [takeAxes_of_closed closed]
  have at_ := holds j
  split at at_
  · rw [at_.1, under] at apart
    cases apart
  · exact Bool.eq_false_of_not_eq_true ‹¬ _›

/-- An axis under a take, where modes and engine agree, is one of the engine's. -/
theorem takeAxes_held (fit : s.modesFit) {m : Mode} (seat : s.play.state.seat = some (h, m))
    (under : (s.mode j).underTake = true) :
    (s.takeAxes h.slot).getLsbD j.val = true ∧ s.mode j = m ∧ (s.auth.get j).owner = some h.station := by
  rw [modesFit_iff, seat] at fit
  obtain ⟨t, closed, holds⟩ := fit
  rw [takeAxes_of_closed closed]
  have at_ := holds j
  split at at_
  · exact ⟨‹_›, at_⟩
  · rw [under] at at_
    cases at_

/-- The engine's part leaves an axis alone that is not under a take. -/
theorem engineOnRaise_apart (axes : ∀ h m, s.play.state.seat = some (h, m) → m.underTake = true →
    (s.takeAxes h.slot).getLsbD j.val = false) :
    s.engineOnRaise.auth.get j = s.auth.get j ∧ s.engineOnRaise.channels.get j = s.channels.get j := by
  cases state : s.play.state with
  | idle => rw [engineOnRaise_stopped (.inl state)]; exact ⟨rfl, rfl⟩
  | paused h e => rw [engineOnRaise_stopped (.inr ⟨h, e, state⟩)]; exact ⟨rfl, rfl⟩
  | running h e =>
    have out := axes h .playback (by rw [state]; rfl) rfl
    rw [engineOnRaise_running state]
    simp only [State.setModes, Tab.get_imap, out, Bool.false_eq_true, if_false, and_self]
  | seeking c =>
    have out := axes c.hold .seek (by rw [state]; rfl) rfl
    obtain ⟨-, auth, channels⟩ := engineOnRaise_cued (.inl state)
    rw [auth, channels]
    simp only [State.returnAxes, Tab.get_imap, out, Bool.false_eq_true, if_false, and_self]
  | ready c =>
    have out := axes c.hold .seek (by rw [state]; rfl) rfl
    obtain ⟨-, auth, channels⟩ := engineOnRaise_cued (.inr state)
    rw [auth, channels]
    simp only [State.returnAxes, Tab.get_imap, out, Bool.false_eq_true, if_false, and_self]

end Engine

/-! ### The axes of a station lost under a take -/

section UnderTake

variable {s : State} {st : Station} {j : Axis}

/-- The state the engine's part in LINK_LOST acts on. -/
def State.lossKnown (s : State) (st : Station) : State := ((s.cutOff st).takeRaise (.linkLost st) 1).generatorOnRaise

theorem lossKnown_frame (s : State) (st : Station) : (s.lossKnown st).auth = (s.cutOff st).auth ∧
    (s.lossKnown st).channels = (s.cutOff st).channels ∧ (s.lossKnown st).play = s.play ∧
    (s.lossKnown st).takes = s.takes ∧ (s.lossKnown st).linkState st = .down := by
  obtain ⟨auth, play, takes, channels, -⟩ := madeKnown_frame (s.cutOff st) (.linkLost st) 1
  have down : (s.cutOff st).linkState st ≠ .up := by
    rw [State.linkState, cutOff_link]
    exact LinkState.noConfusion
  refine ⟨auth, channels, play.trans (by rw [cutOff_frame]; rfl), takes.trans (by rw [cutOff_frame]; rfl), ?_⟩
  rw [State.linkState, State.lossKnown, takeRaise_link_down _ _ down, cutOff_link]
  rfl

theorem lossKnown_takeAxes (s : State) (st : Station) (i : TakeNo) : (s.lossKnown st).takeAxes i = s.takeAxes i := by
  rw [State.takeAxes, (lossKnown_frame s st).2.2.2.1]
  rfl

theorem lossKnown_auth (s : State) (st : Station) (j : Axis) :
    (s.lossKnown st).auth.get j = (s.auth.get j).afterLoss st := by
  rw [(lossKnown_frame s st).1, cutOff_auth]

/-- What a lost station that owns an axis under a take leaves of modes, engine and channels is what the engine's part
leaves. -/
theorem stationDown_engine (owns : s.ownsUnderTake st = true) :
    (s.stationDown st).auth = (s.lossKnown st).engineOnRaise.auth ∧
      (s.stationDown st).play = (s.lossKnown st).engineOnRaise.play ∧
      (s.stop.level ≤ 2 → (s.stationDown st).channels = (s.lossKnown st).engineOnRaise.channels) := by
  rw [stationDown_raises owns]
  obtain ⟨auth, play, channels⟩ := raise_asOnce (s.cutOff st) (.linkLost st) 1
  obtain ⟨play', auth', channels'⟩ := raiseOnce_engine (s.cutOff st) (.linkLost st) 1
  have level : (s.cutOff st).stop.level = s.stop.level := by rw [cutOff_frame]; rfl
  refine ⟨auth.trans auth', play.trans play', fun low => ?_⟩
  have low' : max (s.cutOff st).stop.level 1 ≤ 2 := by rw [level]; exact max_le low (by decide)
  exact (channels low').trans (channels' low')

/-- A MANUAL axis of the station is IDLE. -/
theorem stationDown_manual (owns : s.ownsUnderTake st = true) (fit : s.modesFit)
    (owner : (s.auth.get j).owner = some st) (manual : s.mode j = .manual) :
    (s.stationDown st).auth.get j = AuthEntry.idle ∧
      (s.stop.level ≤ 2 → (s.stationDown st).channels.get j = (s.channels.get j).zeroTarget) := by
  obtain ⟨auth, -, channels⟩ := stationDown_engine owns
  obtain ⟨auth', channels'⟩ := engineOnRaise_apart (s := s.lossKnown st) (j := j) fun h m seat under => by
    rw [(lossKnown_frame s st).2.2.1] at seat
    rw [lossKnown_takeAxes]
    exact takeAxes_apart fit seat (by rw [manual]; rfl) under
  refine ⟨?_, fun low => ?_⟩
  · rw [auth, auth', lossKnown_auth, afterLoss_manual owner manual]
  · rw [channels low, channels', (lossKnown_frame s st).2.1, cutOff_channel, if_pos ⟨owner, manual⟩]

/-- A take that runs or is PAUSED is PAUSED, and its axes under the station with it. -/
theorem stationDown_pauses (owns : s.ownsUnderTake st = true) (fit : s.modesFit) {h : Hold} {e : Nat}
    (runs : s.play.state = .running h e ∨ s.play.state = .paused h e) :
    (s.stationDown st).play = { s.play with state := .paused h e } ∧
      ((s.auth.get j).owner = some st → (s.mode j).underTake = true →
        (s.stationDown st).mode j = .paused ∧ ((s.stationDown st).auth.get j).owner = some st) := by
  obtain ⟨auth, play, -⟩ := stationDown_engine owns
  have engine := (lossKnown_frame s st).2.2.1
  have kept (under : (s.mode j).underTake = true) := afterLoss_kept (a := s.auth.get j) (st := st) fun ⟨_, manual⟩ => by
    rw [show s.mode j = .manual from manual] at under
    cases under
  unfold State.mode
  rw [auth, play]
  obtain running | paused := runs
  · rw [engineOnRaise_running (h := h) (e := e) (engine ▸ running)]
    refine ⟨congrArg (fun p => { p with state := .paused h e }) engine, fun owner under => ?_⟩
    obtain ⟨held, -⟩ := takeAxes_held fit (m := .playback) (by rw [running]; rfl) under
    simp only [State.setModes, Tab.get_imap, lossKnown_takeAxes, held, if_true, lossKnown_auth]
    exact ⟨trivial, (kept under).2.1.trans owner⟩
  · rw [engineOnRaise_stopped (.inr ⟨h, e, engine ▸ paused⟩), engine]
    refine ⟨by rw [← paused], fun owner under => ?_⟩
    obtain ⟨-, mode, -⟩ := takeAxes_held fit (m := .paused) (by rw [paused]; rfl) under
    rw [lossKnown_auth]
    exact ⟨(kept under).1.trans mode, (kept under).2.1.trans owner⟩

/-- A cue is cancelled, and its axes under the station are IDLE. -/
theorem stationDown_cancels (owns : s.ownsUnderTake st = true) (fit : s.modesFit) {c : Cue}
    (cued : s.play.state = .seeking c ∨ s.play.state = .ready c) :
    (s.stationDown st).play = { s.play with state := .idle } ∧
      ((s.auth.get j).owner = some st → (s.mode j).underTake = true →
        (s.stationDown st).auth.get j = AuthEntry.idle) := by
  obtain ⟨auth, play, -⟩ := stationDown_engine owns
  obtain ⟨-, -, engine, -, down⟩ := lossKnown_frame s st
  obtain ⟨play', auth', -⟩ := engineOnRaise_cued (s := s.lossKnown st) (engine ▸ cued)
  refine ⟨by rw [play, play', engine], fun owner under => ?_⟩
  have seat : s.play.state.seat = some (c.hold, .seek) := by obtain cued | cued := cued <;> rw [cued] <;> rfl
  obtain ⟨held, mode, -⟩ := takeAxes_held fit seat under
  have kept := afterLoss_kept (a := s.auth.get j) (st := st) fun ⟨_, manual⟩ => by
    rw [show s.mode j = .manual from manual] at under
    cases under
  have notUp : (s.lossKnown st).ownerUp ((s.auth.get j).afterLoss st) = false := by
    rw [State.ownerUp, kept.2.1, owner]
    simp [down]
  rw [auth, auth']
  simp only [State.returnAxes, Tab.get_imap, lossKnown_takeAxes, held, if_true, lossKnown_auth, notUp]
  rfl

end UnderTake

/-! ### The loss of a station -/

/-- The state with the last-frame count of a station at 250. -/
def State.timedOut (s : State) (st : Station) : State := s.modStation st fun r => { r with lastFrame := 250 }

/-- Settles O25: the loss alone where no axis of the station is under a take, and with the raise of LINK_LOST where one
is. -/
theorem stationLostGivesUpItsAxes : Obligations.StationLostGivesUpItsAxes := by
  intro s st running connected due
  have run : exec (.stationLost st) s = .next ((s.timedOut st).stationDown st) := by
    show execStationLost st s = _
    rw [execStationLost, awake_next _ running, if_pos ⟨connected, Nat.succ_le_succ due⟩]
    rfl
  have gone := stationDown_gone (s.timedOut st) st
  have cut : (s.timedOut st).cutOff st = { s with
      stations := (s.timedOut st).stations, links := ((s.timedOut st).cutOff st).links
      auth := ((s.timedOut st).cutOff st).auth, channels := ((s.timedOut st).cutOff st).channels
      mapStaging := ((s.timedOut st).cutOff st).mapStaging, zones := ((s.timedOut st).cutOff st).zones
      marks := ((s.timedOut st).cutOff st).marks } := by
    rw [cutOff_frame]
    rfl
  refine ⟨_, run, congrArg Link.state gone.link, congrArg Link.replies gone.link, congrArg Link.assembly gone.link,
    congrArg Link.notices gone.link, gone.trim, gone.staging, gone.maps, gone.reader, fun owns => ?quiet, fun owns => ?raises,
    fun owns fit => ⟨fun j owner manual => stationDown_manual (s := s.timedOut st) owns fit owner manual,
      fun h e runs => ⟨(stationDown_pauses (s := s.timedOut st) (j := 0) owns fit runs).1,
        fun j => (stationDown_pauses (s := s.timedOut st) owns fit runs).2⟩,
      fun c cued => ⟨(stationDown_cancels (s := s.timedOut st) (j := 0) owns fit cued).1,
        fun j => (stationDown_cancels (s := s.timedOut st) owns fit cued).2⟩⟩⟩
  case quiet =>
    rw [stationDown_quiet (s := s.timedOut st) owns]
    refine ⟨fun j owner manual => ⟨?_, ?_⟩, fun j other => ?_, ?_⟩
    · rw [cutOff_auth]
      exact afterLoss_manual owner manual
    · rw [cutOff_channel]
      exact if_pos ⟨owner, manual⟩
    · have kept := afterLoss_kept (a := s.auth.get j) (st := st) fun ⟨owner, _⟩ => other owner
      rw [State.mode, cutOff_auth, cutOff_channel]
      exact ⟨kept.1, kept.2.1, kept.2.2, if_neg fun ⟨owner, _⟩ => other owner⟩
    · rw [cut]
  case raises =>
    rw [stationDown_raises (s := s.timedOut st) owns]
    have level := State.le_raise_level (s := (s.timedOut st).cutOff st) (.linkLost st) 1
    rw [show ((s.timedOut st).cutOff st).stop.level = s.stop.level by rw [cut]] at level
    refine ⟨raise_memory _ _ _ _ (.inl rfl), level, (raise_stopsTakes _ _ _).1, ?_⟩
    have changed := raise_changedByAStop (s := (s.timedOut st).cutOff st) (u := (s.timedOut st).cutOff st) (.linkLost st) 1 rfl
    unfold State.ChangedByAStop at changed ⊢
    rw [changed, cut]

/-! ### Bad frames (R189) -/

section BadFrames

variable {s : State} {st : Station} {chars : List LinkChar}

theorem exec_badFrame (running : s.sysreset = false) (bad : isBadFrame chars = true) :
    exec (.badFrame st chars) s = .next (s.badFrame st (isTestFrame chars)) := by
  show execBadFrame st chars s = _
  rw [execBadFrame, awake_next _ running, if_pos bad]

theorem exec_badRunLimit (running : s.sysreset = false) (many : 31 ≤ (s.links.get st).badRun) :
    exec (.badRunLimit st) s = .next (s.badFrame st false) := by
  show execBadRunLimit st s = _
  rw [execBadRunLimit, awake_next _ running, if_pos (by omega)]

/-- The link record with a bad frame counted. -/
def Link.countBad (l : Link) (isTest : Bool) : Link :=
  { l with
    crcErrors := min 65535 (l.crcErrors + 1), badRun := min 32 (l.badRun + 1)
    test := if l.state = .test ∧ isTest then { l.test with previous := none } else l.test }

theorem badFrame_eq (connected : s.linkState st = .up ∨ s.linkState st = .test) (isTest : Bool) :
    s.badFrame st isTest = if 32 ≤ (s.links.get st).badRun + 1 then (s.modLink st fun l => l.countBad isTest).stationDown st
      else s.modLink st fun l => l.countBad isTest := if_pos connected

/-- The bad frame that ends a run takes the link DOWN with the error counted. -/
theorem badFrame_ends (connected : s.linkState st = .up ∨ s.linkState st = .test) (many : 31 ≤ (s.links.get st).badRun)
    (isTest : Bool) : (s.badFrame st isTest).linkState st = .down ∧
      ((s.badFrame st isTest).links.get st).crcErrors = min 65535 ((s.links.get st).crcErrors + 1) ∧
      ((s.badFrame st isTest).links.get st).replies = [] ∧ ((s.badFrame st isTest).links.get st).assembly = none ∧
      (∀ j, ((s.badFrame st isTest).auth.get j).trimStation ≠ some st) ∧
      ∀ j, (s.auth.get j).owner = some st → s.mode j = .manual → s.ownsUnderTake st = false →
        (s.badFrame st isTest).auth.get j = AuthEntry.idle := by
  have gone := stationDown_gone (s.modLink st fun l => l.countBad isTest) st
  have link : (s.modLink st fun l => l.countBad isTest).links.get st = (s.links.get st).countBad isTest :=
    Tab.get_modify_same ..
  rw [badFrame_eq connected, if_pos (by omega)]
  refine ⟨congrArg Link.state gone.link, (congrArg Link.crcErrors gone.link).trans (congrArg Link.crcErrors link),
    congrArg Link.replies gone.link, congrArg Link.assembly gone.link, gone.trim, fun j owner manual owns => ?_⟩
  rw [stationDown_quiet (s := s.modLink st fun l => l.countBad isTest) owns, cutOff_auth]
  exact afterLoss_manual owner manual

end BadFrames

/-- Settles O35: each bad frame is counted, and the one that ends a run is the loss of its station. -/
theorem badFramesAreCounted : Obligations.BadFramesAreCounted := by
  intro s st chars running connected bad
  refine ⟨fun few => ?counts, fun many c which => ?ends⟩
  case counts =>
    rw [exec_badFrame running bad, badFrame_eq connected, if_neg (by omega)]
    have counted : (s.links.get st).countBad (isTestFrame chars) = { s.links.get st with
        crcErrors := min 65535 ((s.links.get st).crcErrors + 1), badRun := (s.links.get st).badRun + 1
        test := if (s.links.get st).state = .test ∧ isTestFrame chars = true then
          { (s.links.get st).test with previous := none } else (s.links.get st).test } := by
      rw [Link.countBad, min_eq_right (by omega : (s.links.get st).badRun + 1 ≤ 32)]
    exact congrArg Host.Outcome.next (modLink_congr counted)
  case ends =>
    obtain rfl | rfl := which
    · exact ⟨_, exec_badFrame running bad, badFrame_ends connected many _⟩
    · exact ⟨_, exec_badRunLimit running many, badFrame_ends connected many _⟩

end Sys2Proof.Machine
end

section
/-! Building and changing zone entries (O48). -/

namespace Sys2Proof.Machine

/-! ### The numbers of ZONE_OPEN -/

theorem tableOf_of_get {n : Nat} {t : ZoneTable} (h : [ZoneTable.set, .crew][n]? = some t) : tableOf n = some t := by
  match n, h with
  | 0, h => exact h
  | 1, h => exact h

theorem zoneKindOf_of_get {n : Nat} {k : ZoneKind} (h : [ZoneKind.hard, .slow][n]? = some k) : zoneKindOf n = some k := by
  match n, h with
  | 0, h => exact h
  | 1, h => exact h

theorem modeMatchOf_of_get {n : Nat} {m : ModeMatch} (h : [ModeMatch.manual, .playback, .both][n]? = some m) :
    modeMatchOf n = some m := by
  match n, h with
  | 0, h => exact h
  | 1, h => exact h
  | 2, h => exact h

theorem zoneIdOf_eq {n : Nat} {z : ZoneId} (table : tableOf n = some z.table) : zoneIdOf n z.index.val = some z := by
  rw [zoneIdOf, table]
  dsimp only
  rw [dif_pos z.index.isLt]

/-- The staging record that valid arguments of ZONE_OPEN open. -/
theorem openedStaging_eq {a : ZoneOpenArgs} {z : ZoneId} {kind : ZoneKind} {mode : ModeMatch}
    (zone : zoneIdOf a.table a.index = some z) (isKind : zoneKindOf a.kind = some kind)
    (isMode : modeMatchOf a.modeMatch = some mode) (valid : openFieldsValid z.table kind a.cap a.mask = true) :
    openedStaging a = some ⟨z, ⟨a.enabled, kind, heldCap kind a.cap, mode, a.mask, Tab.const 7 none⟩⟩ := by
  rw [openedStaging, zone, isKind, isMode]
  exact if_pos valid

theorem openFieldsValid_of {t : ZoneTable} {kind : ZoneKind} {cap : Nat} {mask : ChannelSet}
    (caps : kind = .slow → 5 ≤ cap ∧ cap ≤ 100) (masks : t = .set ↔ mask = 0) :
    openFieldsValid t kind cap mask = true := by
  rw [openFieldsValid, decide_eq_true masks, Bool.and_true]
  cases kind with
  | hard => rfl
  | slow => simp [caps rfl]

theorem flagOf_bit (on : Bool) : flagOf (if on then 1 else 0) = some on := by cases on <;> rfl

/-! ### The items of ZONE_RANGE -/

section Items

variable {e : ZoneEntry} {items : List (Nat × Option (Int × Int))} {m : Motion}

/-- One item set in an entry. -/
def ZoneEntry.putRange (e : ZoneEntry) (item : Nat × Option (Int × Int)) : ZoneEntry :=
  match motionNumber item.1 with
  | some m => { e with ranges := e.ranges.set m item.2 }
  | none => e

theorem putRanges_cons (e : ZoneEntry) (item : Nat × Option (Int × Int)) (items : List (Nat × Option (Int × Int))) :
    e.putRanges (item :: items) = (e.putRange item).putRanges items := rfl

theorem putRanges_append (e : ZoneEntry) (before rest : List (Nat × Option (Int × Int))) :
    e.putRanges (before ++ rest) = (e.putRanges before).putRanges rest := List.foldl_append ..

theorem motionNumber_val (m : Motion) : motionNumber m.val = some m := by
  rw [motionNumber, dif_pos m.isLt]

theorem motionNumber_some {n : Nat} (h : motionNumber n = some m) : n = m.val := by
  unfold motionNumber at h
  split at h
  · injection h with h
    rw [← h]
  · cases h

theorem putRange_frame (e : ZoneEntry) (item : Nat × Option (Int × Int)) :
    e.putRange item = { e with ranges := (e.putRange item).ranges } := by
  unfold ZoneEntry.putRange
  split <;> rfl

theorem putRanges_frame (items : List (Nat × Option (Int × Int))) (e : ZoneEntry) :
    e.putRanges items = { e with ranges := (e.putRanges items).ranges } := by
  induction items generalizing e with
  | nil => rfl
  | cons item items ih =>
    rw [putRanges_cons, ih, putRange_frame]

theorem putRanges_other (e : ZoneEntry) (other : ∀ x ∈ items, x.1 ≠ m.val) :
    (e.putRanges items).ranges.get m = e.ranges.get m := by
  induction items generalizing e with
  | nil => rfl
  | cons item items ih =>
    rw [putRanges_cons, ih _ fun x mem => other x (List.mem_cons_of_mem _ mem)]
    unfold ZoneEntry.putRange
    split
    · rename_i i number
      refine Tab.get_set_other _ _ fun same => ?_
      exact other item (List.mem_cons_self ..) (by rw [motionNumber_some number, same])
    · rfl

/-- The last item of an axis stands. -/
theorem putRanges_last (e : ZoneEntry) (before rest : List (Nat × Option (Int × Int))) (r : Option (Int × Int))
    (last : ∀ x ∈ rest, x.1 ≠ m.val) : (e.putRanges (before ++ (m.val, r) :: rest)).ranges.get m = r := by
  rw [putRanges_append, putRanges_cons, putRanges_other _ last]
  unfold ZoneEntry.putRange
  rw [motionNumber_val]
  exact Tab.get_set_same ..

end Items

/-! ### Entries judged afresh -/

section Judged

variable {s t : State} {z y : ZoneId}

theorem setStaging_changedByAStop {st : Station} {g : Option ZoneStaging} (h : s.ChangedByAStop t) :
    s.ChangedByAStop (t.setStaging st g) := by
  unfold State.ChangedByAStop at h ⊢
  rw [h]
  rfl

theorem judgeZones_staging (s : State) : s.judgeZones.zones.staging = s.zones.staging :=
  State.judgeZones_keeps (P := fun t => t.zones.staging = s.zones.staging) (fun _ h => h)
    (fun _ _ _ h => (modZone_staging ..).trans h) (fun t z h => by rw [raiseOnce_zones]; exact h) rfl

/-- A judgement leaves every entry and brings every flag to what R88 and R95 give. -/
theorem judgeZones_holds (s : State) : (∀ y, (s.judgeZones.zone y).entry = (s.zone y).entry) ∧
    s.judgeZones.ActivityHolds :=
  have judged : s.ZonesJudged s.judgeZones := (State.zonesJudged_judgeZones (fun _ => rfl) rfl rfl rfl).1
  ⟨judged.1, judged.2.1⟩

end Judged

/-- Settles O48: each request sets its record or entry, and the tables are judged afresh after a change. -/
theorem zoneEntriesAreBuiltAndLoaded : Obligations.ZoneEntriesAreBuiltAndLoaded := by
  intro s st tag p served config
  have right : (s.afterFrame st).holds st .config = true := by rwa [State.afterFrame_holds]
  refine ⟨fun z kind mode on bt bi bk cap bm mask payload table index isKind isMode caps masks => ?opens,
    fun items g decodes staged valid => ?ranges, fun g empty staged ranged complete rest free => ?loads,
    fun z table v decodes isTable allowed rest => ?enables⟩
  case opens =>
    have decodes : zoneOpenArgs p = some ⟨bt.toNat, z.index.val, on, bk.toNat, cap.toNat, bm.toNat, mask⟩ := by
      rw [payload, zoneOpenArgs, flagOf_bit, index]
      rfl
    have opened := openedStaging_eq (a := ⟨bt.toNat, z.index.val, on, bk.toNat, cap.toNat, bm.toNat, mask⟩)
      (zoneIdOf_eq (tableOf_of_get table)) (zoneKindOf_of_get isKind) (modeMatchOf_of_get isMode)
      (openFieldsValid_of caps masks)
    have run := request_taken (tag := tag) (code := 14) (detail := []) (verdict := fun a t => State.zoneOpenVerdict t st a)
      (taken := fun a t => t.setStaging st (openedStaging a)) served decodes (by
        simp only [State.zoneOpenVerdict, right, opened]
        rw [if_neg (by simp), if_neg nofun])
    rw [opened] at run
    exact run
  case ranges =>
    have numbered : (items.any fun x => decide (motionNumber x.1 = none) || !rangeValid x.2) = false :=
      List.any_eq_false.mpr fun x mem => by
        obtain ⟨small, ranged⟩ := valid x mem
        simp [motionNumber, small, ranged]
    have run := request_taken (tag := tag) (code := 15) (detail := [])
      (verdict := fun items t => State.zoneRangeVerdict t st items) (taken := fun items t => t.zoneRangeTaken st items)
      served decodes (by simp [State.zoneRangeVerdict, config, staged, numbered])
    rw [State.zoneRangeTaken, State.afterFrame_zones, staged] at run
    refine ⟨g.entry.putRanges items, run, fun m before r rest split last => ?_, fun m none => ?_, putRanges_frame ..⟩
    · rw [split]
      exact putRanges_last _ _ _ _ last
    · exact putRanges_other _ fun x mem same => none x.2 (by rw [← same]; exact mem)
  case loads =>
    subst empty
    have taken : (s.afterFrame st).loadZoneTaken st = ((((s.afterFrame st).modZone g.zone fun y =>
        ⟨g.entry, y.active, false⟩).setStaging st none).judgeZones) := by
      rw [State.loadZoneTaken, State.afterFrame_zones, staged]
    have run := request_taken (tag := tag) (code := 16) (detail := []) (a := ())
      (verdict := fun _ t => State.loadZoneVerdict t st) (taken := fun _ t => t.loadZoneTaken st) (decode := noArgs) served rfl (by
        simp only [State.loadZoneVerdict, right, State.afterFrame_zones, staged]
        rw [if_neg (by simp), if_neg (by
          rintro (none | ⟨on, incomplete⟩)
          · rw [ranged] at none; cases none
          · rw [complete on] at incomplete; cases incomplete), if_neg (fun busy => by
            rw [show (s.afterFrame st).restForZones = s.restForZones from rfl, rest] at busy; cases busy),
          if_neg (fun occupied => by
            rw [show (s.afterFrame st).wouldBeOccupied g.zone.table g.entry = s.wouldBeOccupied g.zone.table g.entry from
              rfl, free] at occupied
            cases occupied)])
    rw [taken] at run
    obtain ⟨entries, holds⟩ := judgeZones_holds (((s.afterFrame st).modZone g.zone fun y =>
        ⟨g.entry, y.active, false⟩).setStaging st none)
    have zones (y : ZoneId) : (((s.afterFrame st).modZone g.zone fun y => ⟨g.entry, y.active, false⟩).setStaging st
        none).zone y = if y = g.zone then ⟨g.entry, (s.zone g.zone).active, false⟩ else s.zone y :=
      State.zone_modZone ..
    refine ⟨_, run, ?_, fun z other => ?_, ?_, holds, judgeZones_changedByAStop ?_⟩
    · rw [entries, zones, if_pos rfl]
    · rw [entries, zones, if_neg other]
    · rw [judgeZones_staging, State.setStaging, modZone_staging]
      rfl
    · exact setStaging_changedByAStop (modZone_changedByAStop rfl)
  case enables =>
    have zone := zoneIdOf_eq isTable
    have taken : (s.afterFrame st).zoneEnableTaken table z.index.val v = ((s.afterFrame st).modZone z fun y =>
        { y with entry := { y.entry with enabled := v } }).judgeZones := by
      rw [State.zoneEnableTaken, zone]
    have run := request_taken (tag := tag) (code := 17) (detail := []) (a := (table, z.index.val, v))
      (verdict := fun a t => State.zoneEnableVerdict t st a.1 a.2.1 a.2.2)
      (taken := fun a t => t.zoneEnableTaken a.1 a.2.1 a.2.2) served decodes (by
        simp only [State.zoneEnableVerdict, right, zone]
        rw [if_neg (by simp), if_neg (fun ⟨on, incomplete⟩ => by
          rw [show (s.afterFrame st).zone z = s.zone z from rfl, (allowed on).1] at incomplete; cases incomplete),
          if_neg (fun busy => by
            rw [show (s.afterFrame st).restForZones = s.restForZones from rfl, rest] at busy; cases busy),
          if_neg (fun ⟨on, occupied⟩ => by
            rw [show (s.afterFrame st).wouldBeOccupied z.table { ((s.afterFrame st).zone z).entry with enabled := true } =
              s.wouldBeOccupied z.table { (s.zone z).entry with enabled := true } from rfl, (allowed on).2] at occupied
            cases occupied)])
    rw [taken] at run
    obtain ⟨entries, holds⟩ := judgeZones_holds ((s.afterFrame st).modZone z fun y =>
        { y with entry := { y.entry with enabled := v } })
    have zones (y : ZoneId) : ((s.afterFrame st).modZone z fun y => { y with entry := { y.entry with enabled := v }
        }).zone y = if y = z then { s.zone z with entry := { (s.zone z).entry with enabled := v } } else s.zone y :=
      State.zone_modZone ..
    refine ⟨_, run, ?_, fun y other => ?_, ?_, holds, judgeZones_changedByAStop (modZone_changedByAStop rfl)⟩
    · rw [entries, zones, if_pos rfl]
    · rw [entries, zones, if_neg other]
    · rw [judgeZones_staging, modZone_staging]
      rfl

end Sys2Proof.Machine
end

section
/-! Cues (O56): the seek that a CUE or a RESUME begins, judged by zones that the crane is outside of. -/

namespace Sys2Proof.Machine

/-! ### A judgement that finds the crane outside every entry -/

section Free

variable {s : State}

/-- The crane is in no HARD entry that is enabled. -/
def State.ClearOfZones (s : State) : Prop :=
  ∀ z, (s.zone z).entry.enabled = true → (s.zone z).entry.kind = .hard → (s.zone z).entry.occupiedAt s.zonePosition = false

theorem modZone_tables (s : State) (z : ZoneId) (f : Zone → Zone) : s.modZone z f = { s with zones := { s.zones with
    setTable := (s.modZone z f).zones.setTable, crewTable := (s.modZone z f).zones.crewTable } } := by
  unfold State.modZone
  split <;> rfl

theorem testFlag_tables (s : State) (z : ZoneId) : s.testFlag z = { s with zones := { s.zones with
    setTable := (s.testFlag z).zones.setTable, crewTable := (s.testFlag z).zones.crewTable } } := by
  unfold State.testFlag
  split
  · exact modZone_tables ..
  · rfl

theorem testFlags_tables (zs : List ZoneId) (s : State) : zs.foldl State.testFlag s = { s with zones := { s.zones with
    setTable := (zs.foldl State.testFlag s).zones.setTable
    crewTable := (zs.foldl State.testFlag s).zones.crewTable } } := by
  induction zs generalizing s with
  | nil => rfl
  | cons z zs ih =>
    rw [List.foldl_cons, ih, testFlag_tables]

/-- Where the crane is outside every enabled HARD entry the test after a judgement finds nothing to raise for. -/
theorem foundOccupied_clear (clear : s.ClearOfZones) (zs : List ZoneId) : s.rejudgeAll.foundOccupied zs = [] := by
  refine List.filter_eq_nil_iff.mpr fun z _ found => ?_
  rw [State.zone_rejudgeAll] at found
  obtain ⟨tested, -⟩ := Bool.and_eq_true_iff.mp found
  obtain ⟨tested, inside⟩ := Bool.and_eq_true_iff.mp tested
  obtain ⟨active, hard⟩ := Bool.and_eq_true_iff.mp tested
  replace active : s.entryActive z.table (s.zone z).entry = true := active
  replace inside : (s.zone z).entry.occupiedAt s.zonePosition = true := inside
  have enabled : (s.zone z).entry.enabled = true := by
    rw [State.entryActive, Bool.and_eq_true, Bool.and_eq_true] at active
    exact active.1.1
  rw [clear z enabled (of_decide_eq_true hard)] at inside
  cases inside

/-- A judgement with the crane outside every enabled HARD entry changes flags of zones alone. -/
theorem judgeZones_clear (clear : s.ClearOfZones) : s.judgeZones = { s with zones := { s.zones with
    setTable := s.judgeZones.zones.setTable, crewTable := s.judgeZones.zones.crewTable } } := by
  have flags : s.judgeZones = s.becomingActive.foldl State.testFlag s.rejudgeAll := by
    show s.rejudgeAll.testZones _ _ = _
    rw [State.testZones, foundOccupied_clear clear]
    rfl
  rw [flags, testFlags_tables]
  rfl

end Free

/-! ### The seek begun -/

/-- A cue taken: the engine SEEKING, the axes of its take in SEEK, their targets supplied. -/
def State.seekBegun (s : State) (c : Cue) (axes : AxisSet) : State :=
  ((s.setEngine (.seeking c)).setModes axes .seek).supplyTargets

section Seek

variable {s : State} {c : Cue} {k : Take} {j : Axis} {m : Moving}

theorem seekBegun_supplied (closed : s.takes.closedTake c.hold.slot = some k) (axes : AxisSet) :
    ((s.setEngine (.seeking c)).setModes axes .seek).supplied j =
      some (s.takes.pathPosition k j (c.runStart + s.lead j)) := by
  simp only [State.supplied, State.setEngine, State.setModes, closed, Option.map_some]
  rfl

/-- An axis of the take seeks its path position with its trim, clamped to its soft limits. -/
theorem seekBegun_channel (closed : s.takes.closedTake c.hold.slot = some k) (held : k.axes.getLsbD j.val = true)
    (moving : (s.channels.get j).moving = some m) : (s.seekBegun c k.axes).channels.get j =
      { s.channels.get j with moving := some { m with target := .position (clampTarget (s.limits j)
        (s.takes.pathPosition k j (c.runStart + s.lead j) + (s.channels.get j).trimOffset * 256)) none } } := by
  have seek : ((s.setEngine (.seeking c)).setModes k.axes .seek).mode j = .seek := by
    simp only [State.mode, State.setModes, Tab.get_imap, held, if_true]
  have channel : ((s.setEngine (.seeking c)).setModes k.axes .seek).channels.get j = s.channels.get j := rfl
  simp only [State.seekBegun, State.supplyTargets, Tab.get_imap, seekBegun_supplied closed, channel, moving, seek, if_true]
  rfl

theorem seekBegun_other (closed : s.takes.closedTake c.hold.slot = some k) (out : k.axes.getLsbD j.val = false)
    (apart : (s.mode j).underTake = false) : (s.seekBegun c k.axes).channels.get j = s.channels.get j := by
  have mode : ((s.setEngine (.seeking c)).setModes k.axes .seek).mode j = s.mode j := by
    simp only [State.mode, State.setModes, Tab.get_imap, out, Bool.false_eq_true, if_false]
    rfl
  have seek : s.mode j ≠ .seek := fun same => by rw [same] at apart; cases apart
  have playback : s.mode j ≠ .playback := fun same => by rw [same] at apart; cases apart
  have channel : ((s.setEngine (.seeking c)).setModes k.axes .seek).channels.get j = s.channels.get j := rfl
  simp only [State.seekBegun, State.supplyTargets, Tab.get_imap, seekBegun_supplied closed, mode, seek, playback, if_false]
  split
  · exact channel
  · exact channel

theorem seekBegun_auth (s : State) (c : Cue) (axes : AxisSet) (j : Axis) : (s.seekBegun c axes).auth.get j =
    if axes.getLsbD j.val then { s.auth.get j with mode := .seek, stale := false } else s.auth.get j := Tab.get_imap ..

theorem seekBegun_frame (s : State) (c : Cue) (axes : AxisSet) : s.seekBegun c axes = { s with
    play := { s.play with state := .seeking c }, auth := (s.seekBegun c axes).auth
    channels := (s.seekBegun c axes).channels } := rfl

theorem supplyTargets_position (s : State) (j : Axis) :
    ((s.supplyTargets.channels.get j).moving.map fun m => m.p) = (s.channels.get j).moving.map fun m => m.p := by
  simp only [State.supplyTargets, Tab.get_imap]
  split
  · rename_i m x moving _
    split
    · rw [moving]; rfl
    · split
      · rw [moving]; rfl
      · rfl
  · rfl

/-- A seek begun moves no zone position. -/
theorem seekBegun_zonePosition (s : State) (c : Cue) (axes : AxisSet) :
    (s.seekBegun c axes).zonePosition = s.zonePosition := by
  funext m
  rw [State.zonePosition_eq, State.zonePosition_eq, State.seekBegun, supplyTargets_position]
  rfl

theorem seekBegun_clear (clear : s.ClearOfZones) (axes : AxisSet) : (s.seekBegun c axes).ClearOfZones := by
  unfold State.ClearOfZones
  rw [seekBegun_zonePosition]
  exact clear

/-- What a seek leaves once the zones have been judged, with the crane outside every enabled HARD entry. -/
theorem seekBegun_judged (closed : s.takes.closedTake c.hold.slot = some k) (clear : s.ClearOfZones) :
    let t := (s.seekBegun c k.axes).judgeZones
    t.play = { s.play with state := .seeking c } ∧
      (∀ j : Axis, t.auth.get j =
        if k.axes.getLsbD j.val then { s.auth.get j with mode := .seek, stale := false } else s.auth.get j) ∧
      (∀ (j : Axis) m, k.axes.getLsbD j.val = true → (s.channels.get j).moving = some m →
        t.channels.get j = { s.channels.get j with moving := some { m with target := .position (clampTarget (s.limits j)
          (s.takes.pathPosition k j (c.runStart + s.lead j) + (s.channels.get j).trimOffset * 256)) none } }) ∧
      (∀ j : Axis, k.axes.getLsbD j.val = false → (s.mode j).underTake = false → t.channels.get j = s.channels.get j) ∧
      (∀ z, (t.zone z).entry = (s.zone z).entry) ∧
      t.zones = { s.zones with setTable := t.zones.setTable, crewTable := t.zones.crewTable } ∧
      t = { s with play := t.play, auth := t.auth, channels := t.channels, zones := t.zones } := by
  intro t
  have judged : t = { s.seekBegun c k.axes with zones := { s.zones with
      setTable := t.zones.setTable, crewTable := t.zones.crewTable } } := judgeZones_clear (seekBegun_clear clear k.axes)
  have play : t.play = { s.play with state := .seeking c } := by rw [judged]; rfl
  have auth : t.auth = (s.seekBegun c k.axes).auth := by rw [judged]
  have channels : t.channels = (s.seekBegun c k.axes).channels := by rw [judged]
  refine ⟨play, fun j => ?_, fun j m held moving => ?_, fun j out apart => ?_,
    (judgeZones_holds (s.seekBegun c k.axes)).1, ?_, ?_⟩
  · rw [auth, seekBegun_auth]
  · rw [channels, seekBegun_channel closed held moving]
  · rw [channels, seekBegun_other closed out apart]
  · rw [judged]
  · rw [play, auth, channels, judged]
    rfl

end Seek

/-! ### CUE (R168, R170, R185) -/

section Cues

variable {s : State} {st : Station} {i : TakeNo} {given : Option Time} {ignore : Bool} {k : Take} {reason : CloseReason}

theorem cue_busy (right : s.holds st .play = true) (held : s.play.state ≠ .idle) :
    s.cue st i.val given ignore = (s.countMissed, ⟨.busy, []⟩) := by
  rw [State.cue, if_neg (by rw [right]; exact nofun), slotOf_val]
  exact if_pos held

/-- A CUE of a CLOSED take, with the engine IDLE at level 0, is left to the later checks. -/
theorem cue_closed (right : s.holds st .play = true) (idle : s.play.state = .idle) (level : s.stop.level = 0)
    (closed : s.takes.slots.get i = .closed k reason) :
    s.cue st i.val given ignore = s.cueClosed st i k (given.map s.effectiveStart) ignore := by
  rw [State.cue, if_neg (by rw [right]; exact nofun), slotOf_val]
  dsimp only
  rw [if_neg (not_not_intro idle), if_neg (by omega), closed]

/-- The checks of the axes, the lens maps and the sync passed, the start and the zones are left. -/
theorem cueClosed_checked {start : Option Time} (axes : ∀ j : Axis, k.axes.getLsbD j.val = true →
      (s.auth.get j).owner = some st ∧ s.mode j = .manual ∧ s.driveState j = .active ∧ s.breaksLimits k j = false)
    (lens : ignore = true ∨ s.lensChanged k = false) (sync : start.isSome = true → s.time.drift = false) :
    s.cueClosed st i k start ignore =
      if start.any fun x => decide (x.toNat ≤ s.time.now.toNat) then (s.countLate, ⟨.late, []⟩)
      else if s.insideZone (s.startPosition k 0 false) then (s, ⟨.occupied, []⟩)
      else (s.cueTaken st i k start ignore, ⟨.ok, []⟩) := by
  have barred : (axesOf k.axes).any (s.cueBarred st) = false := any_axesOf_false fun j held => by
    obtain ⟨owner, mode, drive, -⟩ := axes j held
    simp [State.cueBarred, owner, mode, drive]
  have limits : (axesOf k.axes).any (s.breaksLimits k) = false := any_axesOf_false fun j held => (axes j held).2.2.2
  rw [State.cueClosed, barred, if_neg Bool.false_ne_true, limits, if_neg Bool.false_ne_true, if_neg (by
    rintro ⟨asked, changed⟩
    obtain ignored | same := lens
    · rw [ignored] at asked; cases asked
    · rw [same] at changed; cases changed), if_neg (by
    rintro ⟨timed, drift⟩
    rw [sync timed] at drift
    cases drift)]

end Cues

/-- Settles O56: the engine's state, then the checks in their order, and the seek that nothing refuses. -/
theorem cuesBeginASeek : Obligations.CuesBeginASeek := by
  intro s st tag p i given ignore served decodes right
  have right' : (s.afterFrame st).holds st .play = true := by rwa [State.afterFrame_holds]
  refine ⟨fun held => request_gives served decodes (cue_busy right' held),
    fun k reason idle level closed axes lens sync => ?_⟩
  have rule : (s.afterFrame st).cue st i.val given ignore = (s.afterFrame st).cueClosed st i k
      (given.map s.effectiveStart) ignore := cue_closed right' idle level closed
  have checked := cueClosed_checked (s := s.afterFrame st) (st := st) (i := i) (k := k)
    (start := given.map s.effectiveStart) axes lens (by
      cases given with
      | none => exact nofun
      | some x => exact fun _ => sync x rfl)
  rw [checked] at rule
  refine ⟨fun x timed come => ?late, fun early free clear => ?seeks⟩
  case late =>
    refine request_gives served decodes (rule.trans (if_pos ?_))
    rw [timed]
    exact decide_eq_true come
  case seeks =>
    have notCome : ¬ ((given.map s.effectiveStart).any fun x => decide (x.toNat ≤ (s.afterFrame st).time.now.toNat)) =
        true := by
      cases given with
      | none => exact nofun
      | some x => exact fun come => absurd (of_decide_eq_true come) (not_le.mpr (early x rfl))
    have free' : ¬ (s.afterFrame st).insideZone ((s.afterFrame st).startPosition k 0 false) = true := by
      rw [show (s.afterFrame st).insideZone ((s.afterFrame st).startPosition k 0 false) =
        s.insideZone (s.startPosition k 0 false) from rfl, free]
      exact Bool.false_ne_true
    rw [if_neg notCome, if_neg free'] at rule
    have slot : (s.afterFrame st).takes.closedTake i = some k := closedTake_eq_some.mpr ⟨reason, closed⟩
    have seek := seekBegun_judged (s := s.afterFrame st) (c := ⟨⟨i, st, ignore⟩, given.map s.effectiveStart, false, 0⟩)
      slot clear
    simp only [Nat.zero_add] at seek
    exact ⟨_, request_gives served decodes rule, seek⟩

end Sys2Proof.Machine
end

section
/-! Takes given up and resumed (O58, O59): the end of a playback, and the update at the arrivals and at the end of a take. -/

namespace Sys2Proof.Machine

/-! ### A judgement with the engine stopped -/

/-- What the notices show that a raise with the engine stopped does not post to. -/
def Notices.OfPlay {α : Type} (view : Notices → α) : Prop :=
  (∀ n x, view { n with stopRaised := x } = view n) ∧ ∀ n x, view { n with recordClosed := x } = view n

section Stopped

variable {s : State} {α : Type} {view : Notices → α} {o st : Station}

theorem postAll_view {f : Notices → Notices} (same : ∀ n, view (f n) = view n) (o : Station) :
    view ((s.postAll f).links.get o).notices = view (s.links.get o).notices := by
  rw [State.postAll]
  dsimp only
  rw [Tab.get_map]
  split
  · exact same _
  · rfl

theorem post_view {f : Notices → Notices} (same : ∀ n, view (f n) = view n) (st o : Station) :
    view ((s.post st f).links.get o).notices = view (s.links.get o).notices := by
  rw [post_link]
  split
  · exact same _
  · rfl

theorem closeTake_view (ofPlay : Notices.OfPlay view) (r : CloseReason) (o : Station) :
    view ((s.closeTake r).links.get o).notices = view (s.links.get o).notices := by
  unfold State.closeTake
  split
  · rfl
  · split
    · split
      · exact post_view (s := { s with takes := _ }) (fun n => ofPlay.2 n _) _ o
      · exact post_view (s := { s with takes := _ }) (fun n => ofPlay.2 n _) _ o
    · rfl

theorem takeRaise_view (ofPlay : Notices.OfPlay view) (c : Cause) (l : Nat) (o : Station) :
    view ((s.takeRaise c l).generatorOnRaise.links.get o).notices = view (s.links.get o).notices := by
  unfold State.generatorOnRaise State.takeRaise
  dsimp only
  split
  · exact postAll_view (s := { s with stop := _ }) (fun n => ofPlay.1 n _) o
  · rfl

theorem raiseOnce_stopped_view (ofPlay : Notices.OfPlay view) (stopped : s.Stopped) (c : Cause) (l : Nat) (o : Station) :
    view ((s.raiseOnce c l).links.get o).notices = view (s.links.get o).notices := by
  have closed := closeTake_view (s := (s.takeRaise c l).generatorOnRaise.engineOnRaise) ofPlay .interrupted o
  have known : (s.takeRaise c l).generatorOnRaise.Stopped := by
    unfold State.Stopped
    rwa [(madeKnown_frame s c l).2.1]
  rw [engineOnRaise_stopped known] at closed
  refine Eq.trans ?_ (closed.trans (takeRaise_view ofPlay c l o))
  simp only [State.raiseOnce, State.portOnRaise, engineOnRaise_stopped known]

/-- With the engine IDLE or PAUSED a judgement leaves modes and engine, the notices of the engine, and below level 3 the
channels. -/
theorem judgeZones_stopped (ofPlay : Notices.OfPlay view) (stopped : s.Stopped) :
    s.judgeZones.auth = s.auth ∧ s.judgeZones.play = s.play ∧
      (s.stop.level ≤ 2 → s.judgeZones.channels = s.channels) ∧
      ∀ o, view (s.judgeZones.links.get o).notices = view (s.links.get o).notices := by
  have kept : s.judgeZones.Stopped ∧ s.judgeZones.auth = s.auth ∧ s.judgeZones.play = s.play ∧
      (s.stop.level ≤ 2 → s.judgeZones.stop.level ≤ 2 ∧ s.judgeZones.channels = s.channels) ∧
      ∀ o, view (s.judgeZones.links.get o).notices = view (s.links.get o).notices := by
    refine State.judgeZones_keeps (P := fun t => t.Stopped ∧ t.auth = s.auth ∧ t.play = s.play ∧
      (s.stop.level ≤ 2 → t.stop.level ≤ 2 ∧ t.channels = s.channels) ∧
      ∀ o, view (t.links.get o).notices = view (s.links.get o).notices) (fun _ h => h) (fun t z b h => ?flag)
      (fun t z h => ?act) ⟨stopped, rfl, rfl, fun low => ⟨low, rfl⟩, fun _ => rfl⟩
    case flag =>
      unfold State.Stopped
      rwa [State.modZone_play, State.modZone_auth, State.modZone_stop, State.modZone_channels, State.modZone_links]
    case act =>
      obtain ⟨stopped, auth, play, channels, notices⟩ := h
      refine ⟨State.raiseOnce_stopped .., (State.raiseOnce_auth stopped _ _).trans auth,
        (raiseOnce_stopped_play stopped _ _).trans play, fun low => ?_,
        fun o => (raiseOnce_stopped_view ofPlay stopped _ _ o).trans (notices o)⟩
      obtain ⟨level, same⟩ := channels low
      exact ⟨by rw [State.raiseOnce_level]; exact max_le level le_rfl,
        (raiseOnce_stopped_channels stopped _ (max_le level le_rfl)).trans same⟩
  exact ⟨kept.2.1, kept.2.2.1, fun low => (kept.2.2.2.1 low).2, kept.2.2.2.2⟩

end Stopped

/-! ### The end of a playback (R182) -/

section EndPlay

variable {s : State} {st : Station} {h : Hold} {why : PlayEnd} {elapsed : Option Nat}

/-- What the end of a playback leaves. -/
structure PlayEnded (s t : State) (h : Hold) (why : PlayEnd) (elapsed : Option Nat) : Prop where
  play : t.play = { s.play with state := .idle }
  auth : ∀ j, t.auth.get j = if (s.takeAxes h.slot).getLsbD j.val then (s.auth.get j).returned (s.ownerUp (s.auth.get j))
    else s.auth.get j
  channels : s.stop.level ≤ 2 → ∀ j, t.channels.get j = if (s.takeAxes h.slot).getLsbD j.val then
    { (s.channels.get j).zeroTarget with trimDemand := 0, trimOffset := 0 } else s.channels.get j
  notice : s.linkState h.station = .up → (t.links.get h.station).notices.playEnded = some (h.slot, why, elapsed)
  replies : ∀ o, (t.links.get o).replies = (s.links.get o).replies
  frame : s.ChangedByAStop t

theorem endPlay_ended (s : State) (h : Hold) (why : PlayEnd) (elapsed : Option Nat) :
    PlayEnded s (s.endPlay h why elapsed) h why elapsed := by
  obtain ⟨u, posted⟩ : ∃ u, ((s.dropTake h).post h.station fun n => { n with playEnded := some (h.slot, why, elapsed) }) = u :=
    ⟨_, rfl⟩
  have play : u.play = { s.play with state := .idle } := by rw [← posted, State.post_play]; rfl
  obtain ⟨auth', play', channels', notices'⟩ := judgeZones_stopped (s := u) (view := fun n => n.playEnded)
    ⟨fun _ _ => rfl, fun _ _ => rfl⟩ (.inl (congrArg Engine.state play))
  have ended : s.endPlay h why elapsed = u.judgeZones := by rw [← posted]; rfl
  rw [ended]
  refine ⟨play'.trans play, fun j => ?_, fun low j => ?_, fun up => ?_, fun o => ?_, judgeZones_changedByAStop ?_⟩
  · rw [auth', ← posted, State.post_auth]
    exact Tab.get_imap ..
  · rw [channels' (by rw [← posted, State.post_stop]; exact low), ← posted, State.post_channels]
    exact Tab.get_imap ..
  · rw [notices', ← posted, post_link, if_pos ⟨rfl, up⟩]
  · rw [judgeZones_replies, ← posted, post_replies]
    rfl
  · rw [← posted, post_eq]
    rfl

theorem returned_up {a : AuthEntry} {o : Station} (owner : a.owner = some o) (up : s.linkState o = .up) :
    a.returned (s.ownerUp a) = ⟨some o, .manual, none, .vel 0, false⟩ := by
  have isUp : s.ownerUp a = true := by
    rw [State.ownerUp, owner]
    exact decide_eq_true up
  rw [isUp, AuthEntry.returned, if_pos rfl, owner]
  rfl

theorem returned_down {a : AuthEntry} (down : ∀ o, a.owner = some o → s.linkState o ≠ .up) :
    a.returned (s.ownerUp a) = ⟨none, .idle, none, .vel 0, false⟩ := by
  have notUp : s.ownerUp a = false := by
    unfold State.ownerUp
    split
    · rename_i o owner; exact decide_eq_false (down o owner)
    · rfl
  rw [notUp, AuthEntry.returned, if_neg Bool.false_ne_true]
  rfl

theorem stopPlay_ends (right : s.holds st .play = true)
    (held : (elapsed = none ∧ ∃ q, q.hold = h ∧ (s.play.state = .seeking q ∨ s.play.state = .ready q)) ∨
      ∃ e, elapsed = some e ∧ (s.play.state = .running h e ∨ s.play.state = .paused h e)) :
    s.stopPlay st = (s.endPlay h .stopped elapsed, ⟨.ok, []⟩) := by
  rw [State.stopPlay, if_neg (by rw [right]; exact nofun)]
  obtain ⟨rfl, q, rfl, state | state⟩ | ⟨e, rfl, state | state⟩ := held <;> rw [state]

theorem abandon_ends {e : Nat} (right : s.holds st .play = true) (paused : s.play.state = .paused h e) :
    s.abandon st = (s.endPlay h .abandoned (some e), ⟨.ok, []⟩) := by
  rw [State.abandon, if_neg (by rw [right]; exact nofun), paused]

theorem withReply_changedByAStop {t : State} {r : Reply} (h : (s.afterFrame st).ChangedByAStop t) :
    { s with stations := (t.withReply st r).stations }.ChangedByAStop (t.withReply st r) := by
  unfold State.ChangedByAStop at h ⊢
  rw [State.withReply, h]
  rfl

/-- STOP_PLAY or ABANDON answered, with the playback ended. -/
theorem ended_and_answered {st : Station} {tag code : Byte} {t : State}
    (ended : PlayEnded (s.afterFrame st) t h why elapsed) :
    let u := t.withReply st ⟨tag, code, .ok, []⟩
    (u.links.get st).replies = (s.links.get st).replies ++ [⟨tag, code, .ok, []⟩] ∧
      u.play = { s.play with state := .idle } ∧
      (∀ j : Axis, (s.takeAxes h.slot).getLsbD j.val = true →
        (∀ o, (s.auth.get j).owner = some o → s.linkState o = .up → u.auth.get j = ⟨some o, .manual, none, .vel 0, false⟩) ∧
        ((∀ o, (s.auth.get j).owner = some o → s.linkState o ≠ .up) → u.auth.get j = ⟨none, .idle, none, .vel 0, false⟩) ∧
        (s.stop.level ≤ 2 → u.channels.get j = { (s.channels.get j).zeroTarget with trimDemand := 0, trimOffset := 0 })) ∧
      (∀ j : Axis, (s.takeAxes h.slot).getLsbD j.val = false → u.auth.get j = s.auth.get j) ∧
      (s.linkState h.station = .up → (u.links.get h.station).notices.playEnded = some (h.slot, why, elapsed)) ∧
      { s with stations := u.stations }.ChangedByAStop u := by
  intro u
  have link (o : Station) : u.links.get o = if o = st then { t.links.get st with
      replies := (t.links.get st).replies ++ [⟨tag, code, .ok, []⟩] } else t.links.get o := Tab.get_modify ..
  have up (o : Station) : (s.afterFrame st).linkState o = s.linkState o := State.afterFrame_linkState ..
  refine ⟨?_, ended.play, fun j held => ⟨fun o owner isUp => ?_, fun down => ?_, fun low => ?_⟩, fun j out => ?_,
    fun isUp => ?_, ?_⟩
  · rw [link, if_pos rfl]
    exact congrArg (· ++ _) ((ended.replies st).trans (by simp [State.afterFrame_links]))
  · exact (ended.auth j).trans ((if_pos held).trans (returned_up (s := s.afterFrame st) owner (by rw [up]; exact isUp)))
  · exact (ended.auth j).trans ((if_pos held).trans (returned_down (s := s.afterFrame st) fun o owner => by
      rw [up]; exact down o owner))
  · exact (ended.channels low j).trans (if_pos held)
  · exact (ended.auth j).trans (if_neg (by
      rw [show (s.afterFrame st).takeAxes h.slot = s.takeAxes h.slot from rfl, out]
      exact Bool.false_ne_true))
  · have notice := ended.notice (by rw [up]; exact isUp)
    rw [link]
    split
    · rename_i same
      rw [same] at notice
      exact notice
    · exact notice
  · exact withReply_changedByAStop ended.frame

end EndPlay

end Sys2Proof.Machine
end

section
/-! The Flash Port (O53, O54, O55): sectors written, the images of takes and settings saved, and the load of a take. -/

namespace Sys2Proof.Machine

/-! ### Sectors written in order -/

section Sectors

variable {flash : List Host.Cell}

/-- One sector of a list of bytes, written. -/
theorem read_writeSector_part (wf : Memory.wf erasedByte flash) (first i : Nat) (bytes : List Byte) (a : Nat) :
    Memory.read erasedByte (writeSector flash (first + i) (sectorPart bytes i)) a =
      if (first + i) * 4096 ≤ a ∧ a < (first + i + 1) * 4096 then bytes.getD (a - first * 4096) erasedByte
      else Memory.read erasedByte flash a := by
  have length : (sectorPart bytes i).length ≤ 4096 := by
    rw [sectorPart, List.length_take]
    exact min_le_left ..
  rw [read_writeSector _ _ _ length wf, sectorAddress]
  have range : ((first + i) * 4096 ≤ a ∧ a < (first + i) * 4096 + 4096) ↔
      ((first + i) * 4096 ≤ a ∧ a < (first + i + 1) * 4096) := by omega
  simp only [range]
  split
  · rename_i inside
    have small : a - (first + i) * 4096 < 4096 := by omega
    have place : i * 4096 + (a - (first + i) * 4096) = a - first * 4096 := by omega
    rw [sectorPart, List.getD_eq_getElem?_getD, List.getElem?_take_of_lt small, List.getElem?_drop, place,
      List.getD_eq_getElem?_getD]
  · rfl

/-- Sectors written in order: the bytes lie in the sectors, and no other byte changes. -/
theorem read_writeSectors (wf : Memory.wf erasedByte flash) (first : Nat) (bytes : List Byte) (n a : Nat) :
    Memory.read erasedByte (writeSectors flash first bytes n) a =
      if first * 4096 ≤ a ∧ a < (first + n) * 4096 then bytes.getD (a - first * 4096) erasedByte
      else Memory.read erasedByte flash a := by
  induction n with
  | zero =>
    rw [writeSectors, if_neg (by omega)]
  | succ n ih =>
    rw [writeSectors, read_writeSector_part (writeSectors_wf first bytes n wf), ih]
    have whole : (first * 4096 ≤ a ∧ a < (first + (n + 1)) * 4096) ↔
        ((first + n) * 4096 ≤ a ∧ a < (first + n + 1) * 4096) ∨ (first * 4096 ≤ a ∧ a < (first + n) * 4096) := by omega
    simp only [whole]
    by_cases last : (first + n) * 4096 ≤ a ∧ a < (first + n + 1) * 4096
    · simp only [last, true_and, true_or, if_true]
    · simp only [last, false_or, if_false]

/-- The bytes of a flash from a place on, where each reads as that of a list. -/
theorem flashBytes_eq_take {a n : Nat} {bytes : List Byte} (enough : n ≤ bytes.length)
    (reads : ∀ i, i < n → Memory.read erasedByte flash (a + i) = bytes.getD i erasedByte) :
    flashBytes flash a n = bytes.take n := by
  refine List.ext_getElem (by simp [flashBytes, Memory.readMany, enough]) fun i inRange _ => ?_
  have small : i < n := by simpa [flashBytes, Memory.readMany] using inRange
  have inBytes : i < bytes.length := by omega
  simp [flashBytes, Memory.readMany, reads i small, List.getElem?_eq_getElem inBytes]

end Sectors

/-! ### Requests of the archive -/

section Requests

variable {s : State} {st : Station} {i : TakeNo} {first last : Nat} {k : Take} {reason : CloseReason}

theorem badRange_false (low : 16 ≤ first) (order : first ≤ last) (high : last ≤ 8191) : badRange first last = false := by
  simp [badRange]
  omega

theorem saveTake_taken (right : s.holds st .take = true) (range : badRange first last = false) (free : s.flashPort = none)
    (closed : s.takes.slots.get i = .closed k reason) : s.saveTake st i.val first last =
      ({ s with flashPort := some ⟨.saveTake, first, last, 0, st, some i, archiveImage s.takes k reason, none⟩ },
        ⟨.ok, []⟩) := by
  rw [State.saveTake, if_neg (by rw [right]; exact nofun), slotOf_val]
  dsimp only
  rw [if_neg (by rw [range]; exact nofun), if_neg (by rw [free]; exact nofun), closed]

/-- The lowest EMPTY slot is the one below which every slot is in use. -/
theorem lowestEmpty_eq (empty : s.takes.slots.get i = .empty)
    (lowest : ∀ k : TakeNo, k.val < i.val → s.takes.slots.get k ≠ .empty) : s.takes.lowestEmpty = some i := by
  have used (k : TakeNo) (below : k < i) : (s.takes.slots.get k).isEmpty = false := by
    have other := lowest k below
    cases slot : s.takes.slots.get k with
    | empty => exact absurd slot other
    | recording t => rfl
    | closed t r => rfl
    | loading q bs => rfl
  rw [TakeStore.lowestEmpty, show allSlots = List.finRange 32 from rfl, List.find?_eq_some_iff_append]
  refine ⟨by rw [empty]; rfl, (List.finRange 32).take i.val, (List.finRange 32).drop (i.val + 1), ?_, fun k mem => ?_⟩
  · have inRange : i.val < (List.finRange 32).length := by rw [List.length_finRange]; exact i.isLt
    have here : (List.finRange 32)[i.val] = i := by simp
    calc List.finRange 32
        = (List.finRange 32).take i.val ++ (List.finRange 32).drop i.val := (List.take_append_drop ..).symm
      _ = _ := by rw [List.drop_eq_getElem_cons inRange, here]
  · obtain ⟨n, small, rfl⟩ := List.mem_take_iff_getElem.mp mem
    rw [used _ (by
      have below : n < i.val := lt_of_lt_of_le small (min_le_left ..)
      simpa [Fin.lt_def] using below)]
    rfl

end Requests

/-! ### The archive image of a take (R160) -/

section Archive

variable {ts : TakeStore} {k : Take} {reason : CloseReason}

/-- The bytes of one sample. -/
def TakeStore.sampleRow (ts : TakeStore) (k : Take) (q : Nat) : List Byte :=
  (axesOf k.axes).flatMap fun j => beInt 5 (ts.sample k q j)

theorem sampleRow_length (ts : TakeStore) (k : Take) (q : Nat) : (ts.sampleRow k q).length = 5 * setSize k.axes :=
  flatMap_length fun j => beInt_length ..

theorem sampleBytes_length (ts : TakeStore) (k : Take) : (sampleBytes ts k).length = 5 * setSize k.axes * k.count :=
  (flatMap_length (sampleRow_length ts k)).trans (by rw [List.length_range])

theorem sampleBytes_slice {q : Nat} (inTake : q < k.count) :
    slice (sampleBytes ts k) (5 * setSize k.axes * q) (5 * setSize k.axes) = ts.sampleRow k q := by
  have row : (List.range k.count)[q]? = some q := by simp [inTake]
  have piece := slice_flatMap (sampleRow_length ts k) row (a := 0) (n := 5 * setSize k.axes) (by omega)
  exact piece.trans (slice_all (sampleRow_length ts k q))

end Archive

/-- The image of a take that fits its fields is read back as the take. -/
theorem archiveImage_readsBack {ts : TakeStore} {k : Take} {reason : CloseReason} {d : TakeData} (fits : k.fits d)
    (values : ∀ q (j : Axis), q < k.count → k.axes.getLsbD j.val = true →
      -549755813888 ≤ ts.sample k q j ∧ ts.sample k q j < 549755813888) :
    ∃ h, headerOf ((archiveImage ts k reason).take 512) = h ∧ headerValid ((archiveImage ts k reason).take 512) = true ∧
      (archiveImage ts k reason).length = 512 + 5 * setSize k.axes * k.count + 8 ∧
      (archiveImage ts k reason).drop (512 + 5 * setSize k.axes * k.count) =
        endRecord ((archiveImage ts k reason).take (512 + 5 * setSize k.axes * k.count)) ∧
      (h.label = k.label ∧ h.axes = k.axes ∧ h.divisor = k.divisor ∧ h.count = k.count ∧ h.isProtected = k.isProtected ∧
        h.origin = k.origin ∧ h.data.recordedAt = d.recordedAt) ∧
      [CloseReason.stopped, .interrupted, .full, .loaded][natAt (archiveImage ts k reason) 20 1]? = some reason ∧
      (∀ l : Lens, k.axes.getLsbD (lensAxis l).val = true → h.data.lens.get l = d.lens.get l) ∧
      ∀ j : Axis, k.axes.getLsbD j.val = true →
        h.data.first.get j = d.first.get j ∧ h.data.envelope.get j = d.envelope.get j ∧
        ∀ q, q < k.count → (sampleOf k.axes (slice (archiveImage ts k reason) (512 + 5 * setSize k.axes * q)
          (5 * setSize k.axes))).get j = ts.sample k q j := by
  obtain ⟨h, header, length, valid, fields, reasonByte, lens, axes⟩ := header_back k d reason fits _ rfl
  have samples := sampleBytes_length ts k
  obtain ⟨body, joined⟩ : ∃ body, headerBytes k reason ++ sampleBytes ts k = body := ⟨_, rfl⟩
  have bodyLength : body.length = 512 + 5 * setSize k.axes * k.count := by
    rw [← joined, List.length_append, length, samples]
  have image : archiveImage ts k reason = body ++ endRecord body := by rw [← joined]; rfl
  have parts : archiveImage ts k reason = headerBytes k reason ++ (sampleBytes ts k ++ endRecord body) := by
    rw [image, ← joined, List.append_assoc]
  have head : (archiveImage ts k reason).take 512 = headerBytes k reason := by
    rw [parts, ← length]
    exact List.take_left ..
  rw [head]
  refine ⟨h, header, valid, ?_, ?_, fields, ?_, lens, fun j held => ⟨(axes j held).1, (axes j held).2, fun q inTake => ?_⟩⟩
  · rw [image, List.length_append, bodyLength, endRecord_length]
  · rw [image, ← bodyLength, List.drop_left, List.take_left]
  · rw [natAt, ← slice_take (k := 512) (by decide), head]
    exact reasonByte
  · have inside : 5 * setSize k.axes * q + 5 * setSize k.axes ≤ (sampleBytes ts k).length := by
      rw [samples, ← Nat.mul_succ]
      exact Nat.mul_le_mul_left _ inTake
    rw [parts, slice_at length inside, sampleBytes_slice inTake]
    exact sample_back k.axes (ts.sample k q) (fun i at_ => values q i inTake at_) j held

/-! ### Saves under way -/

section Saves

variable {s : State} {op : FlashOp}

theorem exec_flashSectorDone (running : s.sysreset = false) (inFlight : s.flashPort = some op) :
    exec .flashSectorDone s = .next (s.sectorDone op) := by
  show execFlashSectorDone s = _
  rw [execFlashSectorDone, awake_next _ running, inFlight]

theorem sectorDone_save (save : op.kind = .saveTake ∨ op.kind = .saveConfig) (due : op.done < op.reached) :
    s.sectorDone op = { s.writeUnderWay op with flashPort := some { op with done := op.done + 1 } } := by
  rw [State.sectorDone]
  obtain save | save := save
  · rw [save]
    exact if_pos due
  · rw [save]
    exact if_pos due

theorem read_writeUnderWay (wf : Memory.wf erasedByte s.flash) (a : Nat) :
    Memory.read erasedByte (s.writeUnderWay op).flash a =
      if (op.first + op.done) * 4096 ≤ a ∧ a < (op.first + op.done + 1) * 4096 then
        op.body.getD (a - op.first * 4096) erasedByte
      else Memory.read erasedByte s.flash a := read_writeSector_part wf ..

theorem exec_saveTakeEnd (running : s.sysreset = false) (inFlight : s.flashPort = some op) (save : op.kind = .saveTake) :
    exec .saveTakeEnd s = .next (s.endSave op) := by
  show execSaveTakeEnd s = _
  rw [execSaveTakeEnd, awake_next _ running, inFlight]
  exact congrArg _ (if_pos save)

theorem endSave_flash (s : State) (op : FlashOp) :
    (s.endSave op).flash = writeSectors s.flash op.first op.image op.reached := by
  rw [State.endSave, State.post_flash]

/-- The whole image lies in the range as far as the range goes. -/
theorem endSave_image (wf : Memory.wf erasedByte s.flash) (order : op.first ≤ op.last) :
    flashBytes (s.endSave op).flash (op.first * 4096) (min op.image.length op.room) = op.image.take op.room := by
  rw [endSave_flash, flashBytes_eq_take (bytes := op.image) (min_le_left ..) fun i inRange => ?_]
  · obtain small | large := le_total op.image.length op.room
    · rw [min_eq_left small, List.take_length, List.take_of_length_le small]
    · rw [min_eq_right large]
  · have inside : op.first * 4096 + i < (op.first + op.reached) * 4096 := by
      unfold FlashOp.reached FlashOp.room FlashOp.sectors sectorsFor at *
      omega
    rw [read_writeSectors wf, if_pos ⟨Nat.le_add_right .., inside⟩, Nat.add_sub_cancel_left]

theorem endSave_elsewhere (wf : Memory.wf erasedByte s.flash) (order : op.first ≤ op.last) {a : Nat}
    (outside : a < op.first * 4096 ∨ (op.last + 1) * 4096 ≤ a) :
    Memory.read erasedByte (s.endSave op).flash a = Memory.read erasedByte s.flash a := by
  rw [endSave_flash, read_writeSectors wf, if_neg ?_]
  unfold FlashOp.reached FlashOp.sectors
  omega

end Saves

/-- Settles O53: the image is the take, the sectors hold it, and the end writes what is left. -/
theorem takesAreSaved : Obligations.TakesAreSaved := by
  refine ⟨fun ts k reason d image size fits values isImage isSize => ?image, fun s =>
    ⟨fun st tag p i first last k reason served right decodes low order high free closed => ?taken,
      fun op running inFlight save order wf => ⟨fun due => ?sector, ?ends⟩⟩⟩
  case image =>
    subst isImage isSize
    exact archiveImage_readsBack fits values
  case taken =>
    exact request_gives served decodes (saveTake_taken (s := s.afterFrame st) (by rwa [State.afterFrame_holds])
      (badRange_false low order high) free closed)
  case sector =>
    rw [exec_flashSectorDone running inFlight, sectorDone_save (.inl save) due]
    exact ⟨_, rfl, rfl, read_writeUnderWay wf, rfl⟩
  case ends =>
    rw [exec_saveTakeEnd running inFlight save]
    refine ⟨_, rfl, State.post_flashPort .., endSave_image wf order, fun a => endSave_elsewhere wf order,
      fun up => ⟨fun fits => ?_, fun cut => ?_⟩, ?_⟩
    · rw [State.endSave, post_link, if_pos ⟨rfl, up⟩]
      dsimp only
      rw [if_pos fits]
      rfl
    · rw [State.endSave, post_link, if_pos ⟨rfl, up⟩]
      dsimp only
      rw [if_neg (not_le.mpr cut)]
    · rw [State.endSave, post_eq]

/-! ### SAVE_CONFIG (R200, R201) -/

section SaveConfig

variable {s : State} {op : FlashOp} {back : List Byte}

theorem exec_saveConfigEnd (running : s.sysreset = false) (inFlight : s.flashPort = some op)
    (save : op.kind = .saveConfig) : exec (.saveConfigEnd back) s = .next (s.endConfig op back) := by
  show execSaveConfigEnd back s = _
  rw [execSaveConfigEnd, awake_next _ running, inFlight]
  exact congrArg _ (if_pos save)

/-- A frame that has come changes no setting. -/
theorem afterFrame_config (s : State) (st : Station) : (s.afterFrame st).config = s.config := by
  have stations : (s.afterFrame st).stations.map (fun r => (r.rank, r.rights)) =
      s.stations.map fun r => (r.rank, r.rights) := Tab.ext_get fun o => by
    simp only [State.afterFrame_stations, Tab.get_map, Tab.get_modify]
    split
    · rename_i same
      rw [same]
    · rfl
  unfold State.config
  rw [stations]
  rfl

/-- Sector 0 written with an image, and no other byte changed. -/
theorem writeSector_zero {flash : List Host.Cell} {bytes : List Byte} (length : bytes.length = 1963)
    (wf : Memory.wf erasedByte flash) : flashBytes (writeSector flash 0 bytes) 0 1963 = bytes ∧
      ∀ a, 4096 ≤ a → Memory.read erasedByte (writeSector flash 0 bytes) a = Memory.read erasedByte flash a := by
  refine ⟨?_, fun a outside => ?_⟩
  · have read := flashBytes_writeSector 0 0 1963 bytes (by omega) (by omega) wf
    rw [List.drop_zero, ← length, List.take_length, length] at read
    exact read
  · rw [read_writeSector _ _ _ (by omega) wf, if_neg]
    rw [sectorAddress]
    omega

end SaveConfig

/-- Settles O55: the image is put in flight, the sector holds it before its end record, and the bytes read back decide. -/
theorem configurationIsSaved : Obligations.ConfigurationIsSaved := by
  intro s
  refine ⟨fun st tag served right free => ?taken, fun op running inFlight save first last done length wf => ?sector,
    fun op back running inFlight save length backLength wf => ?ends⟩
  case taken =>
    have run := request_taken (tag := tag) (code := 41) (detail := []) (decode := noArgs) (a := ())
      (verdict := fun _ t => State.saveConfigVerdict t st) (taken := fun _ t => t.saveConfigTaken st) served rfl (by
        have right' : (s.afterFrame st).holds st .config = true := by rwa [State.afterFrame_holds]
        simp [State.saveConfigVerdict, right', free])
    rw [State.saveConfigTaken, afterFrame_config] at run
    exact run
  case sector =>
    have due : op.done < op.reached := by
      rw [FlashOp.reached, FlashOp.sectors, sectorsFor, length, first, last, done]
      decide
    have body : op.body = op.image.take 1955 := by rw [FlashOp.body, length]
    rw [exec_flashSectorDone running inFlight, sectorDone_save (.inr save) due]
    refine ⟨_, rfl, by rw [done], fun a => ?_, rfl⟩
    have read := read_writeUnderWay (op := op) wf a
    rw [first, done, body] at read
    simpa using read
  case ends =>
    rw [exec_saveConfigEnd running inFlight save]
    cases match_ : endMatches back with
    | true =>
      obtain ⟨image, elsewhere⟩ := writeSector_zero length wf
      have ends : s.endConfig op back = ({ s with
          flash := writeSector s.flash 0 op.image, flashPort := none, configDefaulted := false }).post op.requester
            fun n => { n with flashDone := some (.saveConfig, none, 1) } := if_pos match_
      rw [ends]
      refine ⟨_, rfl, State.post_flashPort .., fun _ => ?_, nofun, fun a outside => ?_, State.post_configDefaulted ..,
        fun up => ⟨fun _ => ?_, nofun⟩, ?_⟩
      · rw [State.post_flash]; exact image
      · rw [State.post_flash]; exact elsewhere a outside
      · rw [post_link, if_pos ⟨rfl, up⟩]
      · rw [post_eq]
    | false =>
      have kept : back.take configLength = back := List.take_of_length_le backLength.le
      obtain ⟨image, elsewhere⟩ := writeSector_zero backLength wf
      have ends : s.endConfig op back = ({ s with flash := writeSector s.flash 0 back, flashPort := none }).post
          op.requester fun n => { n with flashFailed := some (.saveConfig, none, .verify) } := by
        rw [State.endConfig, match_, kept]
        rfl
      rw [ends]
      refine ⟨_, rfl, State.post_flashPort .., nofun, fun _ => ?_, fun a outside => ?_, State.post_configDefaulted ..,
        fun up => ⟨nofun, fun _ => ?_⟩, ?_⟩
      · rw [State.post_flash]; exact image
      · rw [State.post_flash]; exact elsewhere a outside
      · rw [post_link, if_pos ⟨rfl, up⟩]
      · rw [post_eq]

/-! ### The load of a take (R163, R164) -/

section Loads

variable {s : State} {op : FlashOp} {i : TakeNo} {q : Nat} {blocks : List Nat} {why : FlashFail}

theorem loadInFlight_eq (inFlight : s.flashPort = some op) (load : op.kind = .loadTake) (slot : op.slot = some i)
    (loading : s.takes.slots.get i = .loading q blocks) : s.loadInFlight = some (op, i, q, blocks) := by
  rw [State.loadInFlight, inFlight]
  dsimp only
  rw [if_pos load, slot]
  dsimp only
  rw [loading]

/-- What a failed load leaves. -/
theorem failLoad_leaves (s : State) (op : FlashOp) (i : TakeNo) (blocks : List Nat) (why : FlashFail) :
    (s.failLoad op i blocks why).flashPort = none ∧
      (s.failLoad op i blocks why).takes = { s.takes with
        slots := s.takes.slots.set i .empty, freeList := s.takes.freeList ++ blocks } ∧
      (s.linkState op.requester = .up →
        ((s.failLoad op i blocks why).links.get op.requester).notices.flashFailed = some (.loadTake, some i, why)) ∧
      s.failLoad op i blocks why = { s with
        links := (s.failLoad op i blocks why).links, takes := (s.failLoad op i blocks why).takes
        flashPort := (s.failLoad op i blocks why).flashPort } := by
  refine ⟨State.post_flashPort .., post_takes .., fun up => ?_, ?_⟩
  · rw [State.failLoad, post_link, if_pos ⟨rfl, up⟩]
  · rw [State.failLoad, post_eq]

theorem drawBlock_none {k : Nat} {free : List Nat} (full : q % perBlock k = 0) (empty : free = []) :
    drawBlock q k blocks free = none := by
  subst empty
  exact if_pos full

/-- Why the sample of a load cannot be stored. -/
theorem sampleFails_eq {h : TakeHeader}
    (fails : (op.room < 512 + 5 * setSize h.axes * (q + 1) ∧ why = .noEnd) ∨
      (512 + 5 * setSize h.axes * (q + 1) ≤ op.room ∧ q % (1024 / setSize h.axes) = 0 ∧ s.takes.freeList = [] ∧
        why = .full)) : s.sampleFails op h q blocks = some why := by
  obtain ⟨short, rfl⟩ | ⟨room, first, empty, rfl⟩ := fails
  · exact if_pos short
  · exact (if_neg (not_lt.mpr room)).trans (if_pos (drawBlock_none first empty))

theorem rangeBytesAt_eq (s : State) (op : FlashOp) (place n : Nat) :
    s.rangeBytesAt op place n = flashBytes s.flash (op.first * 4096 + place) n := by
  rw [State.rangeBytesAt, sectorAddress]

theorem rangeBytesAt_zero (s : State) (op : FlashOp) (n : Nat) :
    s.rangeBytesAt op 0 n = flashBytes s.flash (op.first * 4096) n := by
  rw [rangeBytesAt_eq, Nat.add_zero]

/-- Why the end record of a load does not complete it. -/
theorem endRecordFails_eq {h : TakeHeader} {n : Nat} (length : n = 512 + 5 * setSize h.axes * h.count)
    (fails : (op.room < n + 8 ∧ why = .noEnd) ∨
      (n + 8 ≤ op.room ∧ flashBytes s.flash (op.first * 4096 + n) 4 ≠ [0x5A, 0xE0, 0x0D, 0x01] ∧ why = .noEnd) ∨
      (n + 8 ≤ op.room ∧ flashBytes s.flash (op.first * 4096 + n) 4 = [0x5A, 0xE0, 0x0D, 0x01] ∧
        flashBytes s.flash (op.first * 4096 + n) 8 ≠ endRecord (flashBytes s.flash (op.first * 4096) n) ∧
        why = .checksum)) : s.endRecordFails op h = some why := by
  have body : h.bodyLength = n := length.symm
  rw [State.endRecordFails, body, rangeBytesAt_eq, rangeBytesAt_eq, rangeBytesAt_zero]
  obtain ⟨short, rfl⟩ | ⟨room, marker, rfl⟩ | ⟨room, marker, differs, rfl⟩ := fails
  · rw [if_pos short]
  · rw [if_neg (not_lt.mpr room), if_pos marker]
  · rw [if_neg (not_lt.mpr room), if_neg (not_not_intro marker), if_pos differs]

end Loads

/-- Settles O54: each part of a load is judged as it is read, and stores, completes or fails. -/
theorem takesAreLoaded : Obligations.TakesAreLoaded := by
  intro s
  refine ⟨fun st tag p i first last served right decodes low order high free empty lowest => ?taken,
    fun op i q blocks running inFlight load slot loading => ?_⟩
  case taken =>
    have found : (s.afterFrame st).takes.lowestEmpty = some i := lowestEmpty_eq empty lowest
    have right' : (s.afterFrame st).holds st .take = true := by rwa [State.afterFrame_holds]
    have run := request_taken (tag := tag) (code := 33) (detail := []) (a := (first, last))
      (verdict := fun a t => State.loadTakeVerdict t st a.1 a.2) (taken := fun a t => t.loadTakeTaken st a.1 a.2)
      served decodes (by
        simp only [State.loadTakeVerdict, right', badRange_false low order high, found,
          show (s.afterFrame st).flashPort = none from free]
        rfl)
    rw [State.loadTakeTaken, found] at run
    exact run
  have inLoad := loadInFlight_eq inFlight load slot loading
  have failed (why : FlashFail) := failLoad_leaves s op i blocks why
  have headerRead : s.headerRead op = flashBytes s.flash (op.first * 4096) 512 := rangeBytesAt_zero ..
  refine ⟨fun unread valid => ?header, fun unread invalid => ?badHeader, fun h read more good => ?sample,
    fun h read all good => ?completes, fun h c why read which => ?fails, fun more => ?sector⟩
  case header =>
    show execLoadTakeHeader s = _
    have good : s.loadFails op q blocks = none := by
      rw [State.loadFails, unread, headerRead]
      exact if_pos valid
    rw [execLoadTakeHeader, awake_next _ running, inLoad]
    dsimp only
    rw [if_pos unread, good, headerRead]
  case badHeader =>
    have bad : s.loadFails op q blocks = some .noEnd := by
      rw [State.loadFails, unread, headerRead]
      exact if_neg (fun valid => Bool.false_ne_true (invalid.symm.trans valid))
    show ∃ t, execLoadTakeHeader s = .next t ∧ _
    rw [execLoadTakeHeader, awake_next _ running, inLoad]
    dsimp only
    rw [if_pos unread, bad]
    exact ⟨_, rfl, failed .noEnd⟩
  case sample =>
    obtain ⟨drawn, draws⟩ : ∃ drawn, drawBlock q (setSize h.axes) blocks s.takes.freeList = some drawn := by
      cases draw : drawBlock q (setSize h.axes) blocks s.takes.freeList with
      | some drawn => exact ⟨drawn, rfl⟩
      | none =>
        rw [State.sampleFails, draw] at good
        split at good
        · cases good
        · rw [if_pos rfl] at good; cases good
    have good' : s.loadFails op q blocks = none := by
      rw [State.loadFails, read]
      exact (if_pos more).trans good
    refine ⟨drawn.1, drawn.2, draws, ?_⟩
    show execLoadTakeSample s = _
    rw [execLoadTakeSample, awake_next _ running, inLoad]
    dsimp only
    rw [read]
    dsimp only
    rw [if_pos more, good']
    dsimp only
    rw [State.storeLoaded, draws, rangeBytesAt_eq]
    rfl
  case completes =>
    have good' : s.loadFails op q blocks = none := by
      rw [State.loadFails, read]
      exact (if_neg (by omega)).trans good
    show ∃ t, execLoadTakeEnd s = .next t ∧ _
    rw [execLoadTakeEnd, awake_next _ running, inLoad]
    dsimp only
    rw [good', read]
    dsimp only
    rw [if_neg (by omega)]
    refine ⟨_, rfl, State.post_flashPort .., post_takes .., fun up => ?_, ?_⟩
    · rw [State.completeLoad, post_link, if_pos ⟨rfl, up⟩]
    · rw [State.completeLoad, post_eq]
      rfl
  case fails =>
    refine ⟨_, ?_, failed why⟩
    obtain ⟨more, which, cause⟩ | ⟨all, rfl, n, length, cause⟩ := which
    · have bad : s.loadFails op q blocks = some why := by
        rw [State.loadFails, read]
        exact (if_pos more).trans (sampleFails_eq cause)
      obtain rfl | rfl := which
      · show execLoadTakeSample s = _
        rw [execLoadTakeSample, awake_next _ running, inLoad]
        dsimp only
        rw [read]
        dsimp only
        rw [if_pos more, bad]
      · show execLoadTakeEnd s = _
        rw [execLoadTakeEnd, awake_next _ running, inLoad]
        dsimp only
        rw [bad]
    · have bad : s.loadFails op q blocks = some why := by
        rw [State.loadFails, read]
        exact (if_neg (by omega)).trans (endRecordFails_eq length cause)
      show execLoadTakeEnd s = _
      rw [execLoadTakeEnd, awake_next _ running, inLoad]
      dsimp only
      rw [bad]
  case sector =>
    rw [exec_flashSectorDone running inFlight, State.sectorDone, load]
    exact congrArg _ (if_pos more)

end Sys2Proof.Machine
end

section
/-! The start after power-on and system reset (O60): the flash and the Take Store it finds, and the settings restored. -/

namespace Sys2Proof.Machine

/-! ### A part at rest through a judgement -/

/-- A state with every drive OFF, every link DOWN, the engine and the recorder IDLE, at level 3 after START, that keeps what
another holds. -/
structure Dormant (s t : State) : Prop where
  level : t.stop.level = 3
  cut : t.stop.cut = true
  cause : t.stop.primaryCause = some .start
  play : t.play = s.play
  idle : t.play.state = .idle
  takes : t.takes = s.takes
  recorder : t.takes.recorder = none
  drives : ∀ j, t.port.drives.get j = s.port.drives.get j
  off : ∀ j, t.driveState j = .off
  channels : t.channels = s.channels
  down : ∀ o, t.linkState o = .down
  debounce : t.zones.debounce = s.zones.debounce

section Dormancy

variable {s t : State}

theorem closeTake_idle {r : CloseReason} (idle : s.takes.recorder = none) : s.closeTake r = s := by
  rw [State.closeTake, idle]

/-- With every drive OFF and the recorder and the engine IDLE a raise at level 2 changes the Stop Controller and notices. -/
theorem raiseOnce_dormant (z : ZoneId) (h : Dormant s t) : Dormant s (t.raiseOnce (.zoneOccupied z) 2) := by
  obtain ⟨-, play', takes', channels', port'⟩ := madeKnown_frame t (.zoneOccupied z) 2
  have stopped : (t.takeRaise (.zoneOccupied z) 2).generatorOnRaise.Stopped := .inl (by rw [play']; exact h.idle)
  have quiet : (((t.takeRaise (.zoneOccupied z) 2).generatorOnRaise.engineOnRaise).closeTake .interrupted) =
      (t.takeRaise (.zoneOccupied z) 2).generatorOnRaise := by
    rw [engineOnRaise_stopped stopped, closeTake_idle (by rw [takes']; exact h.recorder)]
  have takes : (t.raiseOnce (.zoneOccupied z) 2).takes = t.takes := by
    show (((t.takeRaise (.zoneOccupied z) 2).generatorOnRaise.engineOnRaise).closeTake .interrupted).takes = _
    rw [quiet, takes']
  have play : (t.raiseOnce (.zoneOccupied z) 2).play = t.play := raiseOnce_stopped_play (.inl h.idle) _ _
  have drive (j : Axis) : (t.raiseOnce (.zoneOccupied z) 2).port.drives.get j = t.port.drives.get j := by
    rw [raiseOnce_drive]
    exact onRaise_unpowered _ (by rw [show (t.port.drives.get j).state = .off from h.off j]; rfl)
  have above : ¬ t.stop.level < 2 := by rw [h.level]; decide
  refine ⟨?_, ?_, ?_, play.trans h.play, by rw [play]; exact h.idle, takes.trans h.takes, by rw [takes]; exact h.recorder,
    fun j => (drive j).trans (h.drives j), fun j => by rw [State.driveState, drive]; exact h.off j, ?_, fun o => ?_, ?_⟩
  · rw [State.raiseOnce_level, h.level]; rfl
  · rw [State.raiseOnce_stop, StopController.raised]; simp [above, h.cut]
  · rw [State.raiseOnce_stop, StopController.raised]; simp [above, h.cause]
  · rw [← h.channels]
    refine Tab.ext_get fun j => ?_
    have off : ((t.takeRaise (.zoneOccupied z) 2).generatorOnRaise).driveState j ≠ .active := by
      rw [State.driveState, port']
      exact fun active => by rw [show (t.port.drives.get j).state = .off from h.off j] at active; cases active
    simp only [State.raiseOnce, State.portOnRaise, quiet, Tab.get_imap]
    rw [if_neg fun ⟨_, active⟩ => off active, channels']
  · rw [State.linkState, raiseOnce_link_down _ _ (by rw [h.down o]; exact LinkState.noConfusion)]
    exact h.down o
  · rw [raiseOnce_zones]; exact h.debounce

theorem modZone_debounce (s : State) (z : ZoneId) (f : Zone → Zone) : (s.modZone z f).zones.debounce = s.zones.debounce := by
  unfold State.modZone
  split <;> rfl

theorem modZone_dormant (z : ZoneId) (f : Zone → Zone) (h : Dormant s t) : Dormant s (t.modZone z f) where
  level := by rw [State.modZone_stop]; exact h.level
  cut := by rw [State.modZone_stop]; exact h.cut
  cause := by rw [State.modZone_stop]; exact h.cause
  play := by rw [State.modZone_play]; exact h.play
  idle := by rw [State.modZone_play]; exact h.idle
  takes := by rw [State.modZone_takes]; exact h.takes
  recorder := by rw [State.modZone_takes]; exact h.recorder
  drives := by rw [State.modZone_port]; exact h.drives
  off := by unfold State.driveState; rw [State.modZone_port]; exact h.off
  channels := by rw [State.modZone_channels]; exact h.channels
  down := by unfold State.linkState; rw [State.modZone_links]; exact h.down
  debounce := by rw [modZone_debounce]; exact h.debounce

theorem rejudgeAll_dormant (h : Dormant s t) : Dormant s t.rejudgeAll :=
  ⟨h.level, h.cut, h.cause, h.play, h.idle, h.takes, h.recorder, h.drives, h.off, h.channels, h.down, h.debounce⟩

theorem judgeZones_dormant (h : Dormant s t) : Dormant s t.judgeZones :=
  State.judgeZones_keeps (P := fun u => Dormant s u) (fun _ h => rejudgeAll_dormant h) (fun _ _ _ h => modZone_dormant _ _ h)
    (fun _ z h => raiseOnce_dormant z h) h

end Dormancy

/-! ### The configuration restored -/

section Restored

variable {s : State} {ts : TakeStore} {g : ConfigImage}

/-- The reset state with the flash and the Take Store that a start finds. -/
def State.startBase (s : State) (ts : TakeStore) : State :=
  { State.reset with flash := s.flashAtStart, takes := ts, freeCount := s.freeNext, pending := s.pending }

theorem start_eq (s : State) (ts : TakeStore) : s.start ts = (readConfig s.flashAtStart).elim (s.startBase ts)
    fun g => ((s.startBase ts).restored g).judgeZones := by
  unfold State.start
  dsimp only
  split
  · rename_i unset
    rw [unset, Option.elim_none, State.startBase]
  · rename_i g found
    rw [found, Option.elim_some, State.startBase]

theorem start_unset (none : readConfig s.flashAtStart = none) : s.start ts = s.startBase ts := by
  rw [start_eq, none, Option.elim_none]

theorem start_restored (found : readConfig s.flashAtStart = some g) :
    s.start ts = ((s.startBase ts).restored g).judgeZones := by
  rw [start_eq, found, Option.elim_some]

theorem restored_dormant (idle : ts.recorder = none) :
    Dormant ((s.startBase ts).restored g) ((s.startBase ts).restored g) where
  level := rfl
  cut := rfl
  cause := rfl
  play := rfl
  idle := rfl
  takes := rfl
  recorder := idle
  drives _ := rfl
  off j := congrArg Drive.state (Tab.get_const (n := 10) Drive.off j)
  channels := rfl
  down o := congrArg Link.state (Tab.get_const (n := 4) Link.atReset o)
  debounce := rfl

/-- The settings of a state restored and judged are those of the image. -/
theorem restored_config (idle : ts.recorder = none) : (((s.startBase ts).restored g).judgeZones).config = g := by
  have dormant := judgeZones_dormant (restored_dormant (s := s) (g := g) idle)
  have entries := (judgeZones_holds ((s.startBase ts).restored g)).1
  obtain ⟨u, judged⟩ : ∃ u, ((s.startBase ts).restored g).judgeZones = u := ⟨_, rfl⟩
  have stations : u.stations = g.stations.map fun x => ⟨x.1, x.2, 0, 0⟩ := by
    rw [← judged, State.judgeZones_stations]; rfl
  have maps : u.maps = g.maps := by rw [← judged, State.judgeZones_maps]; rfl
  have time : u.time.settings = g.sync := by rw [← judged, State.judgeZones_time]; rfl
  rw [judged] at dormant entries ⊢
  have setTable : u.zones.setTable.map (fun z => z.entry) = g.setTable := Tab.ext_get fun i =>
    (Tab.get_map ..).trans ((entries ⟨.set, i⟩).trans (congrArg Zone.entry (Tab.get_map ..)))
  have crewTable : u.zones.crewTable.map (fun z => z.entry) = g.crewTable := Tab.ext_get fun i =>
    (Tab.get_map ..).trans ((entries ⟨.crew, i⟩).trans (congrArg Zone.entry (Tab.get_map ..)))
  have ranks : u.stations.map (fun r => (r.rank, r.rights)) = g.stations := Tab.ext_get fun o => by
    rw [stations, Tab.get_map, Tab.get_map]
  have limits : u.channels.map (fun c => c.limits) = g.limits := Tab.ext_get fun j => by
    rw [dormant.channels, Tab.get_map]
    exact congrArg AxisChannel.limits (Tab.get_ofFn ..)
  unfold State.config
  rw [ranks, limits, maps, setTable, crewTable, dormant.debounce, time, dormant.play]
  rfl

theorem commissioning_eq (g : ConfigImage) (j : Axis) : g.commissioning j =
    if (g.limits.get j).isNone then .unset
    else if ∃ l, lensAxis l = j ∧ (g.maps.get l).map = none then .limited else .ready := by
  unfold ConfigImage.commissioning
  cases limits : g.limits.get j with
  | none => rfl
  | some r =>
    cases lens : lensOf j with
    | none =>
      have noLens : ¬ ∃ l, lensAxis l = j ∧ (g.maps.get l).map = none := by
        rintro ⟨l, rfl, -⟩
        rw [lensOf_lensAxis] at lens
        cases lens
      simp [noLens]
    | some l =>
      have axis : lensAxis l = j := (lensOf_eq_some.mp lens).symm
      subst axis
      have only : (∃ l', lensAxis l' = lensAxis l ∧ (g.maps.get l').map = none) ↔ (g.maps.get l).map = none := by
        refine ⟨fun ⟨l', same, unmapped⟩ => ?_, fun unmapped => ⟨l, rfl, unmapped⟩⟩
        have same' : l' = l := by
          have := congrArg lensOf same
          rw [lensOf_lensAxis, lensOf_lensAxis] at this
          exact Option.some.inj this
        rwa [← same']
      simp only [only]
      cases map : (g.maps.get l).map <;> simp

end Restored

/-! ### The Take Store at system reset (R146) -/

section Takes

variable {s : State} {ts : TakeStore} {i : TakeNo}

/-- A slot with a load given up. -/
def TakeSlot.ended (k : TakeSlot) : TakeSlot :=
  match k with
  | .loading _ _ => .empty
  | k => k

theorem ended_ended (k : TakeSlot) : k.ended.ended = k.ended := by cases k <;> rfl

theorem endLoading_slot (ts : TakeStore) (i k : TakeNo) :
    (ts.endLoading i).slots.get k = if k = i then (ts.slots.get k).ended else ts.slots.get k := by
  unfold TakeStore.endLoading
  split
  · rename_i q blocks loading
    rw [Tab.get_set]
    split
    · rename_i same
      rw [same, loading]
      rfl
    · rfl
  · rename_i other
    split
    · rename_i same
      subst same
      cases slot : ts.slots.get k with
      | loading q blocks => exact absurd slot (other q blocks)
      | empty => rfl
      | recording t => rfl
      | closed t r => rfl
    · rfl

theorem endLoading_recorder (ts : TakeStore) (i : TakeNo) : (ts.endLoading i).recorder = ts.recorder := by
  unfold TakeStore.endLoading
  split <;> rfl

theorem endLoadings_leave (l : List TakeNo) (ts : TakeStore) :
    (l.foldl TakeStore.endLoading ts).recorder = ts.recorder ∧
      ∀ k, (l.foldl TakeStore.endLoading ts).slots.get k = if k ∈ l then (ts.slots.get k).ended else ts.slots.get k := by
  induction l generalizing ts with
  | nil => exact ⟨rfl, fun k => rfl⟩
  | cons i l ih =>
    obtain ⟨recorder, slots⟩ := ih (ts.endLoading i)
    refine ⟨recorder.trans (endLoading_recorder ts i), fun k => (slots k).trans ?_⟩
    rw [endLoading_slot]
    by_cases same : k = i <;> by_cases later : k ∈ l <;> simp [same, later, ended_ended]

theorem takesAtReset_slot (s : State) (i : TakeNo) :
    s.takesAtReset.slots.get i = ((s.closeTake .interrupted).takes.slots.get i).ended :=
  ((endLoadings_leave allSlots _).2 i).trans (if_pos (List.mem_finRange i))

theorem takesAtReset_recorder (s : State) : s.takesAtReset.recorder = none :=
  (endLoadings_leave allSlots _).1.trans (closeTake_recorder s .interrupted)

/-- A slot that is not RECORDING is as before once the take recorded has closed. -/
theorem closeTake_slot_other (r : CloseReason) (other : (s.takes.slots.get i).isRecording = false) :
    (s.closeTake r).takes.slots.get i = s.takes.slots.get i := by
  unfold State.closeTake
  split
  · rfl
  · rename_i rec _
    split
    · rename_i t recording
      have apart : i ≠ rec.slot := fun same => by
        rw [same, recording] at other
        cases other
      split
      · rw [post_takes]; exact Tab.get_set_other _ _ apart
      · rw [post_takes]; exact Tab.get_set_other _ _ apart
    · rfl

theorem closeTake_slot_same {rec : Recorder} {k : Take} (r : CloseReason) (records : s.takes.recorder = some rec)
    (recording : s.takes.slots.get rec.slot = .recording k) :
    (s.closeTake r).takes.slots.get rec.slot = if 2 ≤ k.count then .closed k r else .empty := by
  rw [State.closeTake, records]
  dsimp only
  rw [recording]
  dsimp only
  split
  · rw [post_takes]; exact Tab.get_set_same ..
  · rw [post_takes]; exact Tab.get_set_same ..

end Takes

/-! ### A write abandoned (R146, R201) -/

section Abandoned

variable {flash : List Host.Cell} {op : FlashOp} {n : Nat}

theorem abandoned_kept (done : op.kind = .loadTake ∨ op.reached ≤ op.done) : abandoned flash op n = flash := by
  refine if_neg ?_
  rintro ⟨writes, under⟩
  obtain load | all := done
  · rw [load] at writes; cases writes
  · omega

theorem writes_of_ne {k : FlashKind} (other : k ≠ .loadTake) : k.writes = true := by
  cases k with
  | saveTake => rfl
  | saveConfig => rfl
  | loadTake => exact absurd rfl other

/-- A write under way leaves some of its sector's part, or, of a take, the sector as it was. -/
theorem abandoned_part (write : op.kind ≠ .loadTake) (under : op.done < op.reached) :
    (op.kind = .saveTake ∧ abandoned flash op n = flash) ∨ ∃ m, m ≤ (sectorPart op.body op.done).length ∧
      abandoned flash op n = writeSector flash (op.first + op.done) ((sectorPart op.body op.done).take m) := by
  unfold abandoned
  dsimp only
  rw [if_pos ⟨writes_of_ne write, under⟩]
  split
  · rename_i unreached
    exact .inl ⟨unreached.1, rfl⟩
  · refine .inr ⟨min (n % ((sectorPart op.body op.done).length + 2)) (sectorPart op.body op.done).length,
      min_le_right .., ?_⟩
    rw [← List.take_take, List.take_length]

/-- What the sector of an abandoned write reads as. -/
theorem abandoned_reads (wf : Memory.wf erasedByte flash) (write : op.kind ≠ .loadTake) (under : op.done < op.reached)
    {base : Nat} (isBase : base = (op.first + op.done) * 4096) {part : List Byte} (isPart : part = sectorPart op.body op.done) :
    (op.kind = .saveTake ∧ abandoned flash op n = flash) ∨ ∃ m, m ≤ part.length ∧ ∀ a,
      Memory.read erasedByte (abandoned flash op n) a = if base ≤ a ∧ a < base + 4096 then
        (part.take m).getD (a - base) erasedByte else Memory.read erasedByte flash a := by
  subst isBase isPart
  obtain kept | ⟨m, inPart, written⟩ := abandoned_part (flash := flash) (n := n) write under
  · exact .inl kept
  · have length : ((sectorPart op.body op.done).take m).length ≤ 4096 := by
      rw [sectorPart, List.length_take, List.length_take]
      omega
    refine .inr ⟨m, inPart, fun a => ?_⟩
    rw [written, read_writeSector _ _ _ length wf, sectorAddress]

/-- A flash whose byte 1955 is erased has no valid image: the end marker is not in its place. -/
theorem readConfig_unmarked (erased : Memory.read erasedByte flash 1955 = erasedByte) : readConfig flash = none := by
  have byte : (flashBytes flash 0 configLength)[1955]? = some erasedByte := by
    simp [flashBytes, Memory.readMany, configLength, erased]
  have unmatched : endMatches (flashBytes flash 0 configLength) = false := by
    rw [endMatches, Bool.and_eq_false_iff]
    right
    refine decide_eq_false fun same => ?_
    have head := congrArg List.head? same
    rw [slice, List.head?_take, if_neg (by decide), List.head?_drop, byte] at head
    have marker : (endRecord (slice (flashBytes flash 0 configLength) 0 1955)).head? = some 0x5A := rfl
    rw [marker] at head
    exact absurd head (by decide)
  rw [readConfig, unmatched]
  split <;> rfl

/-- A SAVE_CONFIG cut short leaves no valid image. -/
theorem abandoned_config (wf : Memory.wf erasedByte flash) (save : op.kind = .saveConfig) (first : op.first = 0)
    (last : op.last = 0) (done : op.done = 0) (length : op.image.length = 1963) :
    readConfig (abandoned flash op n) = none := by
  have under : op.done < op.reached := by
    rw [FlashOp.reached, FlashOp.sectors, sectorsFor, length, first, last, done]
    decide
  have body : (sectorPart op.body op.done).length = 1955 := by
    rw [sectorPart, FlashOp.body, done, length, List.length_take, List.length_drop, List.length_take, length]
    decide
  have base : 0 = (op.first + op.done) * 4096 := by rw [first, done]
  obtain ⟨take, -⟩ | ⟨m, inPart, reads⟩ := abandoned_reads (n := n) wf (by rw [save]; exact FlashKind.noConfusion) under base rfl
  · rw [save] at take; cases take
  · refine readConfig_unmarked ?_
    rw [reads, if_pos (by decide), List.getD_eq_default]
    rw [List.length_take]
    omega

end Abandoned

/-! ### The start -/

section Start

variable {s : State} {ts : TakeStore} {op : FlashOp}

/-- A start leaves the flash as it finds it and the Take Store that it is given. -/
theorem start_stores (s : State) (idle : ts.recorder = none) :
    (s.start ts).flash = s.flashAtStart ∧ (s.start ts).freeCount = s.freeNext ∧ (s.start ts).takes = ts := by
  cases found : readConfig s.flashAtStart with
  | none =>
    rw [start_unset found]
    exact ⟨rfl, rfl, rfl⟩
  | some g =>
    rw [start_restored found]
    exact ⟨(State.judgeZones_flash ..).trans rfl, (State.judgeZones_freeCount ..).trans rfl,
      (judgeZones_dormant (restored_dormant idle)).takes⟩

theorem flashAtStart_free (free : s.flashPort = none) : s.flashAtStart = s.flash ∧ s.freeNext = s.freeCount := by
  rw [State.flashAtStart, State.freeNext, free]
  exact ⟨rfl, rfl⟩

theorem flashAtStart_busy (inFlight : s.flashPort = some op) :
    s.flashAtStart = abandoned s.flash op (Config.flashProgress s.freeCount) := by
  rw [State.flashAtStart, inFlight]

end Start

/-- Settles O60: a start is the reset state over the stores it finds, with the settings of a valid image restored. -/
theorem startsComeUpAtReset : Obligations.StartsComeUpAtReset := by
  intro s
  refine ⟨rfl, fun free => ?released, fun held => ?heldOff, fun c which => ?starts⟩
  case released =>
    show execSysreset false s = _
    rw [execSysreset, if_neg Bool.false_ne_true, if_neg (by rw [free]; exact Bool.false_ne_true)]
  case heldOff =>
    refine ⟨s.heldAtPowerOn, ?_, rfl, rfl, fun free => flashAtStart_free free⟩
    show execPowerOn s = _
    rw [execPowerOn, if_pos held]
  case starts =>
    obtain ⟨ts, run, idle, powerOn, release⟩ : ∃ ts, exec c s = .next (s.start ts) ∧ ts.recorder = none ∧
        (c = .powerOn → ts = TakeStore.atPowerOn) ∧ (c = .sysreset false → ts = s.takesAtReset) := by
      obtain ⟨rfl, free⟩ | ⟨rfl, held⟩ := which
      · refine ⟨TakeStore.atPowerOn, ?_, rfl, fun _ => rfl, nofun⟩
        show execPowerOn s = _
        rw [execPowerOn, if_neg (by rw [free]; exact Bool.false_ne_true)]
      · refine ⟨s.takesAtReset, ?_, takesAtReset_recorder s, nofun, fun _ => rfl⟩
        show execSysreset false s = _
        rw [execSysreset, if_neg Bool.false_ne_true, if_pos held]
    obtain ⟨flash, freeCount, takes⟩ := start_stores s idle
    refine ⟨_, run, fun on => takes.trans (powerOn on), fun released => ?store, fun free => ?noWrite,
      fun op inFlight ended => ?endedWrite, fun op base part inFlight write under wf isBase isPart => ?cutWrite,
      fun op inFlight save first last done length wf => ?cutConfig, fun none => ?defaults, fun g found => ?restores⟩
    case store =>
      rw [takes, release released]
      refine ⟨takesAtReset_recorder s, fun i k r closed => ?_, fun i q blocks loading => ?_,
        fun r k records recording => ?_⟩
      · rw [takesAtReset_slot, closeTake_slot_other _ (by rw [closed]; rfl), closed]
        rfl
      · rw [takesAtReset_slot, closeTake_slot_other _ (by rw [loading]; rfl), loading]
        rfl
      · rw [takesAtReset_slot, closeTake_slot_same _ records recording]
        split <;> rfl
    case noWrite =>
      rw [flash, freeCount]
      exact flashAtStart_free free
    case endedWrite => rw [flash, flashAtStart_busy inFlight, abandoned_kept ended]
    case cutWrite =>
      rw [flash, flashAtStart_busy inFlight]
      exact abandoned_reads wf write under isBase isPart
    case cutConfig =>
      have none : readConfig s.flashAtStart = none := by
        rw [flashAtStart_busy inFlight]
        exact abandoned_config wf save first last done length
      rw [start_unset none]
      rfl
    case defaults =>
      rw [flash] at none
      rw [start_unset none]
      rfl
    case restores =>
      rw [flash] at found
      have dormant := judgeZones_dormant (restored_dormant (s := s) (g := g) idle)
      rw [start_restored found]
      refine ⟨restored_config idle, State.judgeZones_configDefaulted .., dormant.level, dormant.cut, dormant.cause,
        State.judgeZones_flashPort .., State.judgeZones_pending .., State.judgeZones_sysreset .., ?_, dormant.idle,
        dormant.off, dormant.down, fun j => ?_⟩
      · rw [State.judgeZones_time]
        rfl
      · rw [dormant.channels, ← commissioning_eq]
        exact congrArg AxisChannel.commissioning (Tab.get_ofFn ..)

end Sys2Proof.Machine
end

section
/-! Lens maps (O14): the conversions meet the points of a valid map and stay between its counts. -/

namespace Sys2Proof.Machine

/-! ### Quotients rounded -/

/-- A multiple of the divisor is divided exactly. -/
theorem roundDiv_mul (e : Int) {d : Nat} (pos : 0 < d) : roundDiv (e * d) d = e := by
  have quotient : (2 * (e * d).natAbs + d) / (2 * d) = e.natAbs := by
    rw [Int.natAbs_mul, Int.natAbs_natCast, show 2 * (e.natAbs * d) + d = d + 2 * d * e.natAbs by ring,
      Nat.add_mul_div_left _ _ (by omega), Nat.div_eq_of_lt (by omega), Nat.zero_add]
  have sign : (e * d).sign = e.sign := by
    rw [Int.sign_mul, Int.sign_eq_one_of_pos (by omega : (0 : Int) < d), Int.mul_one]
  rw [roundDiv, quotient, sign]
  exact Int.sign_mul_natAbs e

theorem roundDiv_zero (d : Nat) : roundDiv 0 d = 0 := by
  rw [roundDiv, Int.sign_zero, Int.zero_mul]

/-- A part of a multiple of the divisor lies between 0 and the multiple. -/
theorem roundDiv_between (e : Int) {d t : Nat} (pos : 0 < d) (part : t ≤ d) :
    (0 ≤ e → 0 ≤ roundDiv (e * t) d ∧ roundDiv (e * t) d ≤ e) ∧ (e ≤ 0 → e ≤ roundDiv (e * t) d ∧ roundDiv (e * t) d ≤ 0) := by
  have quotient : (2 * (e * t).natAbs + d) / (2 * d) ≤ e.natAbs := by
    rw [Int.natAbs_mul, Int.natAbs_natCast, ← Nat.lt_succ_iff, Nat.div_lt_iff_lt_mul (by omega)]
    have share : e.natAbs * t ≤ e.natAbs * d := Nat.mul_le_mul_left _ part
    calc 2 * (e.natAbs * t) + d ≤ 2 * (e.natAbs * d) + d := by omega
      _ < e.natAbs.succ * (2 * d) := by rw [Nat.succ_mul]; nlinarith
  unfold roundDiv
  generalize (2 * (e * t).natAbs + d) / (2 * d) = q at quotient
  have tSign : (t : Int).sign = 0 ∨ (t : Int).sign = 1 := by
    obtain zero | positive := Nat.eq_zero_or_pos t
    · left; rw [zero]; rfl
    · right; exact Int.sign_eq_one_of_pos (by omega)
  rw [Int.sign_mul]
  obtain zero | one := tSign
  · rw [zero]
    simp
  · rw [one, Int.mul_one]
    refine ⟨fun up => ?_, fun down => ?_⟩
    · obtain rfl | positive := up.eq_or_lt
      · simp
      · rw [Int.sign_eq_one_of_pos positive]
        omega
    · obtain rfl | negative := down.eq_or_lt
      · simp
      · rw [Int.sign_eq_neg_one_of_neg negative]
        omega

/-! ### Points that rise -/

/-- One count after another in the direction of a map. -/
def beyond (rising : Bool) (c0 c1 : Int) : Prop := if rising then c0 < c1 else c1 < c0

theorem beyond_trans {rising : Bool} {a b c : Int} (h : beyond rising a b) (k : beyond rising b c) :
    beyond rising a c := by
  cases rising with
  | true => exact lt_trans (α := Int) h k
  | false => exact lt_trans (α := Int) k h

section Points

variable {rising : Bool} {p q : Nat × Int} {ps : List (Nat × Int)}

theorem monotone_cons_cons : monotone rising (p :: q :: ps) = true ↔
    p.1 < q.1 ∧ beyond rising p.2 q.2 ∧ monotone rising (q :: ps) = true := by
  cases rising <;> simp [monotone, beyond, and_assoc]

/-- Every later point of a valid map lies beyond its first. -/
theorem beyond_of_monotone (rises : monotone rising (p :: ps) = true) (later : q ∈ ps) :
    p.1 < q.1 ∧ beyond rising p.2 q.2 := by
  induction ps generalizing p with
  | nil => cases later
  | cons r ps ih =>
    obtain ⟨user, count, rest⟩ := monotone_cons_cons.mp rises
    obtain rfl | later := List.mem_cons.mp later
    · exact ⟨user, count⟩
    · obtain ⟨user', count'⟩ := ih rest later
      exact ⟨user.trans user', beyond_trans count count'⟩

/-- The forward conversion of a point within the segments. -/
theorem forwardIn_point (rises : monotone rising ps = true) (point : q ∈ ps) : forwardIn ps q.1 = q.2 := by
  induction ps with
  | nil => cases point
  | cons p ps ih =>
    cases ps with
    | nil =>
      rw [List.mem_singleton.mp point]
      rfl
    | cons r ps =>
      obtain ⟨user, -, rest⟩ := monotone_cons_cons.mp rises
      rw [forwardIn]
      obtain rfl | later := List.mem_cons.mp point
      · rw [if_pos user.le, sub_self, mul_zero, roundDiv_zero, add_zero]
      · obtain rfl | further := List.mem_cons.mp later
        · have width : ((q.1 : Int) - p.1) = ((q.1 - p.1 : Nat) : Int) := by omega
          rw [if_pos le_rfl, width, roundDiv_mul _ (by omega)]
          omega
        · rw [if_neg (by have := (beyond_of_monotone rest further).1; omega)]
          exact ih rest later

/-- The inverse conversion of a point within the segments. -/
theorem inverseIn_point (rises : monotone rising ps = true) (point : q ∈ ps) : inverseIn ps q.2 = q.1 := by
  induction ps with
  | nil => cases point
  | cons p ps ih =>
    cases ps with
    | nil =>
      rw [List.mem_singleton.mp point]
      rfl
    | cons r ps =>
      obtain ⟨user, count, rest⟩ := monotone_cons_cons.mp rises
      have ends : (p.2 ≤ r.2) ∨ (r.2 ≤ p.2) := le_total ..
      rw [inverseIn]
      obtain rfl | later := List.mem_cons.mp point
      · rw [if_pos (by simpa using ends), sub_self, zero_mul, mul_zero, roundDiv_zero, add_zero]
      · obtain rfl | further := List.mem_cons.mp later
        · have apart : 0 < (q.2 - p.2).natAbs := by
            cases rising <;> simp only [beyond] at count <;> simp at count <;> omega
          rw [if_pos (by simpa using ends), Int.mul_sign_self, roundDiv_mul _ apart]
          omega
        · have past := (beyond_of_monotone rest further).2
          have outside : ¬ ((p.2 ≤ q.2 ∧ q.2 ≤ r.2) ∨ (r.2 ≤ q.2 ∧ q.2 ≤ p.2)) := by
            cases rising <;> simp only [beyond] at count past <;> simp at count past <;> omega
          rw [if_neg outside]
          exact ih rest later

/-- The forward conversion stays between bounds that every count of the map meets. -/
theorem forwardIn_between {low high : Int} (rises : monotone rising (p :: ps) = true)
    (bounds : ∀ q ∈ p :: ps, low ≤ q.2 ∧ q.2 ≤ high) {u : Nat} (above : p.1 ≤ u) :
    low ≤ forwardIn (p :: ps) u ∧ forwardIn (p :: ps) u ≤ high := by
  induction ps generalizing p with
  | nil => exact bounds p (List.mem_singleton_self p)
  | cons r ps ih =>
    obtain ⟨user, -, rest⟩ := monotone_cons_cons.mp rises
    have first := bounds p (List.mem_cons_self ..)
    have second := bounds r (List.mem_cons_of_mem _ (List.mem_cons_self ..))
    rw [forwardIn]
    split
    · rename_i inSegment
      have width : ((u : Int) - p.1) = ((u - p.1 : Nat) : Int) := by omega
      obtain ⟨up, down⟩ := roundDiv_between (r.2 - p.2) (d := r.1 - p.1) (t := u - p.1) (by omega) (by omega)
      rw [width]
      obtain rises | falls := le_total p.2 r.2
      · obtain ⟨_, _⟩ := up (by omega)
        omega
      · obtain ⟨_, _⟩ := down (by omega)
        omega
    · exact ih rest (fun q later => bounds q (List.mem_cons_of_mem _ later)) (by omega)

theorem monotone_of_append {before : List (Nat × Int)} (rises : monotone rising (before ++ p :: ps) = true) :
    monotone rising (p :: ps) = true := by
  induction before with
  | nil => exact rises
  | cons b before ih =>
    refine ih ?_
    cases h : before ++ p :: ps with
    | nil => rfl
    | cons x xs =>
      rw [List.cons_append, h] at rises
      exact (monotone_cons_cons.mp rises).2.2

/-- A count that is another or lies beyond it. -/
def atOrBeyond (rising : Bool) (c0 c1 : Int) : Prop := if rising then c0 ≤ c1 else c1 ≤ c0

theorem atOrBeyond_of {c0 c1 : Int} (h : beyond rising c0 c1) : atOrBeyond rising c0 c1 := by
  cases rising with
  | true => exact le_of_lt (α := Int) h
  | false => exact le_of_lt (α := Int) h

theorem atOrBeyond_refl (rising : Bool) (c : Int) : atOrBeyond rising c c := by
  cases rising <;> exact le_refl (α := Int) c

/-- The first point of a valid map comes before every point. -/
theorem first_of_monotone (rises : monotone rising (p :: ps) = true) (point : q ∈ p :: ps) :
    p.1 ≤ q.1 ∧ atOrBeyond rising p.2 q.2 := by
  obtain rfl | later := List.mem_cons.mp point
  · exact ⟨le_rfl, atOrBeyond_refl ..⟩
  · obtain ⟨user, count⟩ := beyond_of_monotone rises later
    exact ⟨user.le, atOrBeyond_of count⟩

/-- The last point of a valid map comes after every point. -/
theorem last_of_monotone (rises : monotone rising ps = true) (point : q ∈ ps) :
    q.1 ≤ (ps.getLast (List.ne_nil_of_mem point)).1 ∧ atOrBeyond rising q.2 (ps.getLast (List.ne_nil_of_mem point)).2 := by
  obtain ⟨before, rest, rfl⟩ := List.append_of_mem point
  have last : (before ++ q :: rest).getLast (List.ne_nil_of_mem point) = (q :: rest).getLast (List.cons_ne_nil q rest) :=
    List.getLast_append_of_ne_nil _ (List.cons_ne_nil q rest)
  rw [last]
  exact first_of_monotone (monotone_of_append rises) (List.getLast_mem _)

end Points

/-! ### Whole maps -/

section Maps

variable {l : Lens} {lim : Limits} {ps : List (Nat × Int)} {m : MapPoints}

theorem mapOf_valid (map : mapOf l lim ps = some m) : m.points = ps ∧ validMapIn l lim m.rising ps = true := by
  unfold mapOf at map
  split at map
  · rename_i valid
    injection map with map
    rw [← map]
    exact ⟨rfl, valid⟩
  · split at map
    · rename_i valid
      injection map with map
      rw [← map]
      exact ⟨rfl, valid⟩
    · cases map

/-- What the validity of a map gives: a point, points in order, and counts inside the soft limits. -/
theorem validMapIn_facts {rising : Bool} (valid : validMapIn l lim rising ps = true) :
    ps ≠ [] ∧ monotone rising ps = true ∧ ∀ q ∈ ps, lim.low ≤ q.2 ∧ q.2 ≤ lim.high := by
  simp only [validMapIn, Bool.and_eq_true, decide_eq_true_eq, List.all_eq_true] at valid
  obtain ⟨⟨⟨two, -⟩, points⟩, rises⟩ := valid
  refine ⟨fun empty => ?_, rises, fun q mem => ⟨(points q mem).1.2, (points q mem).2⟩⟩
  rw [empty] at two
  cases two

/-- A count of a map lies between those of its ends. -/
theorem clamp_point {rising : Bool} {c first last : Int} (above : atOrBeyond rising first c)
    (below : atOrBeyond rising c last) : clamp (min first last) (max first last) c = c := by
  unfold clamp
  cases rising with
  | true =>
    have low : first ≤ c := above
    have high : c ≤ last := below
    omega
  | false =>
    have low : c ≤ first := above
    have high : last ≤ c := below
    omega

end Maps

/-- Settles O14: a point lies in a segment that converts it exactly, and every conversion stays between its ends. -/
theorem mapConversionsMeetThePoints : Obligations.MapConversionsMeetThePoints := by
  intro l lim ps m map
  obtain ⟨points, valid⟩ := mapOf_valid map
  obtain ⟨nonempty, rises, counts⟩ := validMapIn_facts valid
  obtain ⟨p, rest, rfl⟩ := List.exists_cons_of_ne_nil nonempty
  have last : (p :: rest).getLast? = some ((p :: rest).getLast nonempty) := List.getLast?_eq_some_getLast nonempty
  refine ⟨fun q point => ?point, fun u => ?bounds⟩
  case point =>
    obtain ⟨user, count⟩ := first_of_monotone rises point
    obtain ⟨user', count'⟩ := last_of_monotone rises point
    refine ⟨?_, ?_⟩
    · simp only [MapPoints.forward, MapPoints.firstUser, MapPoints.lastUser, points, last, List.head?_cons, Option.getD_some]
      rw [min_eq_right user', max_eq_right user]
      exact forwardIn_point rises point
    · simp only [MapPoints.inverse, MapPoints.firstCount, MapPoints.lastCount, points, last, List.head?_cons,
        Option.getD_some]
      rw [clamp_point count count', inverseIn_point rises point]
      rfl
  case bounds =>
    simp only [MapPoints.forward, MapPoints.firstUser, points, List.head?_cons, Option.getD_some]
    exact forwardIn_between rises counts (le_max_left ..)

end Sys2Proof.Machine
end

section
/-! Records read back (O15, O16): the bytes that a layout holds at a place, limits records, and the configuration image. -/

namespace Sys2Proof.Machine

/-! ### What a layout holds at a place -/

/-- A layout holds some bytes from a place on. -/
def HoldsAt (bs : List Byte) (place : Nat) (part : List Byte) : Prop := slice bs place part.length = part

section Holds

variable {bs part rest : List Byte} {place : Nat}

theorem HoldsAt.append (h : HoldsAt bs place (part ++ rest)) :
    HoldsAt bs place part ∧ HoldsAt bs (place + part.length) rest := by
  unfold HoldsAt at *
  constructor
  · calc slice bs place part.length = slice bs (place + 0) part.length := rfl
      _ = slice (slice bs place (part ++ rest).length) 0 part.length := (slice_slice (by simp)).symm
      _ = part := by rw [h, slice_left (by simp), slice_all rfl]
  · calc slice bs (place + part.length) rest.length
        = slice (slice bs place (part ++ rest).length) part.length rest.length := (slice_slice (by simp)).symm
      _ = rest := by rw [h, slice_right le_rfl, Nat.sub_self, slice_all rfl]

/-- The pieces of a row that follow one another, all of one length. -/
theorem HoldsAt.flatMap {α : Type} {l : List α} {f : α → List Byte} {L : Nat} (length : ∀ x ∈ l, (f x).length = L)
    (h : HoldsAt bs place (l.flatMap f)) {i : Nat} {x : α} (at_ : l[i]? = some x) : HoldsAt bs (place + L * i) (f x) := by
  induction l generalizing place i with
  | nil => cases at_
  | cons y l ih =>
    rw [List.flatMap_cons] at h
    obtain ⟨first, others⟩ := h.append
    cases i with
    | zero =>
      rw [List.getElem?_cons_zero] at at_
      injection at_ with at_
      rw [← at_]
      exact first
    | succ i =>
      rw [length y (List.mem_cons_self ..)] at others
      have later := ih (fun x mem => length x (List.mem_cons_of_mem _ mem)) others (i := i) (by simpa using at_)
      rwa [show place + L + L * i = place + L * (i + 1) by ring] at later

theorem HoldsAt.byteAt {b : Byte} (h : HoldsAt bs place (b :: rest)) : byteAt bs place = b :=
  byteAt_slice (HoldsAt.append (part := [b]) h).1

theorem HoldsAt.tail {b : Byte} (h : HoldsAt bs place (b :: rest)) : HoldsAt bs (place + 1) rest :=
  (HoldsAt.append (part := [b]) h).2

theorem HoldsAt.slice {n : Nat} (h : HoldsAt bs place part) (length : part.length = n) :
    slice bs place n = part := by
  rw [← length]
  exact h

theorem HoldsAt.number {n v : Nat} (h : HoldsAt bs place (beBytes n v)) (small : v < 256 ^ n) : natAt bs place n = v :=
  natAt_be (h.slice (beBytes_length n v)) small

theorem HoldsAt.small {v : Nat} (h : HoldsAt bs place (byte v)) (small : v < 256) : natAt bs place 1 = v :=
  natAt_byte (h.slice (byte_length v)) small

theorem HoldsAt.integer {n : Nat} {v : Int} (h : HoldsAt bs place (beInt n v)) (low : -(256 ^ n : Nat) ≤ 2 * v)
    (high : 2 * v < (256 ^ n : Nat)) : beSigned (Machine.slice bs place n) = v := by
  rw [h.slice (beInt_length n v)]
  exact beSigned_beInt low high

end Holds

/-- A row of pieces of one length each. -/
theorem flatMap_length_of_mem {α : Type} {l : List α} {f : α → List Byte} {L : Nat} (length : ∀ x ∈ l, (f x).length = L) :
    (l.flatMap f).length = L * l.length := by
  induction l with
  | nil => rfl
  | cons y l ih =>
    rw [List.flatMap_cons, List.length_append, length y (List.mem_cons_self ..),
      ih fun x mem => length x (List.mem_cons_of_mem _ mem), List.length_cons, Nat.mul_succ, Nat.add_comm]

/-! ### Limits records -/

/-- The fields of a limits record as its 30 bytes give them. -/
theorem limitsOf_limitsBytes (r : Limits) : limitsOf (limitsBytes r) =
    (flagOf (BitVec.ofNat 8 r.invert.toNat)).map fun i =>
      { low := beSigned (beInt 4 r.low)
        high := beSigned (beInt 4 r.high)
        vmax := beNat (beBytes 3 r.vmax)
        aAccel := beNat (beBytes 3 r.aAccel)
        aStop := beNat (beBytes 3 r.aStop)
        feLimit := beNat (beBytes 4 r.feLimit)
        lead := (BitVec.ofNat 8 r.lead).toNat
        invert := i
        seekPercent := (BitVec.ofNat 8 r.seekPercent).toNat
        trimStep := beNat (beBytes 2 r.trimStep)
        trimRange := beNat (beBytes 4 r.trimRange) } := rfl

theorem flagOf_flagByte (b : Bool) : flagOf (BitVec.ofNat 8 b.toNat) = some b := by cases b <;> rfl

theorem limitsBytes_length (r : Limits) : (limitsBytes r).length = 30 := by
  simp [limitsBytes]

/-- What the validity of a limits record says of the sizes of its fields. -/
theorem validLimits_sizes {j : Axis} {r : Limits} (valid : validLimits j r = true) :
    (-2000000000 ≤ r.low ∧ r.low ≤ 2000000000) ∧ (-2000000000 ≤ r.high ∧ r.high ≤ 2000000000) ∧
      r.vmax < 256 ^ 3 ∧ r.aAccel < 256 ^ 3 ∧ r.aStop < 256 ^ 3 ∧ r.feLimit < 256 ^ 4 ∧ r.lead < 256 ∧
      r.seekPercent < 256 ∧ r.trimStep < 256 ^ 2 ∧ r.trimRange < 256 ^ 4 := by
  simp only [validLimits, Bool.and_eq_true, decide_eq_true_eq] at valid
  omega

theorem beNat_beBytes_of_lt {n v : Nat} (small : v < 256 ^ n) : beNat (beBytes n v) = v := by
  rw [beNat_beBytes, Nat.mod_eq_of_lt small]

theorem byte_toNat {v : Nat} (small : v < 256) : (BitVec.ofNat 8 v).toNat = v := by
  rw [BitVec.toNat_ofNat, Nat.mod_eq_of_lt small]

theorem limitsOf_back {j : Axis} {r : Limits} (valid : validLimits j r = true) : limitsOf (limitsBytes r) = some r := by
  obtain ⟨⟨lowMin, lowMax⟩, ⟨highMin, highMax⟩, vmax, accel, stop, fe, lead, seek, step, range⟩ := validLimits_sizes valid
  rw [limitsOf_limitsBytes, flagOf_flagByte, Option.map_some, beSigned_beInt (by omega) (by omega),
    beSigned_beInt (by omega) (by omega), beNat_beBytes_of_lt vmax, beNat_beBytes_of_lt accel, beNat_beBytes_of_lt stop,
    beNat_beBytes_of_lt fe, byte_toNat lead, byte_toNat seek, beNat_beBytes_of_lt step, beNat_beBytes_of_lt range]

/-- Settles O15: each field of a valid record fits its bytes. -/
theorem limitsRecordsReadBack : Obligations.LimitsRecordsReadBack :=
  fun _ r valid => ⟨limitsBytes_length r, limitsOf_back valid⟩

end Sys2Proof.Machine
end

section
/-! The configuration image read back (O16). -/

namespace Sys2Proof.Machine

/-! ### Tables read back -/

theorem tab_getElem? {n : Nat} {α : Type} (t : Tab n α) (i : Fin n) : t.list[i.val]? = some (t.get i) := by
  rw [Tab.get, List.getElem?_eq_getElem]

/-- All entries read are a table read. -/
theorem allSome_eq {n : Nat} {α : Type} {f : Fin n → Option α} {u : Tab n α} (reads : ∀ i, f i = some (u.get i)) :
    allSome (Tab.ofFn f) = some u := by
  have table : Tab.ofFn f = u.map some := Tab.ext_get fun i => by rw [Tab.get_ofFn, Tab.get_map, reads]
  have list : (u.map some).list.filterMap id = u.list := by simp [Tab.map]
  have length : ((u.map some).list.filterMap id).length = n := by rw [list]; exact u.len
  rw [table, allSome, dif_pos length]
  cases u
  simp only [Option.some.injEq, Tab.mk.injEq]
  exact list

theorem mem_tab {n : Nat} {α : Type} {t : Tab n α} {x : α} (mem : x ∈ t.list) : ∃ i, t.get i = x := by
  obtain ⟨i, small, rfl⟩ := List.getElem_of_mem mem
  exact ⟨⟨i, by rw [← t.len]; exact small⟩, rfl⟩

theorem get_mem {n : Nat} {α : Type} (t : Tab n α) (i : Fin n) : t.get i ∈ t.list := List.getElem_mem _

/-! ### Stations -/

section Stations

variable {bs : List Byte} {place : Nat}

/-- The bytes of a station in the image. -/
def stationBytes (x : Nat × Rights) : List Byte := byte x.1 ++ beBytes 2 x.2.toNat

theorem stationBytes_length (x : Nat × Rights) : (stationBytes x).length = 3 := rfl

theorem rightsOf_back (r : Rights) {a b : Byte} (bytes : beBytes 2 r.toNat = [a, b]) : rightsOf a b = some r := by
  have small : r.toNat < 512 := r.isLt
  have number : beNat [a, b] = r.toNat := by rw [← bytes, beNat_beBytes_of_lt (by omega)]
  rw [rightsOf, number, if_pos small, BitVec.ofNat_toNat, BitVec.setWidth_eq]

theorem stationAt_back {x : Nat × Rights} {st : Station} (h : HoldsAt bs (8 + 3 * st.val) (stationBytes x))
    (small : x.1 < 256) : stationAt bs st = some x := by
  obtain ⟨rank, rights⟩ := h.append
  have high := HoldsAt.byteAt (rest := [_]) rights
  have low := (HoldsAt.tail (rest := [_]) rights).byteAt
  rw [byte_length] at high low
  rw [show 8 + 3 * st.val + 1 = 9 + 3 * st.val by ring] at high low
  rw [show 9 + 3 * st.val + 1 = 10 + 3 * st.val by ring] at low
  rw [stationAt, high, low, rightsOf_back x.2 rfl, rank.small small]
  rfl

/-- Four ranks that are 1 to 4 in some order are at most 4. -/
theorem rank_le {t : Tab 4 (Nat × Rights)} (ranks : ranksValid t = true) (o : Station) : (t.get o).1 ≤ 4 := by
  have each (k : Fin 4) : ∃ o, (t.get o).1 = k.val + 1 := by
    have any := List.all_eq_true.mp ranks (k.val + 1) ((by decide : ∀ k : Fin 4, k.val + 1 ∈ [1, 2, 3, 4]) k)
    obtain ⟨o, -, rank⟩ := List.any_eq_true.mp any
    exact ⟨o, of_decide_eq_true rank⟩
  choose holder isHolder using each
  have injective : Function.Injective holder := fun k k' same => by
    have := isHolder k
    rw [same, isHolder k'] at this
    exact Fin.ext (by omega)
  obtain ⟨k, rfl⟩ := Finite.injective_iff_surjective.mp injective o
  rw [isHolder k]
  omega

theorem any_stations {t : Tab 4 (Nat × Rights)} {p : Nat × Rights → Bool}
    (h : (allStations.any fun st => p (t.get st)) = true) : (t.list.any p) = true := by
  obtain ⟨o, -, holds⟩ := List.any_eq_true.mp h
  exact List.any_eq_true.mpr ⟨_, get_mem t o, holds⟩

end Stations

/-! ### Stored limits records -/

section StoredLimits

variable {bs : List Byte} {place : Nat}

theorem storedLimitsBytes_length (r : Option Limits) : (storedLimitsBytes r).length = 31 := by
  cases r with
  | none => rfl
  | some r => rw [storedLimitsBytes, List.length_append, byte_length, limitsBytes_length]

theorem limitsAt_back {j : Axis} {r : Option Limits} (h : HoldsAt bs (20 + 31 * j.val) (storedLimitsBytes r))
    (valid : ∀ x, r = some x → validLimits j x = true) : limitsAt bs j = some r := by
  cases r with
  | none =>
    have flag : byteAt bs (20 + 31 * j.val) = 0 := HoldsAt.byteAt (rest := List.replicate 30 0) h
    rw [limitsAt, flag]
    rfl
  | some r =>
    have flag : byteAt bs (20 + 31 * j.val) = 1 := HoldsAt.byteAt (rest := limitsBytes r) h
    have record := (HoldsAt.tail (b := 1) (rest := limitsBytes r) h).slice (limitsBytes_length r)
    rw [limitsAt, flag, show flagOf 1 = some true from rfl]
    dsimp only
    rw [record, limitsOf_back (valid r rfl)]
    exact if_pos (valid r rfl)

end StoredLimits

/-! ### Lens maps -/

section Maps

variable {bs : List Byte} {place : Nat}

theorem pointBytes_length (q : Nat × Int) : (pointBytes q).length = 7 := rfl

/-- A map that can be stored has at most 24 points, each in the ranges of its fields. -/
theorem validMapIn_sizes {l : Lens} {lim : Limits} {rising : Bool} {ps : List (Nat × Int)} {j : Axis}
    (valid : validMapIn l lim rising ps = true) (limits : validLimits j lim = true) :
    ps.length ≤ 24 ∧ ∀ q ∈ ps, q.1 < 256 ^ 3 ∧ -(256 ^ 4 : Nat) ≤ 2 * q.2 ∧ 2 * q.2 < (256 ^ 4 : Nat) := by
  obtain ⟨⟨lowMin, -⟩, ⟨-, highMax⟩, -⟩ := validLimits_sizes limits
  simp only [validMapIn, Bool.and_eq_true, decide_eq_true_eq, List.all_eq_true] at valid
  obtain ⟨⟨⟨-, few⟩, points⟩, -⟩ := valid
  have widest := (by decide : ∀ l : Lens, (userRange l).2 ≤ 1000000) l
  refine ⟨few, fun q mem => ?_⟩
  obtain ⟨⟨⟨-, user⟩, low⟩, high⟩ := points q mem
  omega

theorem mapBytes_length {m : LensMap} (few : ∀ x, m.map = some x → x.points.length ≤ 24) : (mapBytes m).length = 173 := by
  unfold mapBytes
  cases map : m.map with
  | none => simp only [List.length_append, byte_length, ones_length, beBytes_length, List.length_replicate]
  | some x =>
    have small := few x map
    have points := flatMap_length (l := x.points) pointBytes_length
    simp only [List.length_append, byte_length, beBytes_length, points, List.length_replicate]
    omega

theorem pointsAt_back {ps : List (Nat × Int)} (h : HoldsAt bs place (ps.flatMap pointBytes))
    (sizes : ∀ q ∈ ps, q.1 < 256 ^ 3 ∧ -(256 ^ 4 : Nat) ≤ 2 * q.2 ∧ 2 * q.2 < (256 ^ 4 : Nat)) :
    pointsAt bs place ps.length = ps := by
  refine List.ext_getElem (by simp [pointsAt]) fun i _ inRange => ?_
  obtain ⟨user, count⟩ := (h.flatMap (fun q _ => pointBytes_length q) (List.getElem?_eq_getElem inRange)).append
  obtain ⟨small, low, high⟩ := sizes _ (List.getElem_mem inRange)
  rw [beBytes_length] at count
  simp only [pointsAt, List.getElem_map, List.getElem_range, user.number small, count.integer low high]

theorem mapAt_back {l : Lens} {lim : Option Limits} {m : LensMap} (h : HoldsAt bs (330 + 173 * l.val) (mapBytes m))
    (storable : m.storable l lim) {j : Axis} (valid : ∀ r, lim = some r → validLimits j r = true) :
    mapAt bs l lim = some m := by
  obtain ⟨generation, map⟩ := storable
  obtain ⟨place, isPlace⟩ : ∃ place, 330 + 173 * l.val = place := ⟨_, rfl⟩
  unfold mapBytes at h
  unfold mapAt
  rw [isPlace] at h ⊢
  dsimp only
  cases isMap : m.map with
  | none =>
    rw [isMap] at h
    simp only [List.append_assoc] at h
    obtain ⟨flag, h⟩ := h.append
    obtain ⟨-, h⟩ := h.append
    obtain ⟨number, -⟩ := h.append
    rw [show byteAt bs place = 0 from HoldsAt.byteAt (rest := []) flag]
    rw [byte_length, ones_length] at number
    rw [show flagOf 0 = some false from rfl]
    dsimp only
    rw [show place + 2 = place + 1 + 1 from rfl, number.number generation, ← isMap]
  | some x =>
    rw [isMap] at h map
    obtain ⟨r, isLimits, points⟩ := map
    obtain ⟨few, sizes⟩ := validMapIn_sizes points (valid r isLimits)
    simp only [List.append_assoc] at h
    obtain ⟨flag, h⟩ := h.append
    obtain ⟨direction, h⟩ := h.append
    obtain ⟨number, h⟩ := h.append
    obtain ⟨count, h⟩ := h.append
    obtain ⟨list, -⟩ := h.append
    simp only [byte_length, beBytes_length] at direction number count list
    have falls : flagOf (byteAt bs (place + 1)) = some (!x.rising) := by
      rw [HoldsAt.byteAt (rest := []) direction]
      cases x.rising <;> rfl
    have read : pointsAt bs (place + 5) (natAt bs (place + 4) 1) = x.points := by
      rw [show place + 4 = place + 1 + 1 + 2 from rfl, count.small (by omega)]
      exact pointsAt_back list sizes
    rw [show byteAt bs place = 1 from HoldsAt.byteAt (rest := []) flag, show flagOf 1 = some true from rfl, isLimits]
    dsimp only
    rw [falls]
    dsimp only
    rw [read, Bool.not_not, if_pos points, show place + 2 = place + 1 + 1 from rfl, number.number generation, ← isMap]

end Maps

/-! ### Zone entries -/

section Zones

variable {bs : List Byte} {place : Nat}

theorem rangeBytes_length (r : Option (Int × Int)) : (rangeBytes r).length = 9 := by
  cases r <;> rfl

theorem rangeAt_back {r : Option (Int × Int)} (h : HoldsAt bs place (rangeBytes r)) (valid : rangeValid r = true) :
    rangeAt bs place = some r := by
  cases r with
  | none =>
    have any : byteAt bs place = 1 := HoldsAt.byteAt (rest := ones 8) h
    rw [rangeAt, any]
    rfl
  | some ends =>
    obtain ⟨lo, hi⟩ := ends
    simp only [rangeValid, Bool.and_eq_true, decide_eq_true_eq] at valid
    obtain ⟨⟨order, low⟩, high⟩ := valid
    unfold rangeBytes at h
    simp only [List.append_assoc] at h
    obtain ⟨any, h⟩ := h.append
    obtain ⟨first, second⟩ := h.append
    simp only [byte_length, beInt_length] at first second
    rw [rangeAt, show byteAt bs place = 0 from HoldsAt.byteAt (rest := []) any, first.integer (by omega) (by omega),
      show place + 5 = place + 1 + 4 from rfl, second.integer (by omega) (by omega)]
    rfl

theorem zoneBytes_length (e : ZoneEntry) : (zoneBytes e).length = 68 := by
  have ranges := flatMap_length (l := e.ranges.list) rangeBytes_length
  rw [e.ranges.len] at ranges
  simp only [zoneBytes, List.length_append, flagByte_length, byte_length, ranges, List.length_singleton]

/-- What a zone entry that can be stored holds: a cap of at most 100 that its kind keeps, and valid ranges. -/
theorem storable_zone {e : ZoneEntry} {t : ZoneTable} (storable : e.storable t) :
    e.cap ≤ 100 ∧ heldCap e.kind e.cap = e.cap ∧ (∀ m, rangeValid (e.ranges.get m) = true) ∧
      (e = ZoneEntry.blank ∨ (openFieldsValid t e.kind e.cap e.mask = true ∧ e.hasRange = true)) := by
  obtain rfl | ⟨fields, held, ranged, ranges⟩ := storable
  · exact ⟨le_rfl, rfl, fun m => by rw [ZoneEntry.blank, Tab.get_const]; rfl, .inl rfl⟩
  · refine ⟨?_, held, ranges, .inr ⟨fields, ranged⟩⟩
    cases kind : e.kind with
    | hard => rw [← held, heldCap, if_pos kind]
    | slow =>
      rw [openFieldsValid, kind] at fields
      simp at fields
      exact fields.1.2

theorem zoneKindOf_code (k : ZoneKind) : k.code < 256 ∧ zoneKindOf k.code = some k := by cases k <;> decide

theorem modeMatchOf_code (m : ModeMatch) : m.code < 256 ∧ modeMatchOf m.code = some m := by cases m <;> decide

theorem zoneAt_back {t : ZoneTable} {e : ZoneEntry} (h : HoldsAt bs place (zoneBytes e)) (storable : e.storable t) :
    zoneAt bs t place = some e := by
  obtain ⟨capSmall, held, ranges, which⟩ := storable_zone storable
  unfold zoneBytes at h
  simp only [List.append_assoc] at h
  obtain ⟨enabled, h⟩ := h.append
  obtain ⟨kind, h⟩ := h.append
  obtain ⟨cap, h⟩ := h.append
  obtain ⟨mode, h⟩ := h.append
  obtain ⟨mask, list⟩ := h.append
  simp only [flagByte_length, byte_length, List.length_singleton] at kind cap mode mask list
  have isEnabled : flagOf (byteAt bs place) = some e.enabled := by
    rw [HoldsAt.byteAt (rest := []) enabled]
    exact flagOf_flagByte e.enabled
  have isKind : zoneKindOf (natAt bs (place + 1) 1) = some e.kind := by
    rw [kind.small (zoneKindOf_code e.kind).1, (zoneKindOf_code e.kind).2]
  have isCap : natAt bs (place + 2) 1 = e.cap := cap.small (by omega)
  have isMode : modeMatchOf (natAt bs (place + 3) 1) = some e.modeMatch := by
    rw [show place + 3 = place + 1 + 1 + 1 from rfl, mode.small (modeMatchOf_code e.modeMatch).1,
      (modeMatchOf_code e.modeMatch).2]
  have isMask : byteAt bs (place + 4) = e.mask := HoldsAt.byteAt (rest := []) mask
  have isRanges : allSome (Tab.ofFn (n := 7) fun m => rangeAt bs (place + 5 + 9 * m.val)) = some e.ranges :=
    allSome_eq fun m => rangeAt_back (list.flatMap (fun r _ => rangeBytes_length r) (tab_getElem? e.ranges m)) (ranges m)
  rw [zoneAt, isEnabled, isKind, isMode, isRanges]
  dsimp only
  rw [isCap, isMask, held]
  obtain rfl | ⟨fields, ranged⟩ := which
  · exact if_pos rfl
  · split
    · rfl
    · have all : e.ranges.list.all rangeValid = true := List.all_eq_true.mpr fun r mem => by
        obtain ⟨m, rfl⟩ := mem_tab mem
        exact ranges m
      have any : (e.ranges.list.any fun r => r.isSome) = true := by
        obtain ⟨m, -, isSome⟩ := List.any_eq_true.mp ranged
        exact List.any_eq_true.mpr ⟨_, get_mem e.ranges m, isSome⟩
      rw [fields, all, any]
      rfl

end Zones

/-! ### Sync settings -/

theorem syncModeOf_code (m : SyncMode) : m.code < 256 ∧ syncModeOf m.code = some m := by cases m <;> decide

theorem counterModeOf_code (m : CounterMode) : m.code < 256 ∧ counterModeOf m.code = some m := by cases m <;> decide

/-! ### The whole image -/

section Image

variable {c : ConfigImage}

/-- Where the parts of an image lie. -/
structure ImageHolds (bs : List Byte) (c : ConfigImage) : Prop where
  head : HoldsAt bs 0 [0xC0, 0x4E, 0x19, 0x3A]
  length : HoldsAt bs 4 (beBytes 2 1955)
  stations : HoldsAt bs 8 (c.stations.list.flatMap stationBytes)
  limits : HoldsAt bs 20 (c.limits.list.flatMap storedLimitsBytes)
  maps : HoldsAt bs 330 (c.maps.list.flatMap mapBytes)
  setTable : HoldsAt bs 849 (c.setTable.list.flatMap zoneBytes)
  crewTable : HoldsAt bs 1393 (c.crewTable.list.flatMap zoneBytes)
  debounce : HoldsAt bs 1937 (beBytes 2 c.debounce)
  sync : HoldsAt bs 1939 (syncBytes c.sync)
  cueOffset : HoldsAt bs 1949 (beBytes 3 c.cueOffset)
  goLead : HoldsAt bs 1952 (beBytes 3 c.goLead)

/-- The maps of an image that can be stored have at most 24 points. -/
theorem storable_few (storable : c.storable) : ∀ m ∈ c.maps.list, ∀ x, m.map = some x → x.points.length ≤ 24 := by
  obtain ⟨-, -, limits, maps, -⟩ := storable
  intro m mem x isMap
  obtain ⟨l, rfl⟩ := mem_tab mem
  obtain ⟨-, map⟩ := maps l
  rw [isMap] at map
  obtain ⟨r, isLimits, valid⟩ := map
  exact (validMapIn_sizes valid (limits _ r isLimits)).1

theorem syncBytes_length (x : SyncSettings) : (syncBytes x).length = 10 := rfl

theorem configBody_holds (storable : c.storable) :
    (configBody c).length = 1955 ∧ ImageHolds (configBytes c) c := by
  have stations := flatMap_length (l := c.stations.list) stationBytes_length
  have limits := flatMap_length (l := c.limits.list) storedLimitsBytes_length
  have maps := flatMap_length_of_mem fun m mem => mapBytes_length (storable_few storable m mem)
  have sets := flatMap_length (l := c.setTable.list) zoneBytes_length
  have crews := flatMap_length (l := c.crewTable.list) zoneBytes_length
  rw [c.stations.len] at stations
  rw [c.limits.len] at limits
  rw [c.maps.len] at maps
  rw [c.setTable.len] at sets
  rw [c.crewTable.len] at crews
  have whole : HoldsAt (configBytes c) 0 (configBytes c) := slice_all rfl
  have parts : configBytes c = [0xC0, 0x4E, 0x19, 0x3A] ++ (beBytes 2 1955 ++ ([0, 0] ++
      (c.stations.list.flatMap stationBytes ++ (c.limits.list.flatMap storedLimitsBytes ++
      (c.maps.list.flatMap mapBytes ++ (c.setTable.list.flatMap zoneBytes ++ (c.crewTable.list.flatMap zoneBytes ++
      (beBytes 2 c.debounce ++ (syncBytes c.sync ++ (beBytes 3 c.cueOffset ++ (beBytes 3 c.goLead ++
      endRecord (configBody c)))))))))))) := by
    simp only [configBytes, configBody, List.append_assoc]
    rfl
  refine ⟨?_, ?_⟩
  · have length := congrArg List.length parts
    rw [configBytes] at length
    simp only [List.length_append, stations, limits, maps, sets, crews, beBytes_length, syncBytes_length,
      endRecord_length, List.length_cons, List.length_nil] at length
    omega
  · obtain ⟨bs, isBytes⟩ : ∃ bs, configBytes c = bs := ⟨_, rfl⟩
    rw [isBytes] at whole ⊢
    have again (xs : List Byte) (same : bs = xs) : HoldsAt bs 0 xs := by rw [← same]; exact whole
    have h := again _ (isBytes.symm.trans parts)
    obtain ⟨head, h⟩ := h.append
    obtain ⟨length, h⟩ := h.append
    obtain ⟨-, h⟩ := h.append
    obtain ⟨p1, h⟩ := h.append
    obtain ⟨p2, h⟩ := h.append
    obtain ⟨p3, h⟩ := h.append
    obtain ⟨p4, h⟩ := h.append
    obtain ⟨p5, h⟩ := h.append
    obtain ⟨p6, h⟩ := h.append
    obtain ⟨p7, h⟩ := h.append
    obtain ⟨p8, h⟩ := h.append
    obtain ⟨p9, -⟩ := h.append
    simp only [stations, limits, maps, sets, crews, beBytes_length, syncBytes_length, List.length_cons,
      List.length_nil] at length p1 p2 p3 p4 p5 p6 p7 p8 p9
    exact ⟨head, length, p1, p2, p3, p4, p5, p6, p7, p8, p9⟩

theorem sync_back {bs : List Byte} {x : SyncSettings} (h : HoldsAt bs 1939 (syncBytes x)) (offset : x.offset ≤ 65535)
    (tolerance : x.tolerance ≤ 1000) (period1 : 1 ≤ x.period) (period : x.period ≤ 65535) (threshold1 : 1 ≤ x.threshold)
    (threshold : x.threshold ≤ 65535) :
    syncSettingsOf (natAt bs 1939 1) (natAt bs 1940 2) (natAt bs 1942 2) (natAt bs 1944 1) (natAt bs 1945 2)
      (natAt bs 1947 2) = some x := by
  unfold syncBytes at h
  simp only [List.append_assoc] at h
  obtain ⟨mode, h⟩ := h.append
  obtain ⟨off, h⟩ := h.append
  obtain ⟨tol, h⟩ := h.append
  obtain ⟨counter, h⟩ := h.append
  obtain ⟨per, thr⟩ := h.append
  simp only [byte_length, beBytes_length] at off tol counter per thr
  rw [mode.small (syncModeOf_code x.mode).1, off.number (by omega), tol.number (by omega),
    counter.small (counterModeOf_code x.counter).1, per.number (by omega), thr.number (by omega), syncSettingsOf,
    (syncModeOf_code x.mode).2, (counterModeOf_code x.counter).2]
  exact if_pos ⟨offset, tolerance, period1, period, threshold1, threshold⟩

/-- The items of an image that can be stored are read back. -/
theorem configItems_back {bs : List Byte} (storable : c.storable) (holds : ImageHolds bs c) : configItems bs = some c := by
  obtain ⟨ranks, config, limits, maps, sets, crews, debounce1, debounce, offset, tolerance, period1, period, threshold1,
    threshold, cue, go⟩ := storable
  have isStations : allSome (Tab.ofFn (n := 4) fun st => stationAt bs st) = some c.stations := allSome_eq fun st =>
    stationAt_back (holds.stations.flatMap (fun x _ => stationBytes_length x) (tab_getElem? _ st))
      (lt_of_le_of_lt (rank_le ranks st) (by decide))
  have isLimits : allSome (Tab.ofFn (n := 10) fun j => limitsAt bs j) = some c.limits := allSome_eq fun j =>
    limitsAt_back (holds.limits.flatMap (fun x _ => storedLimitsBytes_length x) (tab_getElem? _ j)) (limits j)
  have few := storable_few ⟨ranks, config, limits, maps, sets, crews, debounce1, debounce, offset, tolerance, period1,
    period, threshold1, threshold, cue, go⟩
  have isMaps : allSome (Tab.ofFn (n := 3) fun l => mapAt bs l (c.limits.get (lensAxis l))) = some c.maps :=
    allSome_eq fun l => mapAt_back (holds.maps.flatMap (fun m mem => mapBytes_length (few m mem)) (tab_getElem? _ l))
      (maps l) (limits (lensAxis l))
  have isSets : allSome (Tab.ofFn (n := 8) fun i => zoneAt bs .set (849 + 68 * i.val)) = some c.setTable :=
    allSome_eq fun i => zoneAt_back (holds.setTable.flatMap (fun e _ => zoneBytes_length e) (tab_getElem? _ i)) (sets i)
  have isCrews : allSome (Tab.ofFn (n := 8) fun i => zoneAt bs .crew (1393 + 68 * i.val)) = some c.crewTable :=
    allSome_eq fun i => zoneAt_back (holds.crewTable.flatMap (fun e _ => zoneBytes_length e) (tab_getElem? _ i)) (crews i)
  have isSync := sync_back holds.sync offset tolerance period1 period threshold1 threshold
  have isDebounce : natAt bs 1937 2 = c.debounce := holds.debounce.number (by omega)
  have isCue : natAt bs 1949 3 = c.cueOffset := holds.cueOffset.number (by omega)
  have isGo : natAt bs 1952 3 = c.goLead := holds.goLead.number (by omega)
  have ranked : ([1, 2, 3, 4].all fun k => c.stations.list.any fun x => decide (x.1 = k)) = true :=
    List.all_eq_true.mpr fun k mem => any_stations (List.all_eq_true.mp ranks k mem)
  rw [configItems, isStations, isLimits]
  dsimp only
  rw [isMaps, isSets, isCrews, isSync]
  dsimp only
  rw [isDebounce, isCue, isGo, if_pos ⟨debounce1, debounce, cue, go, ranked, any_stations config⟩]

end Image

/-- Settles O16: each part of the image lies at its place, and is read back by the law of its kind. -/
theorem configImageReadsBack : Obligations.ConfigImageReadsBack := by
  intro c flash storable wf
  obtain ⟨body, holds⟩ := configBody_holds storable
  have length : (configBytes c).length = 1963 := by
    rw [configBytes, List.length_append, body, endRecord_length]
  have read : flashBytes (writeSector flash 0 (configBytes c)) 0 configLength = configBytes c :=
    (writeSector_zero length wf).1
  refine ⟨length, ?_⟩
  rw [readConfig, read]
  rw [if_pos ⟨holds.head.slice rfl, holds.length.number (by decide)⟩, endMatches_configBytes c body,
    if_pos rfl, configItems_back storable holds]

end Sys2Proof.Machine
end

section
/-! Updates at which nothing stops the crane (O58, O59): the state before the recorder, the arrivals, and the end of a take. -/

namespace Sys2Proof.Machine

/-! ### The update up to the recorder -/

/-- The engine's state once an update has begun that judges no timed start. -/
def State.begunState (s : State) : EngineState :=
  match s.play.state with
  | .running h e => if s.taken.running then .running h e else .running h (e + 1)
  | .ready c => if c.start = none ∧ c.go = true then .running c.hold c.runStart else .ready c
  | .seeking c => .seeking c
  | .idle => .idle
  | .paused h e => .paused h e

/-- No timed start is due. -/
def State.NoStartDue (s : State) : Prop := ∀ c, s.play.state = .seeking c ∨ s.play.state = .ready c → s.startDue c = false

theorem judgeStart_none {s : State} (early : s.NoStartDue) : s.judgeStart = s := by
  unfold State.judgeStart
  split
  · rename_i c seeking; rw [early c (.inl seeking), if_neg Bool.false_ne_true]
  · rename_i c ready; rw [early c (.inr ready), if_neg Bool.false_ne_true]
  all_goals rfl

theorem engineBegin_play {s : State} (early : s.NoStartDue) : s.engineBegin.play = { s.play with state := s.begunState } := by
  unfold State.engineBegin State.begunState
  rw [judgeStart_none early]
  cases state : s.play.state with
  | running h e =>
    dsimp only
    split
    · rw [← state]
    · rfl
  | ready c =>
    dsimp only
    split
    · rfl
    · rw [← state]
  | seeking c => dsimp only; rw [← state]
  | idle => dsimp only; rw [← state]
  | paused h e => dsimp only; rw [← state]

/-- An update at which nothing stops the crane, away from level 2: the state `b` once the engine has begun, and the state `u`
before the recorder. -/
structure QuietUpdate (s b u : State) : Prop where
  run : exec .update s = .next u.recordUpdate.judgeArrival.judgeEnd.countReport
  begun : ∃ x, b = (({ s with stop := { s.stop with haltTimer := x } } : State).engineBegin).dropTaken
  frame : b = { s with stop := b.stop, play := b.play, auth := b.auth, taken := b.taken }
  play : u.play = { s.play with state := s.begunState }
  takes : u.takes = s.takes
  maps : u.maps = s.maps
  now : u.time.now = s.time.now
  level : u.stop.level = s.stop.level
  reportCount : u.reportCount = s.reportCount
  linkState : ∀ o, u.linkState o = s.linkState o
  mode : ∀ j, u.mode j = b.mode j
  owner : ∀ j, (u.auth.get j).owner = (s.auth.get j).owner
  channel : ∀ j, ∃ f : Target → Target, u.channels.get j = { b.generate.channels.get j with
    moving := (b.generate.channels.get j).moving.map fun m => { m with target := f m.target } }

theorem quietUpdate {s : State} (quiet : s.Quiet) (level : s.stop.level ≠ 2) : ∃ b u, QuietUpdate s b u := by
  obtain ⟨b, x, w, u, begun, frame, owner, kept, port, stop, update, generated⟩ := State.update_quiet s quiet level
  obtain ⟨awake, -, -, -, -, early⟩ := quiet
  obtain ⟨play, takes, maps, -, -, -, -, now, count, link, auth, channel⟩ := kept
  have atPlay : b.play = { s.play with state := s.begunState } := by
    rw [begun]
    exact engineBegin_play (s := { s with stop := { s.stop with haltTimer := x } }) early
  refine ⟨b, u, ⟨?_, ⟨x, begun⟩, ?_, ?_, ?_, ?_, ?_, stop, ?_, fun o => ?_, fun j => ?_, fun j => ?_, fun j => ?_⟩⟩
  · rw [← update]
    show execUpdate s = _
    rw [execUpdate, awake_next _ awake]
  · rw [frame]
  · rw [port]
    exact play.trans (by rw [generated]; exact atPlay)
  · rw [port]
    exact takes.trans (by rw [generated, frame])
  · rw [port]
    exact maps.trans (by rw [generated, frame])
  · rw [port]
    exact now.trans (by rw [generated, frame])
  · rw [port]
    exact count.trans (by rw [generated, frame])
  · rw [port]
    exact (link o).trans (by rw [generated, frame]; rfl)
  · rw [port]
    exact (auth j).1.trans (by rw [generated]; rfl)
  · rw [port]
    exact (auth j).2.trans (by rw [generated]; exact owner j)
  · rw [port]
    exact channel j

section Quiet

variable {s b u : State} (q : QuietUpdate s b u)

include q

theorem QuietUpdate.limits (quiet : s.Quiet) (j : Axis) : u.limits j = s.limits j := by
  obtain ⟨-, -, inactive, -⟩ := quiet
  obtain ⟨f, channel⟩ := q.channel j
  have generated := (State.generate_channel b (fun z => by rw [q.frame]; exact inactive z) j).1
  show (u.channels.get j).limits = (s.channels.get j).limits
  rw [channel]
  exact generated.trans (by rw [q.frame])

theorem QuietUpdate.lead (quiet : s.Quiet) (j : Axis) : u.lead j = s.lead j := by
  rw [State.lead, q.limits quiet]
  rfl

end Quiet

/-! ### The recorder, the arrivals and the report count leave the rest -/

section Recorded

variable {s : State}

theorem recordUpdate_play : s.recordUpdate.play = s.play := by rw [(State.recordUpdate_frame s).1]

theorem recordUpdate_auth : s.recordUpdate.auth = s.auth := by rw [(State.recordUpdate_frame s).1]

theorem recordUpdate_channels : s.recordUpdate.channels = s.channels := by rw [(State.recordUpdate_frame s).1]

theorem recordUpdate_stop : s.recordUpdate.stop = s.stop := by rw [(State.recordUpdate_frame s).1]

theorem recordUpdate_reportCount : s.recordUpdate.reportCount = s.reportCount := by rw [(State.recordUpdate_frame s).1]

theorem recordUpdate_lead (j : Axis) : s.recordUpdate.lead j = s.lead j := by
  unfold State.lead State.limits
  rw [recordUpdate_channels]

theorem countReport_play : s.countReport.play = s.play := by rw [(State.countReport_frame s).1]

theorem countReport_auth : s.countReport.auth = s.auth := by rw [(State.countReport_frame s).1]

theorem countReport_channels : s.countReport.channels = s.channels := by rw [(State.countReport_frame s).1]

theorem countReport_takes : s.countReport.takes = s.takes := by rw [(State.countReport_frame s).1]

/-- The arrivals are judged only of a cue that seeks. -/
theorem judgeArrival_running {h : Hold} {e : Nat} (running : s.play.state = .running h e) : s.judgeArrival = s := by
  rw [State.judgeArrival, running]

end Recorded

/-! ### RESUME (O58) -/

section Arrivals

variable {s : State} {c : Cue} {k : Take} {st : Station} {h : Hold} {e : Nat}

theorem resume_seeks (right : s.holds st .play = true) (paused : s.play.state = .paused h e) (level : s.stop.level = 0)
    (up : s.linkState h.station = .up) (closed : s.takes.closedTake h.slot = some k)
    (active : ∀ j : Axis, k.axes.getLsbD j.val = true → s.driveState j = .active)
    (free : s.insideZone (s.startPosition k e true) = false) :
    s.resume st = ((s.seekBegun ⟨h, none, false, e⟩ k.axes).judgeZones, ⟨.ok, []⟩) := by
  have ready : ((axesOf k.axes).any fun j => decide (s.driveState j ≠ .active)) = false :=
    any_axesOf_false fun j held => decide_eq_false (not_not_intro (active j held))
  rw [State.resume, if_neg (by rw [right]; exact nofun), paused]
  dsimp only
  rw [if_neg (by omega), takeAxes_of_closed closed, ready, if_neg (by simp [up]), closed,
    if_neg (by rw [Option.any_some, free]; exact Bool.false_ne_true)]
  rfl

/-- Whether every axis of a take stands at its seek target, at rest. -/
def State.allArrived (s : State) (c : Cue) (k : Take) : Prop :=
  ∀ j : Axis, k.axes.getLsbD j.val = true → ∃ m, (s.channels.get j).moving = some m ∧ m.v = 0 ∧
    m.p = s.takes.pathPosition k j (c.runStart + s.lead j) + (s.channels.get j).trimOffset * 256

theorem arrived_iff (cued : s.play.state = .seeking c ∨ s.play.state = .ready c)
    (closed : s.takes.closedTake c.hold.slot = some k) (j : Axis) :
    s.arrived j = true ↔ ∃ m, (s.channels.get j).moving = some m ∧ m.v = 0 ∧
      m.p = s.takes.pathPosition k j (c.runStart + s.lead j) + (s.channels.get j).trimOffset * 256 := by
  have target : s.seekTarget j = some (s.takes.pathPosition k j (c.runStart + s.lead j) +
      (s.channels.get j).trimOffset * 256) := by
    unfold State.seekTarget State.supplied
    obtain state | state := cued <;> rw [state] <;> dsimp only <;> rw [closed] <;> rfl
  rw [State.arrived, target]
  cases (s.channels.get j).moving with
  | none => simp
  | some m => simp [and_comm]

theorem allArrived_iff (cued : s.play.state = .seeking c ∨ s.play.state = .ready c)
    (closed : s.takes.closedTake c.hold.slot = some k) :
    (axesOf (s.takeAxes c.hold.slot)).all s.arrived = true ↔ s.allArrived c k := by
  rw [takeAxes_of_closed closed, List.all_eq_true]
  exact ⟨fun all j held => (arrived_iff cued closed j).mp (all j (mem_axesOf.mpr held)),
    fun all j mem => (arrived_iff cued closed j).mpr (all j (mem_axesOf.mp mem))⟩

/-- The arrivals judged: the engine alone changes, and tells READY from SEEKING. -/
theorem judgeArrival_cued (cued : s.play.state = .seeking c ∨ s.play.state = .ready c)
    (closed : s.takes.closedTake c.hold.slot = some k) :
    (s.allArrived c k → s.judgeArrival = s.setEngine (.ready c)) ∧
      (¬ s.allArrived c k → s.judgeArrival = s.setEngine (.seeking c)) := by
  have same (e : EngineState) (state : s.play.state = e) : s = s.setEngine e := by rw [← state]; rfl
  rw [← allArrived_iff cued closed]
  unfold State.judgeArrival
  obtain state | state := cued <;> rw [state] <;> dsimp only
  · exact ⟨fun all => if_pos all, fun all => (if_neg all).trans (same _ state)⟩
  · exact ⟨fun all => (if_pos all).trans (same _ state), fun all => if_neg all⟩

theorem judgeEnd_cued (cued : s.play.state = .seeking c ∨ s.play.state = .ready c) : s.judgeEnd = s := by
  unfold State.judgeEnd
  obtain state | state := cued <;> rw [state]

/-- A cue that is not begun is left to the arrivals. -/
theorem begunState_cued (cued : s.play.state = .seeking c ∨ (s.play.state = .ready c ∧ ¬ (c.start = none ∧ c.go = true))) :
    s.begunState = s.play.state := by
  unfold State.begunState
  obtain state | ⟨state, waits⟩ := cued
  · rw [state]
  · rw [state]
    exact if_neg waits

/-- Settles O58: a resume begins a seek from its pause, and an update at which nothing stops the crane tells SEEKING from READY
by the arrivals at its hand-off. -/
theorem pausedTakesAreResumed : Obligations.PausedTakesAreResumed := by
  refine ⟨fun s st tag h e k served right paused level up closed active free clear => ?resume,
    fun s c k quiet level closed cued => ?update⟩
  case resume =>
    have rule := resume_seeks (s := s.afterFrame st) (by rwa [State.afterFrame_holds]) paused level
      (by rwa [State.afterFrame_linkState]) closed active free
    exact ⟨_, request_gives served rfl rule, seekBegun_judged (s := s.afterFrame st) (c := ⟨h, none, false, e⟩) closed clear⟩
  case update =>
    obtain ⟨b, u, q⟩ := quietUpdate quiet (by omega)
    obtain ⟨v, recorded⟩ : ∃ v, u.recordUpdate = v := ⟨_, rfl⟩
    have play : v.play = s.play := by rw [← recorded, recordUpdate_play, q.play, begunState_cued cued]
    have vCued : v.play.state = .seeking c ∨ v.play.state = .ready c := by
      rw [play]
      exact cued.imp_right And.left
    have vClosed : v.takes.closedTake c.hold.slot = some k := by
      rw [← recorded]
      exact State.recordUpdate_slots u _ k (by rw [q.takes]; exact closed)
    have lead (j : Axis) : v.lead j = s.lead j := by rw [← recorded, recordUpdate_lead, q.lead quiet]
    have judged := judgeArrival_cued vCued vClosed
    refine ⟨_, q.run, fun arrived means => ?_⟩
    rw [recorded] at means ⊢
    obtain ⟨x, engine, state⟩ : ∃ x, v.judgeArrival = v.setEngine x ∧ (x = .seeking c ∨ x = .ready c) := by
      by_cases all : v.allArrived c k
      · exact ⟨_, judged.1 all, .inr rfl⟩
      · exact ⟨_, judged.2 all, .inl rfl⟩
    rw [engine, judgeEnd_cued (s := v.setEngine x) state] at means ⊢
    rw [countReport_channels, countReport_takes] at means
    have same : arrived ↔ v.allArrived c k := means.trans (by
      unfold State.allArrived
      simp only [lead]
      rfl)
    rw [countReport_play, ← engine, same]
    refine ⟨fun all => ?_, fun not => ?_⟩
    · rw [judged.1 all, ← play]; rfl
    · rw [judged.2 not, ← play]; rfl

end Arrivals

/-! ### The end of a take (O59) -/

section Ends

variable {s : State} {k : Take} {h : Hold} {e : Nat}

theorem atEnd_closed (closed : s.takes.closedTake h.slot = some k) :
    s.atEnd h e = true ↔ ∀ j : Axis, k.axes.getLsbD j.val = true → (k.count - 1) * k.divisor ≤ e + s.lead j := by
  rw [State.atEnd, closed, List.all_eq_true]
  exact ⟨fun all j held => of_decide_eq_true (all j (mem_axesOf.mpr held)),
    fun all j mem => decide_eq_true (all j (mem_axesOf.mp mem))⟩

theorem judgeEnd_atEnd (running : s.play.state = .running h e) (ends : s.atEnd h e = true) :
    s.judgeEnd = (s.haltAxes (s.takeAxes h.slot)).endPlay h .atEnd (some e) := by
  rw [State.judgeEnd, running]
  exact if_pos ends

theorem haltAxes_moving {axes : AxisSet} {j : Axis} {m : Moving} (held : axes.getLsbD j.val = true)
    (moving : ((s.haltAxes axes).channels.get j).moving = some m) : m.v = 0 := by
  rw [State.haltAxes, Tab.get_imap, if_pos held] at moving
  obtain ⟨m', -, rfl⟩ := Option.map_eq_some_iff.mp moving
  rfl

theorem zeroTarget_moving {c : AxisChannel} {m : Moving} (moving : c.zeroTarget.moving = some m) :
    m.target = .velocity 0 ∧ ∃ m', c.moving = some m' ∧ m'.v = m.v := by
  obtain ⟨m', was, rfl⟩ := Option.map_eq_some_iff.mp moving
  exact ⟨rfl, m', was, rfl⟩

/-- Settles O59: STOP_PLAY, ABANDON and the last sample end the playback in the one way of `endPlay_ended`. -/
theorem takesAreGivenUp : Obligations.TakesAreGivenUp := by
  refine ⟨fun s st tag h elapsed c code why served right which => ?request,
    fun s h e k quiet level running notTaken closed atLast => ?update⟩
  case request =>
    have right' : (s.afterFrame st).holds st .play = true := by rwa [State.afterFrame_holds]
    obtain ⟨rfl, rfl, rfl, held⟩ | ⟨rfl, rfl, rfl, e, rfl, paused⟩ := which
    · exact ⟨_, request_gives served rfl (stopPlay_ends right' held), ended_and_answered (endPlay_ended ..)⟩
    · exact ⟨_, request_gives served rfl (abandon_ends right' paused), ended_and_answered (endPlay_ended ..)⟩
  case update =>
    obtain ⟨b, u, q⟩ := quietUpdate quiet (by omega)
    obtain ⟨v, recorded⟩ : ∃ v, u.recordUpdate = v := ⟨_, rfl⟩
    have state : s.begunState = .running h (e + 1) := by
      rw [State.begunState, running, notTaken]
      rfl
    have play : v.play = { s.play with state := .running h (e + 1) } := by
      rw [← recorded, recordUpdate_play, q.play, state]
    have runs : v.play.state = .running h (e + 1) := congrArg Engine.state play
    have vClosed : v.takes.closedTake h.slot = some k := by
      rw [← recorded]
      exact State.recordUpdate_slots u _ k (by rw [q.takes]; exact closed)
    have ends : v.atEnd h (e + 1) = true := (atEnd_closed vClosed).mpr fun j held => by
      rw [← recorded, recordUpdate_lead, q.lead quiet]
      exact atLast j held
    have axes : v.takeAxes h.slot = k.axes := takeAxes_of_closed vClosed
    have link (o : Station) : v.linkState o = s.linkState o := by
      rw [← recorded, (State.recordUpdate_frame u).2, q.linkState]
    have owner (j : Axis) : (v.auth.get j).owner = (s.auth.get j).owner := by
      rw [← recorded, recordUpdate_auth, q.owner]
    have ended := endPlay_ended (v.haltAxes k.axes) h .atEnd (some (e + 1))
    have whole : u.recordUpdate.judgeArrival.judgeEnd = (v.haltAxes k.axes).endPlay h .atEnd (some (e + 1)) := by
      rw [recorded, judgeArrival_running runs, judgeEnd_atEnd runs ends, axes]
    obtain ⟨t, isEnd⟩ : ∃ t, (v.haltAxes k.axes).endPlay h .atEnd (some (e + 1)) = t := ⟨_, rfl⟩
    rw [isEnd] at ended whole
    have halted : (v.haltAxes k.axes).takeAxes h.slot = k.axes := axes
    refine ⟨_, q.run, ?_, fun j held => ⟨fun o owns up => ?_, fun down => ?_, ?_⟩, fun few up => ?_⟩ <;> rw [whole]
    · rw [countReport_play, ended.play]
      show ({ v.play with state := .idle } : Engine) = _
      rw [play]
    · rw [countReport_auth, ended.auth, halted, if_pos held]
      exact returned_up (s := v.haltAxes k.axes) ((owner j).trans owns) ((link o).trans up)
    · rw [countReport_auth, ended.auth, halted, if_pos held]
      exact returned_down (s := v.haltAxes k.axes) fun o owns => by
        show v.linkState o ≠ .up
        rw [link]
        exact down o ((owner j).symm.trans owns)
    · have low : (v.haltAxes k.axes).stop.level ≤ 2 := by
        show v.stop.level ≤ 2
        rw [← recorded, recordUpdate_stop, q.level]
        omega
      have channel := ended.channels low j
      rw [halted, if_pos held] at channel
      rw [countReport_channels, channel]
      refine ⟨rfl, rfl, fun m moving => ?_⟩
      obtain ⟨target, m', was, same⟩ := zeroTarget_moving (c := (v.haltAxes k.axes).channels.get j) moving
      exact ⟨same ▸ haltAxes_moving held was, target⟩
    · have count : t.reportCount = s.reportCount := by
        rw [ended.frame]
        show v.reportCount = _
        rw [← recorded, recordUpdate_reportCount, q.reportCount]
      rw [(State.countReport_frame t).2.2 (by omega)]
      exact ended.notice ((link _).trans up)

end Ends

end Sys2Proof.Machine
end

section
/-! A timed start judged, and the update at which a take begins or runs (O21). -/

namespace Sys2Proof.Machine

/-! ### A timed start (R175, R176) -/

section Start

variable {s : State} {c : Cue} {x : Time}

theorem startDue_eq (timed : c.start = some x) (come : x.toNat ≤ s.time.now.toNat) : s.startDue c = true := by
  rw [State.startDue, timed]
  exact decide_eq_true come

/-- What a failed cue leaves. -/
theorem failCue_failed (s : State) (c : Cue) (why : CueFail) :
    (s.failCue c why).play = { s.play with state := .idle } ∧
      (s.linkState c.hold.station = .up →
        ((s.failCue c why).links.get c.hold.station).notices.cueFailed = some (c.hold.slot, why)) ∧
      (∀ j : Axis, (s.takeAxes c.hold.slot).getLsbD j.val = true → ((s.failCue c why).mode j).underTake = false) ∧
      s.ChangedByAStop (s.failCue c why) := by
  obtain ⟨u, posted⟩ : ∃ u, ((s.dropTake c.hold).post c.hold.station fun n =>
      { n with cueFailed := some (c.hold.slot, why) }) = u := ⟨_, rfl⟩
  have play : u.play = { s.play with state := .idle } := by rw [← posted, State.post_play]; rfl
  obtain ⟨auth', play', -, notices'⟩ := judgeZones_stopped (s := u) (view := fun n => n.cueFailed)
    ⟨fun _ _ => rfl, fun _ _ => rfl⟩ (.inl (congrArg Engine.state play))
  have failed : s.failCue c why = u.judgeZones := by rw [← posted]; rfl
  rw [failed]
  refine ⟨play'.trans play, fun up => ?_, fun j held => ?_, judgeZones_changedByAStop ?_⟩
  · rw [notices', ← posted, post_link, if_pos ⟨rfl, up⟩]
  · have returned : u.auth.get j = (s.auth.get j).returned (s.ownerUp (s.auth.get j)) := by
      rw [← posted, State.post_auth]
      exact (Tab.get_imap ..).trans (if_pos held)
    rw [State.mode, auth', returned]
    exact (returned_fits s).2
  · rw [← posted, post_eq]
    rfl

theorem beganRun_idle (idle : s.play.state = .idle) (t : State) : s.beganRun t = false := by
  rw [State.beganRun, idle]
  split
  · rename_i running; exact nomatch running
  · rfl

/-- A timed start that fails its cue is no run begun ahead of its update. -/
theorem timedStart_fails {why : CueFail} (awake : s.sysreset = false) (judged : s.judgeStart = s.failCue c why) :
    exec .timedStart s = .next (s.failCue c why) := by
  show execTimedStart s = _
  rw [execTimedStart, awake_next _ awake]
  dsimp only
  rw [judged, beganRun_idle (congrArg Engine.state (failCue_failed s c why).1), if_neg Bool.false_ne_true]

theorem timedStart_begins (awake : s.sysreset = false) (ready : s.play.state = .ready c) (due : s.startDue c = true)
    (go : c.go = true) : exec .timedStart s = .next { s.beginRunning c with taken := { s.taken with running := true } } := by
  have judged : s.judgeStart = s.beginRunning c := by rw [State.judgeStart, ready]; dsimp only; rw [due, go]; rfl
  show execTimedStart s = _
  rw [execTimedStart, awake_next _ awake]
  dsimp only
  rw [judged, State.beganRun, ready]
  rfl

end Start

/-! ### The step along the path (R17, R178) -/

section Path

variable {s : State} {j : Axis} {m : Moving} {lim : Limits} {x : Int}

theorem supplyTargets_path (playback : s.mode j = .playback) (supplied : s.supplied j = some x)
    (moving : (s.channels.get j).moving = some m) : s.supplyTargets.channels.get j =
      { s.channels.get j with moving := some { m with target := .path x } } := by
  rw [State.supplyTargets, Tab.get_imap, moving, supplied]
  dsimp only
  rw [if_neg (by rw [playback]; exact nofun), if_pos playback]

theorem moveTrims_channel (s : State) (j : Axis) : (s.moveTrims.channels.get j).moving = (s.channels.get j).moving ∧
    (s.moveTrims.channels.get j).limits = (s.channels.get j).limits := by
  rw [State.moveTrims, Tab.get_imap]
  split
  · split <;> exact ⟨rfl, rfl⟩
  · exact ⟨rfl, rfl⟩

theorem moveTrims_supplied (s : State) (j : Axis) : s.moveTrims.supplied j = s.supplied j := by
  have lead : s.moveTrims.lead j = s.lead j := by
    unfold State.lead State.limits
    rw [(moveTrims_channel s j).2]
  unfold State.supplied
  rw [lead]
  rfl

/-- A step that ends inside the limits is not shortened. -/
theorem insideLimits_inside {p v : Int} (low : lim.low * 256 ≤ p + v) (high : p + v ≤ lim.high * 256) :
    insideLimits p lim v = v := by
  unfold insideLimits ofCount
  split <;> omega

/-- With no zone active, an axis that follows its path stands on it, with its trim, within its limits. -/
theorem generate_onPath (inactive : ∀ z, (s.zone z).active = false) (playback : s.mode j = .playback)
    (clear : s.generator.held = false) (supplied : s.supplied j = some x) (moving : (s.channels.get j).moving = some m)
    (limits : (s.channels.get j).limits = some lim) (order : lim.low ≤ lim.high) :
    ∃ m', (s.generate.channels.get j).moving = some m' ∧
      m'.p = clamp (lim.low * 256) (lim.high * 256) (x + (s.generate.channels.get j).trimOffset * 256) := by
  obtain ⟨-, -, trim, -, moves⟩ := State.generate_channel s inactive j
  obtain ⟨target, m0, moving0, p0, -, -, after⟩ := moves m moving
  obtain ⟨trimMoving, trimLimits⟩ := moveTrims_channel s j
  have channel := supplyTargets_path (s := s.moveTrims) playback ((moveTrims_supplied s j).trans supplied)
    (trimMoving.trans moving)
  obtain ⟨c, isChannel⟩ : ∃ c, s.moveTrims.supplyTargets.channels.get j = c := ⟨_, rfl⟩
  have onPath : c.moving = some { m with target := .path x } := by rw [← isChannel, channel]
  have offset : c.trimOffset = (s.generate.channels.get j).trimOffset := by rw [trim, ← isChannel, channel]
  have limits0 : c.limits = some lim := by rw [← isChannel, channel]; exact trimLimits.trans limits
  obtain ⟨goal, isGoal⟩ : ∃ g, clamp (lim.low * 256) (lim.high * 256)
    (x + (s.generate.channels.get j).trimOffset * 256) = g := ⟨_, rfl⟩
  have inside : lim.low * 256 ≤ goal ∧ goal ≤ lim.high * 256 := by rw [← isGoal, clamp]; omega
  have follows : followsPath (s.auth.get j) s.generator.held = true := by
    rw [followsPath, clear, show (s.auth.get j).mode = .playback from playback]
    rfl
  have candidate : s.moveTrims.supplyTargets.candidate j = some (goal - m.p) := by
    rw [State.candidate, isChannel, onPath, limits0]
    dsimp only
    rw [show followsPath (s.moveTrims.supplyTargets.auth.get j) s.moveTrims.supplyTargets.generator.held = true from follows,
      if_pos rfl, pathCandidate, offset, ← isGoal]
    rfl
  have step := (State.generate_quiet s inactive).2 j
  rw [isChannel, onPath, limits0, candidate, follows] at step
  dsimp only at step
  rw [if_pos rfl, insideLimits_inside (by omega) (by omega)] at step
  rw [step] at after
  refine ⟨_, after, ?_⟩
  dsimp only
  rw [isGoal]
  omega

end Path

/-! ### The update -/

section Update

variable {s b u : State} {h : Hold} {e : Nat} {k : Take} {j : Axis}

theorem begun_engine {b : State} {x : Option Nat}
    (begun : b = (({ s with stop := { s.stop with haltTimer := x } } : State).engineBegin).dropTaken) :
    (∀ c, s.play.state = .ready c → c.start = none → c.go = true → b.auth = (s.beginRunning c).auth) ∧
      ∀ h n, s.play.state = .running h n → b.auth = s.auth := by
  refine ⟨fun c ready untimed go => ?_, fun h n running => ?_⟩
  · rw [begun, State.engineBegin, show (({ s with stop := { s.stop with haltTimer := x } } : State)).play.state = _ from ready]
    dsimp only
    rw [if_pos ⟨untimed, go⟩]
    rfl
  · rw [begun, State.engineBegin, show (({ s with stop := { s.stop with haltTimer := x } } : State)).play.state = _ from running]
    dsimp only
    split <;> rfl

theorem beginRunning_mode {c : Cue} (closed : s.takes.closedTake c.hold.slot = some k) (held : k.axes.getLsbD j.val = true) :
    ((s.beginRunning c).auth.get j).mode = .playback := by
  have axes : (s.setEngine (.running c.hold c.runStart)).takeAxes c.hold.slot = k.axes := takeAxes_of_closed closed
  rw [State.beginRunning, State.setModes]
  refine (congrArg AuthEntry.mode (Tab.get_imap ..)).trans ?_
  rw [show s.takeAxes c.hold.slot = k.axes from axes, if_pos held]

/-- Before the recorder, an axis of a take that runs stands on its path. -/
theorem QuietUpdate.onPath {m : Moving} {lim : Limits} (q : QuietUpdate s b u) (quiet : s.Quiet)
    (clear : s.generator.held = false) (running : s.begunState = .running h e)
    (closed : s.takes.closedTake h.slot = some k) (playback : b.mode j = .playback)
    (moving : (s.channels.get j).moving = some m) (limits : s.limits j = some lim) (order : lim.low ≤ lim.high) :
    ∃ m', (u.channels.get j).moving = some m' ∧ m'.p = clamp (lim.low * 256) (lim.high * 256)
      (s.takes.pathPosition k j (e + s.lead j) + (u.channels.get j).trimOffset * 256) := by
  obtain ⟨awake, -, inactive, -, -, early⟩ := quiet
  obtain ⟨x, begun⟩ := q.begun
  have play : b.play.state = .running h e := by
    rw [begun]
    refine (congrArg Engine.state (engineBegin_play (s := { s with stop := { s.stop with haltTimer := x } }) early)).trans ?_
    exact running
  have supplied : b.supplied j = some (s.takes.pathPosition k j (e + s.lead j)) := by
    rw [State.supplied, play]
    dsimp only
    rw [q.frame]
    dsimp only
    rw [closed]
    rfl
  obtain ⟨m', moves, stands⟩ := generate_onPath (s := b) (fun z => by rw [q.frame]; exact inactive z) playback
    (by rw [q.frame]; exact clear) supplied (by rw [q.frame]; exact moving) (by rw [q.frame]; exact limits) order
  obtain ⟨f, channel⟩ := q.channel j
  refine ⟨{ m' with target := f m'.target }, ?_, ?_⟩
  · rw [channel, moves]
    rfl
  · rw [channel]
    exact stands

/-- Settles O21: a timed start that is due begins its take or fails its cue, and the update at which a take begins or runs has
each axis on its path. -/
theorem timedStartIsJudged : Obligations.TimedStartIsJudged := by
  refine ⟨fun s c x awake timed come => ⟨fun ready go => ?begins, fun why which => ?fails⟩,
    fun s h e k quiet level clear closed which notLast => ?update⟩
  case begins =>
    refine ⟨_, timedStart_begins awake ready (startDue_eq timed come) go, rfl, fun j => ?_, rfl⟩
    exact Tab.get_imap ..
  case fails =>
    have due := startDue_eq timed come
    have judged : s.judgeStart = s.failCue c why := by
      unfold State.judgeStart
      obtain ⟨state, noGo, rfl⟩ | ⟨state, rfl⟩ := which <;> rw [state] <;> dsimp only <;> rw [due]
      · rw [noGo]; rfl
      · rfl
    exact ⟨_, timedStart_fails awake judged, failCue_failed s c why⟩
  case update =>
    obtain ⟨b, u, q⟩ := quietUpdate quiet (by omega)
    obtain ⟨x, begun⟩ := q.begun
    have runs : s.begunState = .running h e := by
      unfold State.begunState
      obtain ⟨c, ready, untimed, go, rfl, rfl⟩ | ⟨n, running, notTaken, rfl, -⟩ := which
      · rw [ready]; exact if_pos ⟨untimed, go⟩
      · rw [running, notTaken]; rfl
    have playback (j : Axis) (held : k.axes.getLsbD j.val = true) : b.mode j = .playback := by
      obtain ⟨c, ready, untimed, go, rfl, rfl⟩ | ⟨n, running, -, -, already⟩ := which
      · rw [State.mode, (begun_engine (s := s) begun).1 c ready untimed go]
        exact beginRunning_mode closed held
      · rw [State.mode, (begun_engine (s := s) begun).2 h n running]
        exact already j held
    obtain ⟨v, recorded⟩ : ∃ v, u.recordUpdate = v := ⟨_, rfl⟩
    have play : v.play = { s.play with state := .running h e } := by
      rw [← recorded, recordUpdate_play, q.play, runs]
    have state : v.play.state = .running h e := congrArg Engine.state play
    have vClosed : v.takes.closedTake h.slot = some k := by
      rw [← recorded]
      exact State.recordUpdate_slots u _ k (by rw [q.takes]; exact closed)
    have goesOn : v.judgeArrival.judgeEnd = v := by
      have notEnd : ¬ v.atEnd h e = true := fun ends => by
        obtain ⟨j, held, before⟩ := notLast
        have last := (atEnd_closed vClosed).mp ends j held
        rw [← recorded, recordUpdate_lead, q.lead quiet] at last
        omega
      rw [judgeArrival_running state, State.judgeEnd, state]
      exact if_neg notEnd
    refine ⟨_, q.run, ?_, fun j held => ⟨?_, ?_, fun m lim moving limits order => ?_⟩⟩ <;> rw [recorded, goesOn]
    · rw [countReport_play, play]
    · rw [State.mode, countReport_auth, ← recorded, recordUpdate_auth]
      exact (q.mode j).trans (playback j held)
    · rw [countReport_auth, ← recorded, recordUpdate_auth]
      exact q.owner j
    · rw [countReport_channels, ← recorded, recordUpdate_channels]
      exact q.onPath quiet clear runs closed (playback j held) moving limits order

end Update

end Sys2Proof.Machine
end

section
/-! The recorder (O52): RECORD, RECORD_STOP, DELETE and PROTECT, and the sample that an update stores. -/

namespace Sys2Proof.Machine

/-! ### A recording closed (R153, R154) -/

section Close

variable {s : State} {r : Recorder} {k : Take} {reason : CloseReason}

/-- The Take Store once a recording has closed. -/
def TakeStore.afterClose (ts : TakeStore) (r : Recorder) (k : Take) (reason : CloseReason) : TakeStore :=
  if 2 ≤ k.count then { ts with slots := ts.slots.set r.slot (.closed k reason), recorder := none }
  else { ts with slots := ts.slots.set r.slot .empty, recorder := none, freeList := ts.freeList ++ k.blocks }

theorem closeTake_recording (records : s.takes.recorder = some r) (recording : s.takes.slots.get r.slot = .recording k) :
    s.closeTake reason = ({ s with takes := s.takes.afterClose r k reason } : State).post r.station fun n =>
      { n with recordClosed := some (r.slot, k.count, if 2 ≤ k.count then some reason else none) } := by
  rw [State.closeTake, records]
  dsimp only
  rw [recording]
  unfold TakeStore.afterClose
  dsimp only
  split <;> rfl

theorem closeTake_takes (records : s.takes.recorder = some r) (recording : s.takes.slots.get r.slot = .recording k) :
    (s.closeTake reason).takes = s.takes.afterClose r k reason := by
  rw [closeTake_recording records recording, State.post_takes]

end Close

/-! ### The requests -/

section Requests

variable {s : State} {st : Station} {i : TakeNo} {k : Take} {reason : CloseReason}

theorem recordVerdict_none {w : BitVec 16} {n : Nat} {label : Tab 8 Byte} (right : s.holds st .take = true)
    (nonempty : w ≠ 0) (inRange : w.toNat < 1024) (divisor : n ∈ [1, 2, 4, 8])
    (printed : ∀ b ∈ label.list, 32 ≤ b.toNat ∧ b.toNat ≤ 126) (level : s.stop.level = 0)
    (idle : s.takes.recorder = none) (slot : s.takes.lowestEmpty = some i) (free : s.takes.freeList ≠ [])
    (active : ∀ j : Axis, (w.setWidth 10).getLsbD j.val = true → s.driveState j = .active) :
    s.recordVerdict st w n label = none := by
  have text : (label.list.any fun b => decide (b.toNat < 32) || decide (126 < b.toNat)) = false :=
    List.any_eq_false.mpr fun b mem => by
      obtain ⟨low, high⟩ := printed b mem
      simp [low, high]
  have ready : ((axesOf (w.setWidth 10)).any fun j => decide (s.driveState j ≠ .active)) = false :=
    any_axesOf_false fun j held => decide_eq_false (not_not_intro (active j held))
  rw [State.recordVerdict, right, badSet_false nonempty inRange, text, level, idle, slot, ready]
  simp [divisor, free]

theorem deleteTake_closed (right : s.holds st .take = true) (closed : s.takes.slots.get i = .closed k reason)
    (unprotected : k.isProtected = false) (unheld : s.play.state.heldSlot ≠ some i) (unsaved : s.saving i = false) :
    s.deleteTake st i.val = ({ s with takes := { s.takes with
      slots := s.takes.slots.set i .empty, freeList := s.takes.freeList ++ k.blocks } }, ⟨.ok, []⟩) := by
  rw [State.deleteTake, if_neg (by rw [right]; exact nofun), slotOf_val]
  dsimp only
  rw [closed]
  dsimp only
  rw [unprotected, if_neg Bool.false_ne_true, if_neg unheld, unsaved, if_neg Bool.false_ne_true]

theorem protectTake_closed {v : Bool} (right : s.holds st .take = true) (closed : s.takes.slots.get i = .closed k reason) :
    s.protectTake st i.val v = (s.setSlot i (.closed { k with isProtected := v } reason), ⟨.ok, []⟩) := by
  rw [State.protectTake, if_neg (by rw [right]; exact nofun), slotOf_val]
  dsimp only
  rw [closed]

end Requests

/-! ### The hand-off after the recorder -/

section HandOff

variable {s t b u : State} {h : Hold} {e : Nat}

theorem judgeArrival_eq (s : State) : ∃ x, s.judgeArrival = s.setEngine x ∧
    ∀ h e, x = .running h e → s.play.state = .running h e := by
  have same (x : EngineState) (state : s.play.state = x) : s = s.setEngine x := by rw [← state]; rfl
  unfold State.judgeArrival
  cases state : s.play.state with
  | seeking c =>
    dsimp only
    split
    · exact ⟨_, rfl, nofun⟩
    · exact ⟨_, same _ state, nofun⟩
  | ready c =>
    dsimp only
    split
    · exact ⟨_, same _ state, nofun⟩
    · exact ⟨_, rfl, nofun⟩
  | idle => exact ⟨_, same _ state, nofun⟩
  | running h e => exact ⟨_, same _ state, fun _ _ is => is⟩
  | paused h e => exact ⟨_, same _ state, nofun⟩

theorem judgeEnd_stays (stays : ∀ h e, s.play.state = .running h e → s.atEnd h e = false) : s.judgeEnd = s := by
  unfold State.judgeEnd
  cases state : s.play.state with
  | running h e => exact if_neg (by rw [stays h e state]; exact Bool.false_ne_true)
  | seeking c => rfl
  | ready c => rfl
  | idle => rfl
  | paused h e => rfl

/-- Where no take comes to its end, arrivals and ends leave the Take Store and the channels. -/
theorem judged_stays (stays : ∀ h e, s.play.state = .running h e → s.atEnd h e = false) :
    s.judgeArrival.judgeEnd.countReport.takes = s.takes ∧ s.judgeArrival.judgeEnd.countReport.channels = s.channels := by
  obtain ⟨x, engine, runs⟩ := judgeArrival_eq s
  have kept : (s.setEngine x).judgeEnd = s.setEngine x := judgeEnd_stays fun h e state => stays h e (runs h e state)
  rw [engine, kept, countReport_takes, countReport_channels]
  exact ⟨rfl, rfl⟩

theorem raiseOnce_takes_idle (idle : s.takes.recorder = none) (c : Cause) (l : Nat) : (s.raiseOnce c l).takes = s.takes := by
  have known : ((s.takeRaise c l).generatorOnRaise).engineOnRaise.takes = s.takes :=
    (engineOnRaise_takes _).trans (madeKnown_frame s c l).2.2.1
  show ((((s.takeRaise c l).generatorOnRaise).engineOnRaise).closeTake .interrupted).takes = s.takes
  rw [closeTake_idle (by rw [known]; exact idle), known]

theorem judgeZones_takes_idle (idle : s.takes.recorder = none) : s.judgeZones.takes = s.takes :=
  State.judgeZones_keeps (P := fun t => t.takes = s.takes) (fun _ same => same)
    (fun t z b same => (State.modZone_takes t z _).trans same)
    (fun t z same => (raiseOnce_takes_idle (by rw [same]; exact idle) _ _).trans same) rfl

/-- With the recorder IDLE the end of a take leaves the Take Store. -/
theorem judged_idle (idle : s.takes.recorder = none) : s.judgeArrival.judgeEnd.countReport.takes = s.takes := by
  obtain ⟨x, engine, -⟩ := judgeArrival_eq s
  rw [countReport_takes, engine, State.judgeEnd]
  split
  · split
    · exact (judgeZones_takes_idle (by rw [State.post_takes]; exact idle)).trans (State.post_takes ..)
    · rfl
  all_goals rfl

theorem atEnd_congr (closed : ∀ i, t.takes.closedTake i = s.takes.closedTake i) (lead : ∀ j, t.lead j = s.lead j) :
    t.atEnd h e = s.atEnd h e := by
  unfold State.atEnd
  simp only [closed, lead]

/-- Before the recorder no take has come to its end. -/
theorem QuietUpdate.stays (q : QuietUpdate s b u) (quiet : s.Quiet) (keeps : s.KeepsRunning) :
    ∀ h e, u.play.state = .running h e → u.atEnd h e = false := by
  intro h e running
  have early := quiet.2.2.2.2.2
  have state : s.engineBegin.play.state = .running h e := by
    rw [engineBegin_play early, ← running, q.play]
  rw [← keeps h e state]
  obtain ⟨frame, -⟩ := State.engineBegin_quiet s early
  refine atEnd_congr (fun i => ?_) fun j => ?_
  · rw [q.takes, frame]
  · rw [q.lead quiet, frame]
    rfl

end HandOff

/-! ### The sample of an update (R148, R149) -/

section Sample

variable {s t : State} {r : Recorder} {k : Take} {blocks free : List Nat} {vals : Tab 10 Int} {j : Axis}

theorem recordUpdate_waits (recording : s.takes.recordingTake = some (r, k)) (waits : 0 < r.toNext) :
    s.recordUpdate = { s with takes := { s.takes with recorder := some { r with toNext := r.toNext - 1 } } } := by
  rw [State.recordUpdate, recording]
  exact if_pos waits

theorem recordUpdate_due (recording : s.takes.recordingTake = some (r, k)) (due : r.toNext = 0) :
    s.recordUpdate = s.storeSample r k := by
  rw [State.recordUpdate, recording]
  exact if_neg (by omega)

theorem storeSample_full (none : drawBlock k.count (setSize k.axes) k.blocks s.takes.freeList = none) :
    s.storeSample r k = s.closeTake .full := by
  rw [State.storeSample, none]

theorem storeSample_stored (drawn : drawBlock k.count (setSize k.axes) k.blocks s.takes.freeList = some (blocks, free)) :
    s.storeSample r k = { s with takes :=
      { values := writeSample s.takes.values k.axes blocks k.count s.sampleValues
        freeList := free
        slots := s.takes.slots.set r.slot (.recording
          { k with count := k.count + 1, blocks := blocks, data := some (s.dataWith k s.sampleValues) })
        recorder := some { r with toNext := k.divisor - 1 } } } := by
  rw [State.storeSample, drawn]

theorem drawBlock_some {q n : Nat}
    (draws : (q % (1024 / n) = 0 ∧ ∃ b, s.takes.freeList = b :: free ∧ blocks = k.blocks ++ [b]) ∨
      (q % (1024 / n) ≠ 0 ∧ blocks = k.blocks ∧ free = s.takes.freeList)) :
    drawBlock q n k.blocks s.takes.freeList = some (blocks, free) := by
  unfold drawBlock perBlock
  obtain ⟨full, b, list, rfl⟩ | ⟨room, rfl, rfl⟩ := draws
  · rw [if_pos full, list]
  · exact if_neg room

theorem sampleValues_moving {m : Moving} (moving : (s.channels.get j).moving = some m) : s.sampleValues.get j = m.p := by
  rw [State.sampleValues, Tab.get_map, moving]

/-- The data of a take at its first sample. -/
theorem dataWith_first (first : k.count = 0) :
    (s.dataWith k vals).recordedAt = s.time.now ∧
      (∀ l : Lens, k.axes.getLsbD (lensAxis l).val = true →
        (s.dataWith k vals).lens.get l = some (.value (s.maps.get l).generation)) ∧
      ∀ j : Axis, k.axes.getLsbD j.val = true → (s.dataWith k vals).first.get j = vals.get j ∧
        (s.dataWith k vals).envelope.get j = ⟨vals.get j, vals.get j, 0, 0⟩ := by
  refine ⟨?_, fun l held => ?_, fun j held => ⟨?_, ?_⟩⟩
  · exact if_pos first
  · rw [State.dataWith]
    dsimp only
    rw [if_pos first, State.lensGens, Tab.get_ofFn, if_pos held]
  · rw [State.dataWith]
    dsimp only
    rw [if_pos first, Tab.get_ofFn, if_pos held]
  · rw [State.dataWith]
    dsimp only
    rw [Tab.get_ofFn, if_pos held, first]
    rfl

/-- The data of a take at a later sample. -/
theorem dataWith_later {old : TakeData} (later : 0 < k.count) (data : k.data = some old) :
    s.dataWith k vals = { old with envelope := (s.dataWith k vals).envelope } ∧
      ∀ (j : Axis) x s1 s2, k.axes.getLsbD j.val = true → x = vals.get j →
        s1 = s.takes.sample k (k.count - 1) j → s2 = s.takes.sample k (k.count - 2) j →
        (s.dataWith k vals).envelope.get j =
          ⟨min (old.envelope.get j).minimum x, max (old.envelope.get j).maximum x,
            max (old.envelope.get j).velocity (((x - s1).natAbs + k.divisor - 1) / k.divisor),
            if k.count < 2 then 0
            else max (old.envelope.get j).stepChange
              ((((x - s1) - (s1 - s2)).natAbs + k.divisor - 1) / k.divisor)⟩ := by
  have notFirst : ¬ k.count = 0 := by omega
  refine ⟨?_, ?_⟩
  · unfold State.dataWith
    rw [data]
    simp only [if_neg notFirst, Option.getD_some]
  · rintro j _ _ _ held rfl rfl rfl
    rw [State.dataWith, data]
    dsimp only
    rw [Tab.get_ofFn, if_pos held, Option.getD_some, Envelope.takeIn, if_neg notFirst, if_neg notFirst, if_neg notFirst]
    rfl

/-- Settles O52: each request by its rule, and the update by the recorder's three cases: waiting, no block left, and stored. -/
theorem takesAreRecordedAndKept : Obligations.TakesAreRecordedAndKept := by
  refine ⟨fun s st tag p served right => ⟨?record, ?recordStop, ?delete, ?protect⟩,
    fun s r k quiet keeps level recording => ?update⟩
  case record =>
    rintro w n label i _ decodes rfl nonempty inRange divisor printed level idle empty lowest free active
    have slot : s.takes.lowestEmpty = some i := lowestEmpty_eq empty lowest
    have run := request_taken (code := 27) (tag := tag) (detail := []) (a := (w, n, label))
      (verdict := fun a t => t.recordVerdict st a.1 a.2.1 a.2.2)
      (taken := fun a t => t.recordTaken st (a.1.setWidth 10) a.2.1 a.2.2) served decodes
      (recordVerdict_none (s := s.afterFrame st) (by rwa [State.afterFrame_holds]) nonempty inRange divisor printed level idle
        slot free active)
    have taken : (s.afterFrame st).recordTaken st (w.setWidth 10) n label = { s.afterFrame st with takes := { s.takes with
        slots := s.takes.slots.set i (.recording ⟨label, w.setWidth 10, n, 0, [], none, s.originNow, false⟩)
        recorder := some ⟨i, st, 0⟩ } } := by
      rw [State.recordTaken, show (s.afterFrame st).takes.lowestEmpty = _ from slot]
      rfl
    rw [taken] at run
    exact run
  case recordStop =>
    rintro r k rfl records recording
    have run := request_taken (code := 28) (tag := tag) (detail := []) (a := ()) (decode := noArgs)
      (verdict := fun _ t => t.recordStopVerdict st) (taken := fun _ t => t.closeTake .stopped) served rfl (by
        rw [State.recordStopVerdict, if_neg (by rw [State.afterFrame_holds, right]; exact nofun),
          show (s.afterFrame st).takes.recorder = _ from records]
        exact if_neg nofun)
    have takes := closeTake_takes (s := s.afterFrame st) (reason := .stopped) records recording
    refine ⟨_, run, fun many => takes.trans (if_pos many), fun few => takes.trans (if_neg (by omega)), fun up => ?_,
      closeTake_eq ..⟩
    rw [closeTake_recording (s := s.afterFrame st) records recording, post_link,
      if_pos ⟨rfl, (State.afterFrame_linkState s st r.station).trans up⟩]
  case delete =>
    intro i k reason decodes closed unprotected unheld unsaved
    exact request_gives served decodes (deleteTake_closed (s := s.afterFrame st) (by rwa [State.afterFrame_holds]) closed
      unprotected unheld unsaved)
  case protect =>
    intro i k reason v decodes closed
    exact request_gives served decodes (protectTake_closed (s := s.afterFrame st) (by rwa [State.afterFrame_holds]) closed)
  case update =>
    obtain ⟨b, u, q⟩ := quietUpdate quiet (by omega)
    have stays := q.stays quiet keeps
    obtain ⟨records, slot⟩ := recordingTake_eq_some.mp recording
    rw [← q.takes] at recording records slot
    have goesOn (v : State) (is : u.recordUpdate = v) (closed : ∀ i, v.takes.closedTake i = u.takes.closedTake i) :
        u.recordUpdate.judgeArrival.judgeEnd.countReport.takes = v.takes ∧
          u.recordUpdate.judgeArrival.judgeEnd.countReport.channels = u.channels := by
      subst is
      obtain ⟨takes, channels⟩ := judged_stays (s := u.recordUpdate) fun h e running => by
        rw [recordUpdate_play] at running
        rw [atEnd_congr closed fun j => recordUpdate_lead j]
        exact stays h e running
      exact ⟨takes, channels.trans recordUpdate_channels⟩
    refine ⟨_, q.run, fun waits => ?waits, fun due full empty => ?full, fun blocks free due draws => ?stored⟩
    case waits =>
      rw [(goesOn _ (recordUpdate_waits recording waits) fun _ => rfl).1, ← q.takes]
    case full =>
      have closes : u.recordUpdate = u.closeTake .full := by
        rw [recordUpdate_due recording due, storeSample_full (drawBlock_none full (by rw [q.takes]; exact empty))]
      rw [closes, judged_idle (closeTake_recorder ..), closeTake_takes records slot, q.takes]
      exact ⟨fun many => if_pos many, fun few => if_neg (by omega)⟩
    case stored =>
      have stored : u.recordUpdate = _ := (recordUpdate_due recording due).trans
        (storeSample_stored (drawBlock_some (by rw [q.takes]; exact draws)))
      obtain ⟨takes, channels⟩ := goesOn _ stored fun i => by
        unfold TakeStore.closedTake
        dsimp only
        rw [Tab.get_set]
        by_cases same : i = r.slot
        · rw [if_pos same, same, slot]
        · rw [if_neg same]
      refine ⟨u.sampleValues, u.dataWith k u.sampleValues, fun j m moving => ?_, ?_, fun first => ?_, fun old later data => ?_⟩
      · rw [channels] at moving
        exact sampleValues_moving moving
      · rw [takes, q.takes]
      · obtain ⟨now, lens, values⟩ := dataWith_first (s := u) (vals := u.sampleValues) first
        rw [q.now] at now
        rw [q.maps] at lens
        exact ⟨now, lens, values⟩
      · have later := dataWith_later (s := u) (vals := u.sampleValues) later data
        rw [q.takes] at later
        exact later

end Sample

end Sys2Proof.Machine
end

section
/-! What every part of an update leaves alone or only adds to (O17 to O20): one relation between two states, walked through the
update once. -/

namespace Sys2Proof.Machine

-- The default fields of a structure wait for every proof before them, so these proofs are elaborated in order.
set_option Elab.async false

/-! ### The relation -/

/-- Notices only added to, LOST_AXES aside, which is no notice of an update. -/
structure Notices.Grows (n m : Notices) : Prop where
  lostAxes : m.lostAxes = n.lostAxes := by rfl
  cueFailed : n.cueFailed.isSome → m.cueFailed.isSome := by exact id
  playEnded : n.playEnded.isSome → m.playEnded.isSome := by exact id
  recordClosed : n.recordClosed.isSome → m.recordClosed.isSome := by exact id
  stopRaised : n.stopRaised.isSome → m.stopRaised.isSome := by exact id
  markPublished : n.markPublished.isSome → m.markPublished.isSome := by exact id
  flashDone : n.flashDone.isSome → m.flashDone.isSome := by exact id
  flashFailed : n.flashFailed.isSome → m.flashFailed.isSome := by exact id

theorem Notices.Grows.trans {a b c : Notices} (h : a.Grows b) (k : b.Grows c) : a.Grows c :=
  ⟨k.lostAxes.trans h.lostAxes, k.cueFailed ∘ h.cueFailed, k.playEnded ∘ h.playEnded, k.recordClosed ∘ h.recordClosed,
    k.stopRaised ∘ h.stopRaised, k.markPublished ∘ h.markPublished, k.flashDone ∘ h.flashDone, k.flashFailed ∘ h.flashFailed⟩

/-- A link whose report is left alone and whose notices are only added to. -/
structure Link.Follows (l m : Link) : Prop where
  frames : m.reportFrames = l.reportFrames := by rfl
  number : m.reportNumber = l.reportNumber := by rfl
  notices : l.notices.Grows m.notices := by exact {}

theorem Link.Follows.trans {a b c : Link} (h : a.Follows b) (k : b.Follows c) : a.Follows c :=
  ⟨k.frames.trans h.frames, k.number.trans h.number, h.notices.trans k.notices⟩

/-- Zone positions that no raise moves: the level is at most 2, or no drive is ACTIVE. -/
def State.Settled (s : State) : Prop := s.stop.level ≤ 2 ∨ ∀ j, s.driveState j ≠ .active

/-- What every part of an update leaves alone or only adds to; `lost` are the stations that it may lose. -/
structure State.Advances (lost : Station → Prop) (s t : State) : Prop where
  memory : ∀ c, c ∈ s.stop.memory → c ∈ t.stop.memory := by exact fun _ h => h
  level : s.stop.level ≤ t.stop.level := by exact le_rfl
  held : s.generator.held = true → t.generator.held = true := by exact id
  rights : ∀ o, (t.stations.get o).rank = (s.stations.get o).rank ∧
    (t.stations.get o).rights = (s.stations.get o).rights := by exact fun _ => ⟨rfl, rfl⟩
  limits : ∀ j, t.limits j = s.limits j := by exact fun _ => rfl
  maps : t.maps = s.maps := by rfl
  entries : ∀ z, (t.zone z).entry = (s.zone z).entry := by exact fun _ => rfl
  debounce : t.zones.debounce = s.zones.debounce := by rfl
  sync : t.time.settings = s.time.settings := by rfl
  now : t.time.now = s.time.now := by rfl
  cueOffset : t.play.cueOffset = s.play.cueOffset := by rfl
  goLead : t.play.goLead = s.play.goLead := by rfl
  flash : t.flash = s.flash := by rfl
  flashPort : t.flashPort = s.flashPort := by rfl
  sysreset : t.sysreset = s.sysreset := by rfl
  configDefaulted : t.configDefaulted = s.configDefaulted := by rfl
  freeCount : t.freeCount = s.freeCount := by rfl
  reportCount : t.reportCount = s.reportCount := by rfl
  links : ∀ o, t.linkState o = .up → s.linkState o = .up ∧ (s.links.get o).Follows (t.links.get o) := by
    exact fun _ up => ⟨up, {}⟩
  up : ∀ o, ¬ lost o → s.linkState o = .up → t.linkState o = .up := by exact fun _ _ h => h
  waking : ∀ j, t.driveState j = .waking → s.driveState j = .waking := by exact fun _ h => h
  parked : ∀ j, s.driveState j = .parked → t.driveState j = .parked := by exact fun _ h => h

/-- Setpoints stay, but for those given up, with velocities kept or 0, and no frame is sent. -/
structure State.Unmoved (s t : State) : Prop where
  moves : ∀ j m, (t.channels.get j).moving = some m → ∃ m', (s.channels.get j).moving = some m' ∧ m.p = m'.p ∧
    (m.v = m'.v ∨ m.v = 0) := by exact fun _ m h => ⟨m, h, rfl, .inl rfl⟩
  nextFrame : t.port.nextFrame = s.port.nextFrame := by rfl

structure State.Even (lost : Station → Prop) (s t : State) : Prop extends s.Advances lost t, s.Unmoved t

/-- What every part of an update but the step of the generator and the frame keeps. -/
structure State.Steady (lost : Station → Prop) (s t : State) : Prop extends s.Even lost t where
  settled : s.Settled → t.Settled := by exact id
  told : ∀ z, State.Told s t z := by
    exact fun _ clear set => absurd (clear.symm.trans set) Bool.false_ne_true

section Relation

variable {lost : Station → Prop} {s t u : State}

theorem State.Advances.trans (h : s.Advances lost t) (k : t.Advances lost u) : s.Advances lost u where
  memory c w := k.memory c (h.memory c w)
  level := h.level.trans k.level
  held := k.held ∘ h.held
  rights o := ⟨(k.rights o).1.trans (h.rights o).1, (k.rights o).2.trans (h.rights o).2⟩
  limits j := (k.limits j).trans (h.limits j)
  maps := k.maps.trans h.maps
  entries z := (k.entries z).trans (h.entries z)
  debounce := k.debounce.trans h.debounce
  sync := k.sync.trans h.sync
  now := k.now.trans h.now
  cueOffset := k.cueOffset.trans h.cueOffset
  goLead := k.goLead.trans h.goLead
  flash := k.flash.trans h.flash
  flashPort := k.flashPort.trans h.flashPort
  sysreset := k.sysreset.trans h.sysreset
  configDefaulted := k.configDefaulted.trans h.configDefaulted
  freeCount := k.freeCount.trans h.freeCount
  reportCount := k.reportCount.trans h.reportCount
  links o up := by
    obtain ⟨up', after⟩ := k.links o up
    obtain ⟨up'', before⟩ := h.links o up'
    exact ⟨up'', before.trans after⟩
  up o kept up := k.up o kept (h.up o kept up)
  waking j w := h.waking j (k.waking j w)
  parked j w := k.parked j (h.parked j w)

theorem State.Unmoved.trans (h : s.Unmoved t) (k : t.Unmoved u) : s.Unmoved u where
  moves j m moving := by
    obtain ⟨m', moving', p, v⟩ := k.moves j m moving
    obtain ⟨m'', moving'', p', v'⟩ := h.moves j m' moving'
    exact ⟨m'', moving'', p.trans p', v.elim (fun same => v'.imp same.trans same.trans) .inr⟩
  nextFrame := k.nextFrame.trans h.nextFrame

theorem State.Even.trans (h : s.Even lost t) (k : t.Even lost u) : s.Even lost u :=
  ⟨h.toAdvances.trans k.toAdvances, h.toUnmoved.trans k.toUnmoved⟩

/-- What was raised for stays so. -/
theorem raised_mono {z : ZoneId} (memory : ∀ c, c ∈ s.stop.memory → c ∈ t.stop.memory)
    (level : s.stop.level ≤ t.stop.level) (h : State.Raised s z) : State.Raised t z :=
  ⟨memory _ h.1, h.2.trans level⟩

theorem told_trans {z : ZoneId} (memory : ∀ c, c ∈ t.stop.memory → c ∈ u.stop.memory)
    (level : t.stop.level ≤ u.stop.level) (h : State.Told s t z) (k : State.Told t u z) : State.Told s u z := by
  intro clear set
  cases mid : (t.zone z).occupied with
  | true => exact raised_mono memory level (h clear mid)
  | false => exact k mid set

theorem State.Steady.trans (h : s.Steady lost t) (k : t.Steady lost u) : s.Steady lost u where
  toEven := h.toEven.trans k.toEven
  settled := k.settled ∘ h.settled
  told z := told_trans k.memory k.level (h.told z) (k.told z)

theorem State.Steady.refl (s : State) : s.Steady lost s := {}

theorem State.Steady.fold {α : Type} {f : State → α → State} (l : List α) (h : ∀ (t : State) a, t.Steady lost (f t a))
    (s : State) : s.Steady lost (l.foldl f s) := by
  induction l generalizing s with
  | nil => exact .refl s
  | cons a l ih => exact (h s a).trans (ih _)

theorem State.Steady.ite {p : Prop} [Decidable p] (h : p → s.Steady lost t) : s.Steady lost (if p then t else s) := by
  split
  · exact h ‹_›
  · exact .refl s

end Relation

/-! ### Links and notices -/

section Links

variable {lost : Station → Prop} {s : State}

theorem steady_links {ls : Tab 4 Link} (state : ∀ o, (ls.get o).state = (s.links.get o).state)
    (follows : ∀ o, (s.links.get o).Follows (ls.get o)) : s.Steady lost { s with links := ls } where
  links o up := ⟨(state o).symm.trans up, follows o⟩
  up o _ up := (state o).trans up

theorem steady_post {f : Notices → Notices} (grows : ∀ n : Notices, n.Grows (f n)) (s : State) (st : Station) :
    s.Steady lost (s.post st f) := by
  unfold State.post
  refine .ite fun _ => ?_
  refine steady_links (fun o => ?_) fun o => ?_ <;> rw [Tab.get_modify] <;> split
  · rename_i same; rw [same]
  · rfl
  · rename_i same; rw [same]; exact { notices := grows _ }
  · exact {}

theorem steady_postAll {f : Notices → Notices} (grows : ∀ n : Notices, n.Grows (f n)) (s : State) :
    s.Steady lost (s.postAll f) := by
  unfold State.postAll
  refine steady_links (fun o => ?_) fun o => ?_ <;> rw [Tab.get_map] <;> split
  · rfl
  · rfl
  · exact { notices := grows _ }
  · exact {}

theorem steady_closeTake (s : State) (r : CloseReason) : s.Steady lost (s.closeTake r) := by
  unfold State.closeTake
  split
  · exact .refl s
  · split
    · split
      · exact State.Steady.trans {} (steady_post (fun _ => { recordClosed := fun _ => rfl }) _ _)
      · exact State.Steady.trans {} (steady_post (fun _ => { recordClosed := fun _ => rfl }) _ _)
    · exact {}

end Links

/-! ### Channels -/

section Channels

variable {lost : Station → Prop} {s : State}

/-- A channel that keeps its limits and its setpoint, or gives the setpoint up. -/
structure AxisChannel.Stays (a b : AxisChannel) : Prop where
  limits : b.limits = a.limits := by rfl
  moves : ∀ m, b.moving = some m → ∃ m', a.moving = some m' ∧ m.p = m'.p ∧ (m.v = m'.v ∨ m.v = 0) := by
    exact fun m h => ⟨m, h, rfl, .inl rfl⟩

theorem steady_channels {cs : Tab 10 AxisChannel} (stays : ∀ j, (s.channels.get j).Stays (cs.get j)) :
    s.Steady lost { s with channels := cs } where
  limits j := (stays j).limits
  moves j := (stays j).moves

theorem stays_zeroTarget (c : AxisChannel) : c.Stays c.zeroTarget where
  moves m moving := by
    obtain ⟨m', was, rfl⟩ := Option.map_eq_some_iff.mp moving
    exact ⟨m', was, rfl, .inl rfl⟩

theorem stays_giveUp (c : AxisChannel) (m : Mode) : c.Stays (c.giveUp m) where
  moves _ moving := nomatch moving

theorem steady_returnAxes (s : State) (axes : AxisSet) : s.Steady lost (s.returnAxes axes) := by
  refine State.Steady.trans (t := { s with channels := (s.returnAxes axes).channels }) (steady_channels fun j => ?_) {}
  rw [State.returnAxes, Tab.get_imap]
  split
  · exact { moves := (stays_zeroTarget _).moves }
  · exact {}

theorem steady_dropTake (s : State) (h : Hold) : s.Steady lost (s.dropTake h) :=
  State.Steady.trans {} (steady_returnAxes _ _)

end Channels

/-! ### A raise -/

section Raise

variable {lost : Station → Prop} {s : State}

theorem engineOnRaise_steady (s : State) : s.Steady lost s.engineOnRaise := by
  unfold State.engineOnRaise
  split
  · exact .refl s
  · exact .refl s
  · exact (steady_dropTake s _).trans (steady_post (fun _ => { cueFailed := fun _ => rfl }) _ _)
  · exact (steady_dropTake s _).trans (steady_post (fun _ => { cueFailed := fun _ => rfl }) _ _)
  · exact {}

theorem generatorOnRaise_even (s : State) : s.Even lost s.generatorOnRaise := { held := fun _ => rfl }

theorem takeRaise_even (s : State) (c : Cause) (l : Nat) : s.Even lost (s.takeRaise c l).generatorOnRaise := by
  have raised : s.Even lost ({ s with stop := s.stop.raised c l (s.stopRecord c l) } : State) :=
    { memory := fun c' was => raised_memory _ _ _ _ _ (.inr was), level := le_max_left _ _ }
  unfold State.takeRaise
  dsimp only
  split
  · refine (raised.trans (State.Steady.toEven (steady_postAll (fun _ => ?_) _))).trans (generatorOnRaise_even _)
    exact { stopRaised := fun _ => rfl }
  · exact raised.trans (generatorOnRaise_even _)

theorem onRaise_state (d : Drive) (n : Nat) : ((d.onRaise n).state = .waking → d.state = .waking) ∧
    (d.state = .parked → (d.onRaise n).state = .parked) ∧ ((d.onRaise n).state = .active → d.state = .active ∧ n ≠ 3) := by
  unfold Drive.onRaise
  cases state : d.state <;> split <;> simp_all

theorem portOnRaise_even (s : State) (l : Nat) : s.Even lost (s.portOnRaise l) := by
  have stays (j : Axis) : (s.channels.get j).Stays ((s.portOnRaise l).channels.get j) := by
    rw [State.portOnRaise, Tab.get_imap]
    split
    · exact stays_giveUp _ _
    · exact {}
  have drive (j : Axis) : (s.portOnRaise l).driveState j = ((s.port.drives.get j).onRaise l).state :=
    congrArg Drive.state (Tab.get_map ..)
  exact { limits := fun j => (stays j).limits
          waking := fun j w => (onRaise_state _ l).1 ((drive j).symm.trans w)
          parked := fun j w => (drive j).trans ((onRaise_state _ l).2.1 w)
          moves := fun j => (stays j).moves }

theorem raiseOnce_even (s : State) (c : Cause) (l : Nat) : s.Even lost (s.raiseOnce c l) :=
  (takeRaise_even s c l).trans ((engineOnRaise_steady _).toEven.trans ((steady_closeTake _ .interrupted).toEven.trans
    (portOnRaise_even _ _)))

theorem raiseOnce_settled (c : Cause) {l : Nat} (low : l ≤ 3) (h : s.Settled) : (s.raiseOnce c l).Settled := by
  have drive (j : Axis) : (s.raiseOnce c l).driveState j = ((s.port.drives.get j).onRaise (max s.stop.level l)).state := by
    rw [State.driveState, raiseOnce_drive]
  obtain settled | inactive := h
  · by_cases top : max s.stop.level l = 3
    · exact .inr fun j active => ((onRaise_state _ _).2.2 ((drive j).symm.trans active)).2 top
    · exact .inl (by rw [State.raiseOnce_level]; omega)
  · exact .inr fun j active => inactive j ((onRaise_state _ _).2.2 ((drive j).symm.trans active)).1

theorem rejudgeAll_even (s : State) : s.Even lost s.rejudgeAll :=
  { entries := fun z => by rw [State.zone_rejudgeAll]; rfl }

theorem flagZone_even (s : State) (z : ZoneId) (b : Bool) :
    s.Even lost (s.modZone z fun y => { y with occupied := b }) := by
  have entry (y : ZoneId) : ((s.modZone z fun y => { y with occupied := b }).zone y).entry = (s.zone y).entry := by
    rw [State.zone_modZone]
    split
    · rename_i same; rw [same]
    · rfl
  unfold State.modZone at entry ⊢
  split at entry
  · exact { entries := entry }
  · exact { entries := entry }

theorem modZone_settled {z : ZoneId} {f : Zone → Zone} (h : s.Settled) : (s.modZone z f).Settled := by
  unfold State.Settled State.driveState
  rwa [State.modZone_stop, State.modZone_port]

end Raise

/-! ### Occupied flags and what is raised for them (R95) -/

section Told

variable {lost : Station → Prop} {s t u : State} {rz : ZoneId → State → State}

/-- What an occupied flag tells, with the memory and the level it is told by. -/
structure State.Tells (s t : State) : Prop where
  memory : ∀ c, c ∈ s.stop.memory → c ∈ t.stop.memory := by exact fun _ h => h
  level : s.stop.level ≤ t.stop.level := by exact le_rfl
  told : ∀ z, State.Told s t z := by
    exact fun _ clear set => absurd (clear.symm.trans set) Bool.false_ne_true

theorem State.Tells.trans (h : s.Tells t) (k : t.Tells u) : s.Tells u where
  memory c w := k.memory c (h.memory c w)
  level := h.level.trans k.level
  told z := told_trans k.memory k.level (h.told z) (k.told z)

theorem raiseOnce_tells (s : State) (c : Cause) (l : Nat) : s.Tells (s.raiseOnce c l) where
  memory c' was := State.raiseOnce_memory _ _ _ _ (.inr was)
  level := by rw [State.raiseOnce_level]; exact le_max_left _ _
  told z clear set := by
    rw [State.zone_congr (raiseOnce_zones s c l), clear] at set
    exact nomatch set

theorem foldRaises_tells (act : ∀ t z, t.Tells (rz z t) ∧ State.Raised (rz z t) z) (zs : List ZoneId) (s : State) :
    s.Tells (zs.foldl (fun t z => rz z t) s) ∧ ∀ z ∈ zs, State.Raised (zs.foldl (fun t z => rz z t) s) z := by
  induction zs generalizing s with
  | nil => exact ⟨{}, nofun⟩
  | cons z zs ih =>
    obtain ⟨first, raised⟩ := act s z
    obtain ⟨rest, all⟩ := ih (rz z s)
    refine ⟨first.trans rest, fun y mem => ?_⟩
    obtain rfl | later := List.mem_cons.mp mem
    · exact raised_mono rest.memory rest.level raised
    · exact all y later

theorem testZones_tells (act : ∀ t z, t.Tells (rz z t) ∧ State.Raised (rz z t) z) (zs : List ZoneId) (s : State) :
    s.Tells (s.testZones rz zs) := by
  obtain ⟨stop, -, zone⟩ := State.testFlags_zone zs s
  obtain ⟨rest, all⟩ := foldRaises_tells act (s.foundOccupied zs) (zs.foldl State.testFlag s)
  refine ⟨fun c was => rest.memory c (by rw [stop]; exact was), by rw [← stop]; exact rest.level, fun z clear set => ?_⟩
  cases flag : ((zs.foldl State.testFlag s).zone z).occupied with
  | false => exact rest.told z flag set
  | true =>
    refine all z (List.mem_filter.mpr ?_)
    rw [zone] at flag
    split at flag
    · rename_i which
      obtain ⟨mem, tested⟩ := which
      exact ⟨mem, by rw [tested, clear]; simpa using flag⟩
    · exact absurd (clear.symm.trans flag) Bool.false_ne_true

theorem rejudgeAll_tells (s : State) : s.Tells s.rejudgeAll where
  told z clear set := by
    rw [State.zone_rejudgeAll, State.rejudged] at set
    simp [clear] at set

theorem judgeWith_tells (act : ∀ t z, t.Tells (rz z t) ∧ State.Raised (rz z t) z) (s : State) : s.Tells (s.judgeWith rz) :=
  (rejudgeAll_tells s).trans (testZones_tells act _ _)

theorem raise_tells (s : State) (c : Cause) (l : Nat) : s.Tells (s.raise c l) := by
  unfold State.raise
  dsimp only
  split
  · exact raiseOnce_tells s c l
  · exact (raiseOnce_tells s c l).trans
      (judgeWith_tells (fun t z => ⟨raiseOnce_tells t _ _, State.raised_raiseOnce t z⟩) _)

theorem raiseOccupied_tells (t : State) (z : ZoneId) :
    t.Tells (State.raiseOccupied z t) ∧ State.Raised (State.raiseOccupied z t) z := by
  refine ⟨raise_tells t _ 2, raise_memory _ _ _ _ (.inl rfl), ?_⟩
  exact le_trans (le_max_right _ _) (State.le_raise_level _ 2)

end Told

section RaiseSteady

variable {lost : Station → Prop} {s : State}

theorem raise_steady (s : State) (c : Cause) {l : Nat} (low : l ≤ 3) : s.Steady lost (s.raise c l) where
  toEven := State.raise_keeps (P := s.Even lost) c l (fun t h => h.trans (rejudgeAll_even t))
    (fun t z b h => h.trans (flagZone_even t z b)) (fun t _ h => h.trans (raiseOnce_even t _ _)) (raiseOnce_even s c l)
  told := (raise_tells s c l).told
  settled h := State.raise_keeps (P := State.Settled) c l (fun _ h => h) (fun _ _ _ h => modZone_settled h)
    (fun _ _ h => raiseOnce_settled _ (by decide) h) (raiseOnce_settled c low h)

theorem judgeZones_steady (s : State) : s.Steady lost s.judgeZones where
  toEven := State.judgeZones_keeps (P := s.Even lost) (fun t h => h.trans (rejudgeAll_even t))
    (fun t z b h => h.trans (flagZone_even t z b)) (fun t _ h => h.trans (raiseOnce_even t _ _)) {}
  told := (judgeWith_tells raiseOccupied_tells s).told
  settled h := State.judgeZones_keeps (P := State.Settled) (fun _ h => h) (fun _ _ _ h => modZone_settled h)
    (fun _ _ h => raiseOnce_settled _ (by decide) h) h

theorem raiseOccupied_steady (t : State) (z : ZoneId) : t.Steady lost (State.raiseOccupied z t) :=
  raise_steady t _ (by decide)

theorem testZones_steady (s : State) (zs : List ZoneId) : s.Steady lost (s.testZones State.raiseOccupied zs) where
  toEven := State.testZones_keeps (P := s.Even lost) zs (fun t z b h => h.trans (flagZone_even t z b))
    (fun t z h => h.trans (raiseOccupied_steady t z).toEven) {}
  told := (testZones_tells raiseOccupied_tells zs s).told
  settled h := State.testZones_keeps (P := State.Settled) zs (fun _ _ _ h => modZone_settled h)
    (fun t z h => (raiseOccupied_steady (lost := lost) t z).settled h) h

end RaiseSteady

end Sys2Proof.Machine
end

section
/-! The parts of an update, each by the relation of what every part keeps (O17 to O20). -/

namespace Sys2Proof.Machine

-- The default fields of a structure wait for every proof before them, so these proofs are elaborated in order.
set_option Elab.async false

variable {lost : Station → Prop}

/-! ### Drives -/

section Drives

variable {s : State} {j : Axis}

theorem modDrive_steady {f : Drive → Drive}
    (waking : (f (s.port.drives.get j)).state = .waking → s.driveState j = .waking)
    (parked : s.driveState j = .parked → (f (s.port.drives.get j)).state = .parked)
    (active : (f (s.port.drives.get j)).state = .active → s.driveState j = .active) :
    s.Steady lost (s.modDrive j f) := by
  have drive (i : Axis) : (s.modDrive j f).driveState i =
      if i = j then (f (s.port.drives.get j)).state else s.driveState i := by
    rw [State.driveState, State.modDrive_port]
    dsimp only
    rw [Tab.get_modify]
    split <;> rfl
  refine { waking := fun i w => ?_, parked := fun i w => ?_, settled := fun h => h.imp_right fun inactive i w => ?_ }
  · rw [drive] at w
    split at w
    · rename_i same; rw [same]; exact waking w
    · exact w
  · rw [drive]
    split
    · rename_i same; exact parked (same ▸ w)
    · exact w
  · rw [drive] at w
    split at w
    · exact inactive j (active w)
    · exact inactive i w

theorem leaveActive_steady (s : State) (j : Axis) : s.Steady lost (s.leaveActive j) := by
  unfold State.leaveActive
  refine .ite fun _ => State.Steady.trans (t := s.modChannel j fun c => c.giveUp (s.mode j))
    (steady_channels fun i => ?_) ?_
  · rw [Tab.get_modify]
    split
    · rename_i same; rw [same]; exact stays_giveUp _ _
    · exact {}
  · unfold State.closeIfRecorded
    split
    · exact .ite fun _ => steady_closeTake _ _
    · exact .refl _

theorem leaveActive_driveState (s : State) (j : Axis) : (s.leaveActive j).port = s.port := by
  unfold State.leaveActive State.closeIfRecorded
  split
  · split
    · split
      · exact (closeTake_frame _ _).2.1
      · rfl
    · rfl
  · rfl

theorem driveTo_steady {d : DriveState} {keep : Bool} (unparked : s.driveState j ≠ .parked) (notWaking : d ≠ .waking)
    (notActive : d ≠ .active) : s.Steady lost (s.driveTo j d keep) := by
  have same : (s.leaveActive j).driveState j = s.driveState j := by
    unfold State.driveState
    rw [leaveActive_driveState]
  exact (leaveActive_steady s j).trans (modDrive_steady (fun w => absurd w notWaking)
    (fun w => absurd (same.symm.trans w) unparked) fun w => absurd w notActive)

theorem driveFaults_steady (c : Cause) (unparked : s.driveState j ≠ .parked) : s.Steady lost (s.driveFaults j c) :=
  (driveTo_steady (d := .fault) unparked (by decide) (by decide)).trans (raise_steady _ _ (by decide))

theorem unparked_of_unanswered (h : s.unanswered j = true) : s.driveState j ≠ .parked := by
  intro parked
  unfold State.unanswered at h
  split at h
  · exact nomatch h
  · rw [parked] at h
    exact nomatch h

theorem judgeSilence_steady (s : State) (j : Axis) : s.Steady lost (s.judgeSilence j) := by
  unfold State.judgeSilence
  split
  · rename_i silent
    exact driveFaults_steady _ (unparked_of_unanswered (Bool.and_eq_true_iff.mp silent).1)
  · exact .ite fun _ => modDrive_steady id id id

theorem countWait_steady (s : State) (j : Axis) : s.Steady lost (s.countWait j) := by
  unfold State.countWait
  split
  · exact .refl s
  · rename_i n waits
    split
    · refine driveFaults_steady _ fun parked => ?_
      rw [parked] at waits
      exact nomatch waits
    · exact modDrive_steady id id id

theorem haltPoint_steady (s : State) : s.Steady lost s.haltPoint := by
  unfold State.haltPoint
  refine .ite fun _ => .fold allAxes (fun t j => .ite fun active => driveTo_steady (d := .parking) ?_ (by decide) (by decide)) s
  rw [active]
  exact nofun

theorem portWork_steady (s : State) : s.Steady lost s.portWork :=
  (State.Steady.fold allAxes judgeSilence_steady s).trans ((State.Steady.fold allAxes countWait_steady _).trans
    (haltPoint_steady _))

theorem standstillTest_steady (s : State) : s.Steady lost s.standstillTest := by
  have stop (x) : (s.stop.standstill x).memory = s.stop.memory ∧ (s.stop.standstill x).level = s.stop.level := by
    unfold StopController.standstill
    split <;> exact ⟨rfl, rfl⟩
  unfold State.standstillTest
  refine .ite fun _ => ?_
  exact { memory := fun c was => by rw [(stop _).1]; exact was, level := by rw [(stop _).2], held := fun _ => rfl
          settled := fun h => h.imp_left fun low => by rw [(stop _).2]; exact low }

end Drives

/-! ### The beginning -/

section Begin

variable {s : State}

theorem countHalt_steady (s : State) : s.Steady lost s.countHalt := by
  unfold State.countHalt
  split
  · exact .refl s
  · split
    · unfold State.haltRunsOut
      split
      · exact State.Steady.trans {} (raise_steady _ _ le_rfl)
      · exact {}
    · exact {}

theorem failCue_steady (s : State) (c : Cue) (why : CueFail) : s.Steady lost (s.failCue c why) :=
  (steady_dropTake s _).trans ((steady_post (fun _ => { cueFailed := fun _ => rfl }) _ _).trans (judgeZones_steady _))

theorem endPlay_steady (s : State) (h : Hold) (why : PlayEnd) (e : Option Nat) : s.Steady lost (s.endPlay h why e) :=
  (steady_dropTake s _).trans ((steady_post (fun _ => { playEnded := fun _ => rfl }) _ _).trans (judgeZones_steady _))

theorem judgeStart_steady (s : State) : s.Steady lost s.judgeStart := by
  unfold State.judgeStart
  split
  · exact .ite fun _ => failCue_steady _ _ _
  · refine .ite fun _ => ?_
    split
    · exact {}
    · exact failCue_steady _ _ _
  all_goals exact .refl s

theorem engineBegin_steady (s : State) : s.Steady lost s.engineBegin := by
  unfold State.engineBegin
  split
  · split
    · exact .refl s
    · exact {}
  · split
    · exact {}
    · exact judgeStart_steady s
  · exact judgeStart_steady s
  all_goals exact .refl s

theorem beginUpdate_steady (s : State) : s.Steady lost s.beginUpdate :=
  (countHalt_steady s).trans ((engineBegin_steady _).trans {})

end Begin

/-! ### The step of the generator -/

section Generate

variable {s : State}

theorem moveTrims_steady (s : State) : s.Steady lost s.moveTrims := by
  refine steady_channels fun j => ?_
  rw [Tab.get_imap]
  split
  · split <;> exact {}
  · exact {}

theorem supplyTargets_steady (s : State) : s.Steady lost s.supplyTargets := by
  refine steady_channels fun j => ?_
  rw [Tab.get_imap]
  split
  · rename_i m x moving _
    have moved (target : Target) : ∀ m', some { m with target := target } = some m' →
        ∃ m'', (s.channels.get j).moving = some m'' ∧ m'.p = m''.p ∧ (m'.v = m''.v ∨ m'.v = 0) := by
      rintro _ ⟨⟩
      exact ⟨m, moving, rfl, .inl rfl⟩
    split
    · exact { moves := moved _ }
    · split
      · exact { moves := moved _ }
      · exact {}
  · exact {}

theorem takeCaps_steady (s : State) (r : Tab 7 (Option (Int × Int))) : s.Steady lost (s.takeCaps r) := by
  refine steady_channels fun j => ?_
  rw [Tab.get_imap]
  split <;> exact {}

theorem raiseSteps_steady (s : State) (cs : List Cause) : s.Steady lost (s.raiseSteps cs) :=
  .fold cs (fun t c => raise_steady t c (by decide)) s

/-- The step up to the finished setpoints. -/
theorem stepped_steady (s : State) (r : Tab 7 (Option (Int × Int))) (cs : List Cause) :
    s.Steady lost ((s.moveTrims.supplyTargets.takeCaps r).raiseSteps cs) :=
  (moveTrims_steady s).trans ((supplyTargets_steady _).trans ((takeCaps_steady _ r).trans (raiseSteps_steady _ cs)))

theorem finishSteps_limits (s : State) (steps : Tab 10 (Option StepOut)) (j : Axis) :
    (s.finishSteps steps).limits j = s.limits j := by
  rw [State.limits, State.finishSteps, Tab.get_imap]
  split <;> rfl

theorem finishSteps_advances (s : State) (steps : Tab 10 (Option StepOut)) : s.Advances lost (s.finishSteps steps) :=
  { limits := finishSteps_limits s steps }

end Generate

/-! ### The counts -/

section Counts

variable {s : State} {st : Station}

theorem modStation_steady {f : StationRec → StationRec} (rank : ∀ r, (f r).rank = r.rank)
    (rights : ∀ r, (f r).rights = r.rights) (s : State) (st : Station) : s.Steady lost (s.modStation st f) where
  rights o := by
    rw [State.modStation_stations, Tab.get_modify]
    split
    · rename_i same; rw [same]; exact ⟨rank _, rights _⟩
    · exact ⟨rfl, rfl⟩

theorem markStale_steady (s : State) (st : Station) : s.Steady lost (s.markStale st) := by
  refine State.Steady.trans (t := { s with channels := (s.markStale st).channels }) (steady_channels fun j => ?_) {}
  rw [State.markStale, Tab.get_imap]
  split
  · exact stays_zeroTarget _
  · exact {}

theorem countMove_steady (s : State) (st : Station) : s.Steady lost (s.countMove st) := by
  have counted : s.Steady lost _ := modStation_steady (f := fun r => { r with lastMove := min 20 (r.lastMove + 1) })
    (fun _ => rfl) (fun _ => rfl) s st
  unfold State.countMove
  refine .ite fun _ => ?_
  dsimp only
  split
  · exact counted.trans (markStale_steady _ _)
  · exact counted

theorem publishMark_steady (s : State) : s.Steady lost s.publishMark := by
  unfold State.publishMark
  split
  · exact {}
  · exact State.Steady.trans {} (steady_postAll (fun _ => { markPublished := fun _ => rfl }) _)

theorem removeReader_steady (s : State) (st : Station) : s.Steady lost (s.removeReader st) := by
  unfold State.removeReader
  refine .ite fun _ => ?_
  dsimp only
  split
  · exact State.Steady.trans {} (publishMark_steady _)
  · exact {}

theorem stationDown_steady (isLost : lost st) (s : State) : s.Steady lost (s.stationDown st) := by
  have down : s.Steady lost (s.modLink st Link.goDown) :=
    { links := fun o up => by
        rw [State.linkState, State.modLink_links, Tab.get_modify] at up
        split at up
        · exact nomatch up
        · rename_i other
          rw [State.modLink_links, Tab.get_modify, if_neg other]
          exact ⟨up, {}⟩
      up := fun o kept up => by
        have other : o ≠ st := fun same => kept (same ▸ isLost)
        rw [State.linkState, State.modLink_links, Tab.get_modify, if_neg other]
        exact up }
  have authority (t : State) : t.Steady lost (t.loseAuthority st) := by
    refine State.Steady.trans (t := { t with channels := (t.loseAuthority st).channels }) (steady_channels fun j => ?_) {}
    rw [State.loseAuthority, Tab.get_imap]
    split
    · exact stays_zeroTarget _
    · exact {}
  have gone := down.trans ((authority _).trans (removeReader_steady _ st))
  unfold State.stationDown
  dsimp only
  split
  · exact gone.trans (raise_steady _ _ (by decide))
  · exact gone

theorem countFrame_steady (covers : ¬ lost st → (s.stations.get st).lastFrame < 249) : s.Steady lost (s.countFrame st) := by
  have counted : s.Steady lost _ := modStation_steady (f := fun r => { r with lastFrame := min 250 (r.lastFrame + 1) })
    (fun _ => rfl) (fun _ => rfl) s st
  unfold State.countFrame
  refine .ite fun _ => ?_
  dsimp only
  split
  · refine counted.trans (stationDown_steady ?_ _)
    by_contra kept
    have := covers kept
    omega
  · exact counted

theorem stationDown_stations (s : State) (st : Station) : (s.stationDown st).stations = s.stations := by
  have down : (((s.modLink st Link.goDown).loseAuthority st).removeReader st).stations = s.stations := by
    rw [removeReader_frame]
    rfl
  unfold State.stationDown
  dsimp only
  split
  · exact (State.raise_stations ..).trans down
  · exact down

theorem countFrame_other {o : Station} (s : State) (other : o ≠ st) :
    (s.countFrame st).stations.get o = s.stations.get o := by
  have counted : (s.modStation st fun r => { r with lastFrame := min 250 (r.lastFrame + 1) }).stations.get o =
      s.stations.get o := by
    rw [State.modStation_stations, Tab.get_modify, if_neg other]
  unfold State.countFrame
  split
  · dsimp only
    split
    · rw [stationDown_stations, counted]
    · exact counted
  · rfl

theorem countFrames_steady (l : List Station) (distinct : l.Nodup) (s : State)
    (covers : ∀ o ∈ l, ¬ lost o → (s.stations.get o).lastFrame < 249) : s.Steady lost (l.foldl State.countFrame s) := by
  induction l generalizing s with
  | nil => exact .refl s
  | cons a l ih =>
    obtain ⟨fresh, distinct⟩ := List.nodup_cons.mp distinct
    refine (countFrame_steady (covers a (List.mem_cons_self ..))).trans (ih distinct _ fun o mem kept => ?_)
    rw [countFrame_other (st := a) s fun same : o = a => fresh (same ▸ mem)]
    exact covers o (List.mem_cons_of_mem _ mem) kept

theorem countMarks_steady (s : State) : s.Steady lost s.countMarks := by
  refine State.Steady.trans (t := s.countLockout) {} (.fold allStations (fun t st => ?_) _)
  unfold State.countReader
  split
  · exact .refl t
  · split
    · exact removeReader_steady t st
    · exact {}

theorem countPeriod_steady (s : State) : s.Steady lost s.countPeriod := by
  have time : s.time.countPeriod.settings = s.time.settings ∧ s.time.countPeriod.now = s.time.now := by
    unfold TimebaseUnit.countPeriod
    split
    · exact ⟨rfl, rfl⟩
    · split <;> exact ⟨rfl, rfl⟩
  unfold State.countPeriod
  split
  · exact {}
  · exact { sync := time.1, now := time.2 }

theorem foldMoves_frames (l : List Station) (s : State) (o : Station) :
    ((l.foldl State.countMove s).stations.get o).lastFrame = (s.stations.get o).lastFrame := by
  induction l generalizing s with
  | nil => rfl
  | cons a l ih => rw [List.foldl_cons, ih, State.countMove_frames]

theorem countUpdate_steady (covers : ∀ o, ¬ lost o → (s.stations.get o).lastFrame < 249) :
    s.Steady lost s.countUpdate :=
  (State.Steady.fold allStations countMove_steady s).trans ((countFrames_steady allStations (by decide) _ fun o _ kept => by
    rw [foldMoves_frames]; exact covers o kept).trans ((countMarks_steady _).trans (countPeriod_steady _)))

end Counts

/-! ### The hand-off -/

section HandOff

variable {s : State}

theorem sendFrame_advances (s : State) : s.Advances lost s.sendFrame := {}

theorem recordUpdate_steady (s : State) : s.Steady lost s.recordUpdate := by
  unfold State.recordUpdate State.storeSample
  split
  · exact .refl s
  · split
    · exact {}
    · split
      · exact steady_closeTake s _
      · exact {}

theorem judgeArrival_steady (s : State) : s.Steady lost s.judgeArrival := by
  obtain ⟨x, engine, -⟩ := judgeArrival_eq s
  rw [engine]
  exact {}

theorem haltAxes_steady (s : State) (axes : AxisSet) : s.Steady lost (s.haltAxes axes) := by
  refine steady_channels fun j => ?_
  rw [Tab.get_imap]
  split
  · exact { moves := fun m moving => by
              obtain ⟨m', was, rfl⟩ := Option.map_eq_some_iff.mp moving
              exact ⟨m', was, rfl, .inr rfl⟩ }
  · exact {}

theorem judgeEnd_steady (s : State) : s.Steady lost s.judgeEnd := by
  unfold State.judgeEnd
  split
  · exact .ite fun _ => (haltAxes_steady _ _).trans (endPlay_steady _ _ _ _)
  all_goals exact .refl s

end HandOff

end Sys2Proof.Machine
end

section
/-! The whole update by the relation of its parts, and the reports built at its end (O18). -/

namespace Sys2Proof.Machine

/-! ### The update in four stretches -/

section Stretches

variable {lost : Station → Prop} {s : State}

/-- The state as the step of the generator has been raised for and is about to be finished. -/
def State.stepped (s : State) : State :=
  (s.moveTrims.supplyTargets.takeCaps s.moveTrims.supplyTargets.reaches).raiseSteps (stepCauses s.moveTrims.supplyTargets.steps)

/-- The steps that an update finishes. -/
def State.stepsTaken (s : State) : Tab 10 (Option StepOut) := s.moveTrims.supplyTargets.steps

theorem generate_eq (s : State) : s.generate = s.stepped.finishSteps s.stepsTaken := rfl

/-- The state as the frame is about to be built. -/
def State.readyToSend (s : State) : State := s.countUpdate.standstillTest.portWork

/-- The hand-off after the frame. -/
def State.afterSend (s : State) : State := s.testAllZones.recordUpdate.judgeArrival.judgeEnd

theorem updateOnce_eq (s : State) :
    s.updateOnce = s.beginUpdate.generate.readyToSend.sendFrame.afterSend.countReport := rfl

theorem stepped_eq_steady (s : State) : s.Steady lost s.stepped := stepped_steady s _ _

theorem readyToSend_steady (covers : ∀ o, ¬ lost o → (s.stations.get o).lastFrame < 249) : s.Steady lost s.readyToSend :=
  (countUpdate_steady covers).trans ((standstillTest_steady _).trans (portWork_steady _))

theorem afterSend_steady (s : State) : s.Steady lost s.afterSend :=
  (testZones_steady s allZones).trans ((recordUpdate_steady _).trans ((judgeArrival_steady _).trans (judgeEnd_steady _)))

theorem countHalt_stations (s : State) : s.countHalt.stations = s.stations := by
  unfold State.countHalt State.haltRunsOut
  split
  · rfl
  · split
    · split
      · rw [State.raise_stations]
      · rfl
    · rfl

theorem failCue_stations (s : State) (c : Cue) (why : CueFail) : (s.failCue c why).stations = s.stations := by
  rw [State.failCue, State.judgeZones_stations, State.post_stations]
  rfl

theorem engineBegin_stations (s : State) : s.engineBegin.stations = s.stations := by
  have judged : s.judgeStart.stations = s.stations := by
    unfold State.judgeStart
    split
    · split
      · exact failCue_stations ..
      · rfl
    · split
      · split
        · rfl
        · exact failCue_stations ..
      · rfl
    all_goals rfl
  unfold State.engineBegin
  split
  · split <;> rfl
  · split
    · rfl
    · exact judged
  · exact judged
  all_goals rfl

theorem raiseSteps_stations (cs : List Cause) (s : State) : (s.raiseSteps cs).stations = s.stations :=
  foldl_fixed State.stations cs (fun t same c _ => (State.raise_stations ..).trans same) s rfl

theorem generated_stations (s : State) : s.beginUpdate.generate.stations = s.stations :=
  (raiseSteps_stations _ _).trans ((engineBegin_stations _).trans (countHalt_stations s))

theorem generated_advances (s : State) : s.Advances lost s.beginUpdate.generate :=
  (beginUpdate_steady s).toAdvances.trans ((stepped_eq_steady _).toAdvances.trans (finishSteps_advances _ _))

/-- The whole update but the report count. -/
theorem handedOff_advances (covers : ∀ o, ¬ lost o → (s.stations.get o).lastFrame < 249) :
    s.Advances lost s.beginUpdate.generate.readyToSend.sendFrame.afterSend :=
  (generated_advances s).trans ((readyToSend_steady fun o kept => by
    rw [generated_stations]; exact covers o kept).toAdvances.trans ((sendFrame_advances _).trans
      (afterSend_steady _).toAdvances))

end Stretches

/-! ### Notice sections -/

section Notices

variable {n m : Notices} {k : Nat}

theorem noticeSection_numbers {α : Type} (i : Nat) (x : Option α) (f : α → List Byte) :
    (noticeSection i x f).map Prod.fst = if x.isSome then [i] else [] := by cases x <;> rfl

theorem noticeSections_numbers (n : Notices) : (noticeSections n).map Prod.fst = n.kinds := by
  simp only [noticeSections, List.map_append, noticeSection_numbers, Notices.kinds]

/-- A kind that is present, with the notice that makes it so. -/
theorem mem_kinds : k ∈ n.kinds ↔ (k = 19 ∧ n.lostAxes.isSome) ∨ (k = 20 ∧ n.cueFailed.isSome) ∨
    (k = 21 ∧ n.playEnded.isSome) ∨ (k = 22 ∧ n.recordClosed.isSome) ∨ (k = 23 ∧ n.stopRaised.isSome) ∨
    (k = 24 ∧ n.markPublished.isSome) ∨ (k = 25 ∧ n.flashDone.isSome) ∨ (k = 26 ∧ n.flashFailed.isSome) := by
  have one (i : Nat) (b : Bool) : (k ∈ if b = true then [i] else []) ↔ k = i ∧ b = true := by
    cases b <;> simp
  unfold Notices.kinds
  simp only [List.mem_append, one, or_assoc]

theorem Notices.Grows.kinds (h : n.Grows m) (mem : k ∈ n.kinds) : k ∈ m.kinds := by
  rw [mem_kinds] at mem ⊢
  rw [h.lostAxes]
  exact mem.imp id (Or.imp (And.imp id h.cueFailed) (Or.imp (And.imp id h.playEnded) (Or.imp (And.imp id h.recordClosed)
    (Or.imp (And.imp id h.stopRaised) (Or.imp (And.imp id h.markPublished) (Or.imp (And.imp id h.flashDone)
      (And.imp id h.flashFailed)))))))

/-- Every kind that is present has its section. -/
theorem section_of_kind (mem : k ∈ n.kinds) : ∃ y ∈ noticeSections n, y.1 = k :=
  List.mem_map.mp (by rwa [noticeSections_numbers])

end Notices

/-! ### The reports built (R195) -/

section Reports

variable {s : State} {st : Station} {ls : Tab 4 Link}

/-- The sections read of a link no more than its state, its error count and its test. -/
theorem sectionHolds_of_links (same : ∀ o, (ls.get o).state = (s.links.get o).state ∧
      (ls.get o).crcErrors = (s.links.get o).crcErrors ∧ (ls.get o).test = (s.links.get o).test) {n : Nat} {p : List Byte}
    (h : s.SectionHolds st n p) : ({ s with links := ls } : State).SectionHolds st n p := by
  obtain ⟨stop, axis, lens, station, rest⟩ := h
  refine ⟨stop, axis, lens, fun is => ?_, rest⟩
  obtain ⟨length, table, items⟩ := station is
  refine ⟨length, fun o => ?_, ?_⟩
  · rw [show ({ s with links := ls } : State).linkState o = s.linkState o from (same o).1]
    exact table o
  · dsimp only
    rw [(same st).2.1, (same st).2.2]
    exact items

theorem sections_numbers (s : State) (st : Station) : ((s.sections st).map Prod.fst).take 19 = List.range 19 := by
  rw [State.sections, List.map_append]
  refine (List.take_left' ?_).trans ?_ <;> rfl

theorem buildReports_link (takes : (s.links.get st).takesReport = true) :
    s.buildReports.links.get st = (s.links.get st).buildReport (s.sections st) := by
  rw [State.buildReports, Tab.get_imap, if_pos takes]

theorem buildReports_other (leaves : (s.links.get st).takesReport = false) : s.buildReports.links.get st = s.links.get st := by
  rw [State.buildReports, Tab.get_imap, leaves]
  rfl

theorem buildReports_holds {n : Nat} {p : List Byte} (h : s.SectionHolds st n p) :
    s.buildReports.SectionHolds st n p := by
  refine sectionHolds_of_links (ls := s.buildReports.links) (fun o => ?_) h
  rw [State.buildReports, Tab.get_imap]
  split <;> exact ⟨rfl, rfl, rfl⟩

theorem mem_sections_of_notice {y : Nat × List Byte} (mem : y ∈ noticeSections (s.links.get st).notices) :
    y ∈ s.sections st := List.mem_append_right _ mem

/-- Settles O18: up to the report count an update leaves the link's report and only adds notices, and the report is then built
where it is due and the last one is sent. -/
theorem tenthUpdateBuildsTheReports : Obligations.TenthUpdateBuildsTheReports := by
  intro s st awake up seen
  have run : exec .update s = .next s.updateOnce := awake_next _ awake
  obtain ⟨u, handedOff⟩ : ∃ u, s.beginUpdate.generate.readyToSend.sendFrame.afterSend = u := ⟨_, rfl⟩
  have advances : s.Advances (fun o => o ≠ st) u := by
    rw [← handedOff]
    exact handedOff_advances fun o kept => by rw [not_not.mp kept]; exact seen
  have whole : s.updateOnce = u.countReport := by rw [updateOnce_eq, handedOff]
  have isUp : u.linkState st = .up := advances.up st (not_not_intro rfl) up
  obtain ⟨-, follows⟩ := advances.links st isUp
  rw [run, whole]
  refine ⟨fun tenth sent => ⟨_, rfl, ?_⟩, fun which => ⟨_, rfl, ?_⟩⟩
  · obtain ⟨v, counted⟩ : ∃ v : State, ({ u with reportCount := 0 } : State) = v := ⟨_, rfl⟩
    have link : v.links = u.links := by rw [← counted]
    have builds : u.countReport = v.buildReports := by
      rw [State.countReport, if_pos (by rw [advances.reportCount]; omega), counted]
    have takes : (v.links.get st).takesReport = true := by
      rw [Link.takesReport, link, follows.frames, sent, show (u.links.get st).state = _ from isUp]
      rfl
    have built := buildReports_link takes
    have frame {y : Nat × List Byte} (mem : y ∈ noticeSections (v.links.get st).notices) :
        ∃ f ∈ (v.buildReports.links.get st).reportFrames, f.sect = y.1 ∧ f.payload = y.2 := by
      rw [built]
      exact ⟨_, List.mem_map_of_mem (mem_sections_of_notice mem), rfl, rfl⟩
    rw [builds]
    refine ⟨by rw [← counted]; rfl, ?_, fun f mem => ?_, fun n mem => ?_, fun axes o lost => ?_, ?_, ?_⟩
    · rw [built, Link.buildReport, List.map_map]
      exact sections_numbers v st
    · rw [built] at mem
      obtain ⟨x, isSection, rfl⟩ := List.mem_map.mp mem
      exact ⟨by rw [link]; exact follows.number, buildReports_holds (sections_hold v st x isSection)⟩
    · obtain ⟨y, isSection, rfl⟩ := section_of_kind (follows.notices.kinds mem)
      obtain ⟨f, framed, number, -⟩ := frame (by rw [link]; exact isSection)
      exact ⟨f, framed, number⟩
    · have kept : (v.links.get st).notices.lostAxes = some (axes, o) := by rw [link, follows.notices.lostAxes, lost]
      refine frame (y := (19, beBytes 2 axes.toNat ++ [BitVec.ofNat 8 o.val])) ?_
      unfold noticeSections
      simp only [List.mem_append, kept]
      simp [noticeSection, axisSetBytes, byte, beBytes]
    · rw [built, Link.buildReport, link]
      exact congrArg (· + 1) follows.number
    · rw [built]
      rfl
  · have kept : u.countReport.links.get st = u.links.get st := by
      unfold State.countReport
      split
      · rename_i tenth
        rw [advances.reportCount] at tenth
        obtain ⟨-, unsent⟩ | early := which
        · refine buildReports_other (s := { u with reportCount := 0 }) ?_
          show (u.links.get st).takesReport = false
          rw [Link.takesReport, follows.frames, decide_eq_false unsent, Bool.and_false]
        · omega
      · rfl
    rw [kept]
    refine ⟨?_, follows.frames, follows.number, fun n mem => follows.notices.kinds mem, follows.notices.lostAxes⟩
    have count := advances.reportCount
    unfold State.countReport
    rw [count]
    obtain ⟨tenth, -⟩ | early := which
    · rw [if_pos (by omega), if_pos tenth]
      rfl
    · rw [if_neg (by omega), if_neg (by omega)]

end Reports

end Sys2Proof.Machine
end

section
/-! The step of the generator (O20): what bounds a finished velocity, and the causes that a step raises. -/

namespace Sys2Proof.Machine

/-! ### Stages of a step -/

section Stages

variable {v vc p : Int} {lim : Limits} {j : Axis} {aStop n : Nat} {bs : List Boundary} {b : Boundary} {zs : List ZoneId}
  {z : ZoneId} {f : ZoneId → Option Boundary} {test : Boundary → Bool}

/-- A step inside the limits ends inside them, and one from outside them moves toward the inside (R16). -/
theorem insideLimits_inward (p : Int) (lim : Limits) (v : Int) :
    (lim.low * 256 ≤ p → p ≤ lim.high * 256 →
      lim.low * 256 ≤ p + insideLimits p lim v ∧ p + insideLimits p lim v ≤ lim.high * 256) ∧
      (lim.high * 256 ≤ p → p + insideLimits p lim v ≤ p) ∧ (p ≤ lim.low * 256 → p ≤ p + insideLimits p lim v) := by
  unfold insideLimits ofCount
  split <;> omega

theorem insideLimits_le (p : Int) (lim : Limits) (v : Int) : (insideLimits p lim v).natAbs ≤ v.natAbs := by
  unfold insideLimits
  split <;> omega

theorem natAbs_sign_mul_le (x : Int) (k : Nat) : (x.sign * (k : Int)).natAbs ≤ k := by
  rw [Int.natAbs_mul, Int.natAbs_natCast, Int.natAbs_sign]
  split <;> omega

theorem boundaryStage_le (hv : v.natAbs ≤ n) (hvc : vc.natAbs ≤ n) : (boundaryStage j v vc aStop bs).v.natAbs ≤ n := by
  unfold boundaryStage overrun
  split
  · exact hvc
  · split
    · exact (natAbs_sign_mul_le _ _).trans ((min_le_left _ _).trans hvc)
    · exact (natAbs_sign_mul_le _ _).trans ((Nat.sub_le _ _).trans hv)

/-- The acceleration stage ends between the velocity and the demand. -/
theorem accelerate_le {dem : Int} {aAccel : Nat} {braking : Bool} (hv : v.natAbs ≤ n) (hd : dem.natAbs ≤ n) :
    (accelerate v dem aAccel aStop braking).natAbs ≤ n := by
  unfold accelerate
  split
  · have brakes : v - v.sign * ((min aStop (v.natAbs - dem.natAbs) : Nat) : Int) =
        v.sign * ((v.natAbs - min aStop (v.natAbs - dem.natAbs) : Nat) : Int) := by
      have whole := Int.sign_mul_natAbs v
      rw [Nat.cast_sub (by omega), mul_sub, whole]
    rw [brakes]
    exact (natAbs_sign_mul_le _ _).trans ((Nat.sub_le _ _).trans hv)
  · unfold clamp
    omega

theorem leastPermitted_mem {w : Nat} (least : leastPermitted bs aStop = some w) :
    ∃ b ∈ bs, w = permittedSpeed b.gap aStop := by
  induction bs generalizing w with
  | nil => exact nomatch least
  | cons b bs ih =>
    unfold leastPermitted at least
    split at least
    · cases least
      exact ⟨b, List.mem_cons_self .., rfl⟩
    · rename_i w' rest
      cases least
      obtain ⟨b', mem, is⟩ := ih rest
      obtain left | right := min_choice (permittedSpeed b.gap aStop) w'
      · exact ⟨b, List.mem_cons_self .., left⟩
      · exact ⟨b', List.mem_cons_of_mem _ mem, right.trans is⟩

theorem leastPermitted_le (mem : b ∈ bs) : ∃ w, leastPermitted bs aStop = some w ∧ w ≤ permittedSpeed b.gap aStop := by
  induction bs with
  | nil => exact nomatch mem
  | cons a bs ih =>
    unfold leastPermitted
    obtain rfl | later := List.mem_cons.mp mem
    · split
      · exact ⟨_, rfl, le_rfl⟩
      · exact ⟨_, rfl, min_le_left _ _⟩
    · obtain ⟨w, least, le⟩ := ih later
      rw [least]
      exact ⟨_, rfl, (min_le_right _ _).trans le⟩

/-- The first zone that meets a test, among boundaries read off a list of zones. -/
theorem firstZone_filterMap {before rest : List ZoneId} (named : ∀ y b, f y = some b → b.zone = some y)
    (is : f z = some b) (meets : test b = true) (earlier : ∀ y ∈ before, ∀ b', f y = some b' → test b' = false) :
    firstZone ((before ++ z :: rest).filterMap f) test = some z := by
  induction before with
  | nil => rw [List.nil_append, List.filterMap_cons_some is, firstZone, named z b is]; exact if_pos meets
  | cons y before ih =>
    have ih := ih fun x mem => earlier x (List.mem_cons_of_mem _ mem)
    cases isY : f y with
    | none => rw [List.cons_append, List.filterMap_cons_none isY]; exact ih
    | some b' =>
      rw [List.cons_append, List.filterMap_cons_some isY, firstZone, named y b' isY]
      dsimp only
      rw [earlier y (List.mem_cons_self ..) b' isY]
      exact ih

theorem firstZone_soft (p vc : Int) (lim : Limits) (test : Boundary → Bool) (bs : List Boundary) :
    firstZone (softBoundary p vc lim ++ bs) test = firstZone bs test := by
  unfold softBoundary
  split
  · rfl
  · split <;> rfl

theorem overrun_causes (first : firstZone bs (fun b => decide ((permittedSpeed b.gap aStop : Int) < (v.natAbs : Int) - aStop)) =
    some z) : (overrun j v aStop bs).causes = [.zoneOverrun z j] := by
  rw [overrun, first]

/-- A boundary that cannot be honoured is overrun, at either stage (R15). -/
theorem stages_overrun (mem : b ∈ bs) (fast : (permittedSpeed b.gap aStop : Int) < (v.natAbs : Int) - aStop) :
    boundaryStage j v vc aStop bs = overrun j v aStop bs ∧ playbackStage j v vc aStop bs = overrun j v aStop bs := by
  obtain ⟨w, least, le⟩ := leastPermitted_le (aStop := aStop) mem
  have above : ¬ (v.natAbs : Int) - aStop ≤ w := by omega
  rw [boundaryStage, playbackStage, least]
  exact ⟨if_neg above, if_neg above⟩

/-- A reduced step of a path that honours every boundary raises ZONE_BLOCK for the first zone that reduces it (R17). -/
theorem playbackStage_blocks (mem : b ∈ bs) (reduces : permittedSpeed b.gap aStop < vc.natAbs)
    (honoured : ∀ b ∈ bs, (v.natAbs : Int) - aStop ≤ permittedSpeed b.gap aStop)
    (first : firstZone bs (fun b => decide (permittedSpeed b.gap aStop < vc.natAbs)) = some z) :
    (playbackStage j v vc aStop bs).causes = [.zoneBlock z j] := by
  obtain ⟨w, least, le⟩ := leastPermitted_le (aStop := aStop) mem
  obtain ⟨b', mem', is⟩ := leastPermitted_mem least
  rw [playbackStage, least]
  dsimp only
  rw [if_pos (by rw [is]; exact honoured b' mem'), if_pos (by omega), first]

end Stages

/-! ### The demand (R8 to R12) -/

section Demand

variable {j : Axis} {a : AuthEntry} {c : AxisChannel} {m : Moving} {lim : Limits} {held : Bool}

theorem capOf_le (j : Axis) (a : AuthEntry) (c : AxisChannel) (lim : Limits) : capOf j a c lim ≤ 100 := by
  unfold capOf
  split <;> omega

theorem cappedSpeed_le {vmax cap : Nat} (small : cap ≤ 100) : cappedSpeed vmax cap ≤ vmax := by
  unfold cappedSpeed
  exact Nat.div_le_of_le_mul (by rw [mul_comm]; exact Nat.mul_le_mul_right vmax small)

theorem demandCandidate_le (hv : m.v.natAbs ≤ lim.vmax) : (demandCandidate j a c m lim held).natAbs ≤ lim.vmax := by
  have limit := cappedSpeed_le (vmax := lim.vmax) (capOf_le j a c lim)
  have demand : ((if zeroDemand a held then 0 else clamp (-(cappedSpeed lim.vmax (capOf j a c lim) : Int))
      (cappedSpeed lim.vmax (capOf j a c lim)) (targetDemand m lim)) : Int).natAbs ≤ lim.vmax := by
    unfold clamp
    split <;> omega
  unfold demandCandidate
  dsimp only
  split
  · split
    · rename_i landing
      simp only [lands, Bool.and_eq_true, decide_eq_true_eq] at landing
      obtain ⟨-, -, close⟩ := landing
      exact close.trans limit
    · exact accelerate_le hv demand
  · exact accelerate_le hv demand

theorem candidate_demand {s : State} (free : followsPath (s.auth.get j) s.generator.held = false)
    (moving : (s.channels.get j).moving = some m) (limits : (s.channels.get j).limits = some lim) :
    s.candidate j = some (demandCandidate j (s.auth.get j) (s.channels.get j) m lim s.generator.held) := by
  rw [State.candidate, moving, limits]
  dsimp only
  split
  · rw [free]; rfl
  · rfl

theorem candidate_some {s : State} (moving : (s.channels.get j).moving = some m)
    (limits : (s.channels.get j).limits = some lim) : ∃ vc, s.candidate j = some vc := by
  rw [State.candidate, moving, limits]
  dsimp only
  split
  · split <;> exact ⟨_, rfl⟩
  · exact ⟨_, rfl⟩

end Demand

/-! ### A step -/

section Step

variable {s : State} {j : Axis} {m : Moving} {lim : Limits} {vc : Int}

theorem steps_get (moving : (s.channels.get j).moving = some m) (limits : (s.channels.get j).limits = some lim)
    (candidate : s.candidate j = some vc) : s.steps.get j =
      if followsPath (s.auth.get j) s.generator.held then
        some ⟨insideLimits m.p lim (playbackStage j m.v vc lim.aStop (s.zonesAhead s.reaches j m.p vc)).v,
          (playbackStage j m.v vc lim.aStop (s.zonesAhead s.reaches j m.p vc)).causes ++
            speedCauses j vc lim (s.slowAnswer s.reaches j)⟩
      else
        some ⟨insideLimits m.p lim (boundaryStage j m.v vc lim.aStop
            (softBoundary m.p vc lim ++ s.zonesAhead s.reaches j m.p vc)).v,
          (boundaryStage j m.v vc lim.aStop (softBoundary m.p vc lim ++ s.zonesAhead s.reaches j m.p vc)).causes⟩ := by
  rw [State.steps, Tab.get_ofFn, State.stepOf, moving, limits, State.candidates, Tab.get_ofFn, candidate]

/-- The step of an axis: held inside its limits, and outside a take no faster than its vmax. -/
theorem steps_bounded (moving : (s.channels.get j).moving = some m) (limits : (s.channels.get j).limits = some lim) :
    ∃ o w, s.steps.get j = some o ∧ o.v = insideLimits m.p lim w ∧
      ((s.mode j).underTake = false → m.v.natAbs ≤ lim.vmax → o.v.natAbs ≤ lim.vmax) := by
  obtain ⟨vc, candidate⟩ := candidate_some moving limits
  have step := steps_get moving limits candidate
  cases follows : followsPath (s.auth.get j) s.generator.held with
  | true =>
    rw [follows, if_pos rfl] at step
    refine ⟨_, _, step, rfl, fun apart => ?_⟩
    have playback : s.mode j = .playback := of_decide_eq_true (Bool.and_eq_true_iff.mp follows).1
    rw [playback] at apart
    exact nomatch apart
  | false =>
    rw [follows, if_neg Bool.false_ne_true] at step
    refine ⟨_, _, step, rfl, fun _ slow => (insideLimits_le _ _ _).trans (boundaryStage_le slow ?_)⟩
    have demand := candidate_demand follows moving limits
    rw [candidate] at demand
    cases demand
    exact demandCandidate_le slow

theorem finishSteps_moving {steps : Tab 10 (Option StepOut)} (moving : ((s.finishSteps steps).channels.get j).moving = some m) :
    ∃ m0, (s.channels.get j).moving = some m0 ∧ ∀ o, steps.get j = some o → m.p = m0.p + o.v ∧ m.v = o.v := by
  rw [State.finishSteps, Tab.get_imap] at moving
  split at moving
  · rename_i m0 o was step
    cases moving
    refine ⟨m0, was, fun o' step' => ?_⟩
    rw [step] at step'
    cases step'
    exact ⟨rfl, rfl⟩
  · rename_i none
    refine ⟨m, moving, fun o step => absurd step (none m o moving)⟩

theorem supplied_limits (s : State) (j : Axis) : (s.moveTrims.supplyTargets.channels.get j).limits = s.limits j :=
  ((moveTrims_steady (lost := fun _ => True) s).trans (supplyTargets_steady _)).limits j

/-- A finished setpoint lies one bounded step from where the update found it. -/
theorem generate_bounded (moving : (s.generate.channels.get j).moving = some m) (limits : s.limits j = some lim) :
    ∃ m0 w, (s.channels.get j).moving = some m0 ∧ m.p = m0.p + insideLimits m0.p lim w ∧ m.v = insideLimits m0.p lim w ∧
      ((s.mode j).underTake = false → m0.v.natAbs ≤ lim.vmax → m.v.natAbs ≤ lim.vmax) := by
  obtain ⟨m1, moving1, finished⟩ := finishSteps_moving (s := s.stepped) (steps := s.stepsTaken) moving
  have later : s.moveTrims.supplyTargets.Steady (fun _ => True) s.stepped :=
    (takeCaps_steady _ _).trans (raiseSteps_steady _ _)
  have sooner : s.Steady (fun _ => True) s.moveTrims.supplyTargets := (moveTrims_steady _).trans (supplyTargets_steady _)
  obtain ⟨m2, moving2, p2, -⟩ := later.moves j m1 moving1
  obtain ⟨m0, moving0, p0, v0⟩ := sooner.moves j m2 moving2
  obtain ⟨o, w, step, inside, slow⟩ := steps_bounded moving2 ((supplied_limits s j).trans limits)
  obtain ⟨p, v⟩ := finished o step
  refine ⟨m0, w, moving0, ?_, ?_, fun apart small => ?_⟩
  · rw [p, p2, inside, p0]
  · rw [v, inside, p0]
  · rw [v]
    refine slow apart ?_
    obtain same | zero := v0
    · rw [same]; exact small
    · rw [zero]; exact Nat.zero_le _

end Step

/-! ### The update (R14 to R18) -/

section Update

variable {s : State} {j : Axis} {m : Moving} {lim : Limits}

theorem sendFrame_channels (s : State) : s.sendFrame.channels = s.channels := rfl

/-- After the step no setpoint moves until the next update. -/
theorem updateOnce_moves (moving : (s.updateOnce.channels.get j).moving = some m) :
    ∃ m', (s.beginUpdate.generate.channels.get j).moving = some m' ∧ m.p = m'.p ∧ (m.v = m'.v ∨ m.v = 0) := by
  rw [updateOnce_eq, countReport_channels] at moving
  have before : s.beginUpdate.generate.Steady (fun _ => True) _ := readyToSend_steady fun _ kept => absurd trivial kept
  have after := afterSend_steady (lost := fun _ => True) s.beginUpdate.generate.readyToSend.sendFrame
  obtain ⟨m1, moving1, p1, v1⟩ := after.moves j m moving
  rw [sendFrame_channels] at moving1
  obtain ⟨m2, moving2, p2, v2⟩ := before.moves j m1 moving1
  exact ⟨m2, moving2, p1.trans p2, v1.elim (fun same => v2.imp same.trans same.trans) .inr⟩

theorem updateOnce_tells {c : Cause} (told : c ∈ s.beginUpdate.stepped.stop.memory ∧ 1 ≤ s.beginUpdate.stepped.stop.level) :
    c ∈ s.updateOnce.stop.memory ∧ 1 ≤ s.updateOnce.stop.level := by
  have after : s.beginUpdate.stepped.Advances (fun _ => True) s.beginUpdate.generate.readyToSend.sendFrame.afterSend :=
    (finishSteps_advances _ _).trans ((readyToSend_steady fun _ kept => absurd trivial kept).toAdvances.trans
      ((sendFrame_advances _).trans (afterSend_steady _).toAdvances))
  have stop : s.updateOnce.stop = s.beginUpdate.generate.readyToSend.sendFrame.afterSend.stop := by
    rw [updateOnce_eq, (State.countReport_frame _).1]
  rw [stop]
  exact ⟨after.memory c told.1, told.2.trans after.level⟩

theorem raiseSteps_told {c : Cause} {cs : List Cause} (mem : c ∈ cs) (s : State) :
    c ∈ (s.raiseSteps cs).stop.memory ∧ 1 ≤ (s.raiseSteps cs).stop.level := by
  induction cs generalizing s with
  | nil => exact nomatch mem
  | cons a cs ih =>
    obtain rfl | later := List.mem_cons.mp mem
    · have rest := raiseSteps_steady (lost := fun _ => True) (s.raise c 1) cs
      exact ⟨rest.memory c (raise_memory _ _ _ _ (.inl rfl)),
        le_trans (le_trans (le_max_right _ _) (State.le_raise_level c 1)) rest.level⟩
    · exact ih later (s.raise a 1)

/-- A cause of an axis's step is raised by the update. -/
theorem updateOnce_raises {o : StepOut} {c : Cause} (step : s.beginUpdate.stepsTaken.get j = some o) (mem : c ∈ o.causes) :
    c ∈ s.updateOnce.stop.memory ∧ 1 ≤ s.updateOnce.stop.level := by
  refine updateOnce_tells (raiseSteps_told (List.mem_flatMap.mpr ⟨j, List.mem_finRange j, ?_⟩) _)
  rw [show s.beginUpdate.moveTrims.supplyTargets.steps.get j = some o from step]
  exact mem

theorem beginUpdate_auth (idle : s.play.state = .idle) : s.beginUpdate.auth = s.auth := by
  have halted : s.countHalt.auth = s.auth ∧ s.countHalt.play = s.play := by
    unfold State.countHalt State.haltRunsOut
    split
    · exact ⟨rfl, rfl⟩
    · split
      · split
        · obtain ⟨u, isU⟩ : ∃ u : State, { s with stop := { s.stop with haltTimer := none } } = u := ⟨_, rfl⟩
          have stopped : u.Stopped := by rw [← isU]; exact .inl idle
          obtain ⟨auth, play, -⟩ := raise_asOnce u .haltTimeout 3
          rw [isU, auth, play, State.raiseOnce_auth stopped, raiseOnce_stopped_play stopped, ← isU]
          exact ⟨rfl, rfl⟩
        · exact ⟨rfl, rfl⟩
      · exact ⟨rfl, rfl⟩
  rw [State.beginUpdate, State.dropTaken, State.engineBegin, halted.2, idle]
  exact halted.1

end Update

/-! ### Zones that block (R14, R91) -/

section Zones

variable {u : State} {k : Motion} {p : Int} {z : ZoneId} {b : Boundary}

theorem zoneBoundary_eq_some : u.zoneBoundary u.reaches k p z = some b ↔ ∃ gap, b = ⟨gap, some z⟩ ∧ u.Blocks k p z gap := by
  unfold State.zoneBoundary State.Blocks ofCount
  dsimp only
  cases ranges : (u.zone z).entry.ranges.get k with
  | none => simp
  | some ends =>
    obtain ⟨lo, hi⟩ := ends
    by_cases meets : (u.zone z).active = true ∧ (u.zone z).entry.kind = .hard ∧ (u.zone z).entry.metBy u.reaches = true
    · obtain ⟨active, hard, met⟩ := meets
      dsimp only
      rw [if_pos ⟨active, hard, met⟩]
      split
      · rename_i below
        constructor
        · rintro ⟨⟩
          exact ⟨_, rfl, active, hard, met, lo, hi, rfl, .inl ⟨below, rfl⟩⟩
        · rintro ⟨gap, rfl, -, -, -, _, _, ⟨⟩, ⟨-, rfl⟩ | ⟨above, -⟩⟩
          · rfl
          · omega
      · rename_i notBelow
        split
        · rename_i above
          constructor
          · rintro ⟨⟩
            exact ⟨_, rfl, active, hard, met, lo, hi, rfl, .inr ⟨by omega, above, rfl⟩⟩
          · rintro ⟨gap, rfl, -, -, -, _, _, ⟨⟩, ⟨below, -⟩ | ⟨-, -, rfl⟩⟩
            · exact absurd below notBelow
            · rfl
        · rename_i notAbove
          refine ⟨nofun, ?_⟩
          rintro ⟨gap, rfl, -, -, -, _, _, ⟨⟩, ⟨below, -⟩ | ⟨-, above, -⟩⟩
          · exact absurd below notBelow
          · exact absurd above notAbove
    · dsimp only
      rw [if_neg meets]
      exact ⟨nofun, fun ⟨gap, _, active, hard, met, _⟩ => absurd ⟨active, hard, met⟩ meets⟩

theorem motionOf_motionAxis (k : Motion) : motionOf (motionAxis k) = some k := by
  rw [motionOf, dif_pos (show (motionAxis k).val < 7 from k.isLt)]
  rfl

theorem zonesAhead_motion {vc : Int} (moves : vc ≠ 0) :
    u.zonesAhead u.reaches (motionAxis k) p vc = allZones.filterMap (u.zoneBoundary u.reaches k p) := by
  rw [State.zonesAhead, motionOf_motionAxis]
  exact if_neg moves

theorem mem_zonesAhead {gap : Int} {vc : Int} (moves : vc ≠ 0) (listed : z ∈ allZones) (blocks : u.Blocks k p z gap) :
    (⟨gap, some z⟩ : Boundary) ∈ u.zonesAhead u.reaches (motionAxis k) p vc := by
  rw [zonesAhead_motion moves]
  exact List.mem_filterMap.mpr ⟨z, listed, zoneBoundary_eq_some.mpr ⟨gap, rfl, blocks⟩⟩

/-- The first blocking zone that meets a test. -/
theorem firstZone_ahead {gap : Int} {vc : Int} {before rest : List ZoneId} {test : Boundary → Bool} (moves : vc ≠ 0)
    (order : allZones = before ++ z :: rest) (blocks : u.Blocks k p z gap) (meets : test ⟨gap, some z⟩ = true)
    (earlier : ∀ y ∈ before, ∀ g, u.Blocks k p y g → test ⟨g, some y⟩ = false) :
    firstZone (u.zonesAhead u.reaches (motionAxis k) p vc) test = some z := by
  rw [zonesAhead_motion moves, order]
  refine firstZone_filterMap (fun y b is => ?_) (zoneBoundary_eq_some.mpr ⟨gap, rfl, blocks⟩) meets fun y mem b' is => ?_
  · obtain ⟨g, rfl, -⟩ := zoneBoundary_eq_some.mp is
    rfl
  · obtain ⟨g, rfl, blocks⟩ := zoneBoundary_eq_some.mp is
    exact earlier y mem g blocks

end Zones

/-- Settles O20: a step is held inside the limits and outside a take below vmax, and the causes of the step are those of its
boundaries and its cap. -/
theorem noUpdateExceedsVmax : Obligations.NoUpdateExceedsVmax := by
  refine ⟨fun s j m lim awake moving limits => ⟨_, awake_next _ awake, fun m' moving' => ?bounds⟩,
    fun s u k j m lim vc awake isU isJ moving limits candidate moves => ⟨_, awake_next _ awake, ?causes⟩⟩
  case bounds =>
    have start := beginUpdate_steady (lost := fun _ => True) s
    obtain ⟨m1, moving1, p1, v1⟩ := updateOnce_moves moving'
    obtain ⟨m0, w, moving0, p0, v0, slow⟩ := generate_bounded moving1 ((start.limits j).trans limits)
    obtain ⟨n, was, p, v⟩ := start.moves j m0 moving0
    rw [moving] at was
    cases was
    have place : m'.p = m.p + insideLimits m.p lim w := by rw [p1, p0, p]
    obtain ⟨inside, above, below⟩ := insideLimits_inward m.p lim w
    rw [← place] at inside above below
    refine ⟨inside, above, below, fun idle apart small => ?_⟩
    have mode : s.beginUpdate.mode j = s.mode j := by rw [State.mode, beginUpdate_auth idle]; rfl
    have bound := slow (by rw [mode]; exact apart) (by
      obtain same | zero := v
      · rw [same]; exact small
      · rw [zero]; exact Nat.zero_le _)
    refine ⟨?_, ?_⟩
    · obtain same | zero := v1
      · rw [same]; exact bound
      · rw [zero]; exact Nat.zero_le _
    · rw [place, add_sub_cancel_left, ← p, ← v0]
      exact bound
  case causes =>
    have step := steps_get moving limits candidate
    subst isJ
    have steps : s.beginUpdate.stepsTaken = u.steps := by rw [isU]; rfl
    rw [← steps] at step
    have listed {before rest : List ZoneId} {z : ZoneId} (order : allZones = before ++ z :: rest) : z ∈ allZones := by
      rw [order]
      exact List.mem_append_right _ (List.mem_cons_self ..)
    refine ⟨fun before z rest gap order blocks fast earlier => ?overrun,
      fun playback clear honoured before z rest gap order blocks reduces earlier => ?block,
      fun playback clear z cap answer exceeds => ?speed⟩
    case overrun =>
      have ahead := mem_zonesAhead moves (listed order) blocks
      have first := firstZone_ahead (test := fun b => decide ((permittedSpeed b.gap lim.aStop : Int) <
        (m.v.natAbs : Int) - lim.aStop)) moves order blocks (decide_eq_true fast) fun y mem g blocks =>
          decide_eq_false (not_lt.mpr (earlier y mem g blocks))
      split at step
      · refine updateOnce_raises step (List.mem_append.mpr (.inl ?_))
        rw [(stages_overrun ahead fast).2, overrun_causes first]
        exact List.mem_singleton_self _
      · refine updateOnce_raises step ?_
        dsimp only
        rw [(stages_overrun (List.mem_append_right _ ahead) fast).1, overrun_causes ((firstZone_soft ..).trans first)]
        exact List.mem_singleton_self _
    case block =>
      have follows : followsPath (u.auth.get (motionAxis k)) u.generator.held = true := by
        rw [followsPath, clear, playback]; rfl
      have ahead := mem_zonesAhead moves (listed order) blocks
      have first := firstZone_ahead (test := fun b => decide (permittedSpeed b.gap lim.aStop < vc.natAbs)) moves order
        blocks (decide_eq_true reduces) fun y mem g blocks => decide_eq_false (not_lt.mpr (earlier y mem g blocks))
      rw [follows, if_pos rfl] at step
      refine updateOnce_raises step (List.mem_append.mpr (.inl ?_))
      rw [playbackStage_blocks ahead reduces (fun b mem => ?_) first]
      · exact List.mem_singleton_self _
      · rw [zonesAhead_motion moves] at mem
        obtain ⟨y, -, is⟩ := List.mem_filterMap.mp mem
        obtain ⟨g, rfl, blocks⟩ := zoneBoundary_eq_some.mp is
        exact honoured y g blocks
    case speed =>
      have follows : followsPath (u.auth.get (motionAxis k)) u.generator.held = true := by
        rw [followsPath, clear, playback]; rfl
      rw [follows, if_pos rfl] at step
      refine updateOnce_raises step (List.mem_append.mpr (.inr ?_))
      rw [answer]
      show _ ∈ if lim.vmax * cap / 100 < vc.natAbs then [Cause.zoneSpeed z (motionAxis k)] else []
      rw [if_pos exceeds]
      exact List.mem_singleton_self _

end Sys2Proof.Machine
end

section
/-! The update while the stop flag is HELD (O19): an axis at rest stays, and the halt point. -/

namespace Sys2Proof.Machine

/-! ### An axis at rest -/

section Rest

variable {s : State} {j : Axis} {m : Moving} {lim : Limits} {o : StepOut}

theorem demandCandidate_rest {a : AuthEntry} {c : AxisChannel} (rest : m.v = 0) : demandCandidate j a c m lim true = 0 := by
  have stays (braking : Bool) (h : braking = true) : accelerate m.v 0 lim.aAccel lim.aStop braking = 0 := by
    rw [accelerate, if_pos ⟨h, .inl rfl⟩, rest, Int.sign_zero, zero_mul, sub_zero]
  unfold demandCandidate
  dsimp only [zeroDemand]
  simp only [Bool.true_or, if_true, Bool.not_true, Bool.false_and, Bool.false_eq_true, if_false]
  split <;> exact stays _ rfl

/-- While HELD an axis at rest takes no step (R10). -/
theorem steps_rest (held : s.generator.held = true) (moving : (s.channels.get j).moving = some m) (rest : m.v = 0)
    (step : s.steps.get j = some o) : o.v = 0 := by
  cases limits : (s.channels.get j).limits with
  | none =>
    rw [State.steps, Tab.get_ofFn, State.stepOf, moving, limits] at step
    exact nomatch step
  | some lim =>
    have free : followsPath (s.auth.get j) s.generator.held = false := by rw [followsPath, held]; exact Bool.and_false _
    have candidate := candidate_demand free moving limits
    rw [held, demandCandidate_rest rest] at candidate
    have taken := steps_get moving limits candidate
    rw [free, if_neg Bool.false_ne_true, step] at taken
    cases taken
    have none : softBoundary m.p 0 lim ++ s.zonesAhead s.reaches j m.p 0 = [] := by
      unfold softBoundary State.zonesAhead
      rw [if_neg (by decide), if_neg (by decide), List.nil_append]
      split
      · exact if_pos rfl
      · rfl
    rw [none]
    show insideLimits m.p lim 0 = 0
    unfold insideLimits
    split <;> omega

theorem finishSteps_waits {steps : Tab 10 (Option StepOut)} (none : steps.get j = none) :
    (s.finishSteps steps).channels.get j = s.channels.get j := by
  rw [State.finishSteps, Tab.get_imap, none]
  split
  · rename_i step; exact nomatch step
  · rfl

/-- While HELD the step of the generator leaves an axis at rest. -/
theorem generate_rest (held : s.generator.held = true) (rest : ∀ m, (s.channels.get j).moving = some m → m.v = 0)
    (moving : (s.generate.channels.get j).moving = some m) :
    ∃ m0, (s.channels.get j).moving = some m0 ∧ m.p = m0.p ∧ m.v = 0 := by
  obtain ⟨u, isU⟩ : ∃ u, s.moveTrims.supplyTargets = u := ⟨_, rfl⟩
  have sooner : s.Steady (fun _ => True) u := by
    rw [← isU]
    exact (moveTrims_steady _).trans (supplyTargets_steady _)
  have later : u.Steady (fun _ => True) s.stepped := by
    rw [State.stepped, isU]
    exact (takeCaps_steady _ _).trans (raiseSteps_steady _ _)
  have stepsTaken : s.stepsTaken = u.steps := by rw [State.stepsTaken, isU]
  obtain ⟨m1, moving1, finished⟩ := finishSteps_moving (s := s.stepped) (steps := s.stepsTaken) moving
  obtain ⟨m2, moving2, p2, v2⟩ := later.moves j m1 moving1
  obtain ⟨m0, moving0, p0, v0⟩ := sooner.moves j m2 moving2
  have still0 := rest m0 moving0
  have still2 : m2.v = 0 := v0.elim (fun same => same.trans still0) id
  refine ⟨m0, moving0, ?_⟩
  cases step : s.stepsTaken.get j with
  | some o =>
    obtain ⟨p, v⟩ := finished o step
    have none := steps_rest (sooner.held held) moving2 still2 (stepsTaken ▸ step)
    rw [p, v, none, p2, p0]
    exact ⟨add_zero _, rfl⟩
  | none =>
    rw [generate_eq, finishSteps_waits step, moving1] at moving
    cases moving
    exact ⟨p2.trans p0, v2.elim (fun same => same.trans still2) id⟩

end Rest

/-! ### The halt point (R57) -/

section Halt

variable {s y : State} {j : Axis}

/-- A drive parked at the halt point where it is ACTIVE. -/
def State.parkActive (t : State) (j : Axis) : State := if t.driveState j = .active then t.driveTo j .parking true else t

theorem parkActive_other {i : Axis} (t : State) (other : i ≠ j) : (t.parkActive i).driveView j = t.driveView j := by
  unfold State.parkActive
  split
  · exact driveTo_other _ _ other
  · rfl

theorem haltPoint_reached (reached : s.atHaltPoint = true) : s.haltPoint = allAxes.foldl State.parkActive s := if_pos reached

theorem haltPoint_waits (waits : s.atHaltPoint = false) : s.haltPoint = s := by
  rw [State.haltPoint, waits]
  rfl

/-- At the halt point every ACTIVE drive is PARKING and its axis gives up its setpoint. -/
theorem haltPoint_parks (reached : s.atHaltPoint = true) (active : s.driveState j = .active) :
    s.haltPoint.driveState j = .parking ∧ (s.haltPoint.port.drives.get j).wait = 0 ∧
      (s.haltPoint.channels.get j).moving = none := by
  obtain ⟨before, after, -, same, last⟩ := foldl_at (fun t => State.driveView t j) (f := State.parkActive)
    (by decide : allAxes.Nodup) (List.mem_finRange j : j ∈ allAxes) (fun t b _ other => parkActive_other t other) s
  obtain ⟨t, isT⟩ : ∃ t, before.foldl State.parkActive s = t := ⟨_, rfl⟩
  rw [isT] at same last
  have drive : t.port.drives.get j = s.port.drives.get j := congrArg DriveView.drive same
  have active' : t.driveState j = .active := by rw [State.driveState, drive]; exact active
  rw [← haltPoint_reached reached, State.parkActive, if_pos active', driveTo_same _ active'] at last
  have parked := congrArg DriveView.drive last
  exact ⟨congrArg Drive.state parked, congrArg Drive.wait parked,
    congrArg AxisChannel.moving (congrArg DriveView.channel last)⟩

theorem haltPoint_frame (s : State) : s.haltPoint = { s with
    links := s.haltPoint.links, takes := s.haltPoint.takes, channels := s.haltPoint.channels
    port := { s.port with drives := s.haltPoint.port.drives } } := by
  have fold (l : List Axis) (t : State) : l.foldl State.parkActive t = { t with
      links := (l.foldl State.parkActive t).links, takes := (l.foldl State.parkActive t).takes
      channels := (l.foldl State.parkActive t).channels
      port := { t.port with drives := (l.foldl State.parkActive t).port.drives } } := by
    induction l generalizing t with
    | nil => rfl
    | cons a l ih =>
      have one : t.parkActive a = { t with
          links := (t.parkActive a).links, takes := (t.parkActive a).takes, channels := (t.parkActive a).channels
          port := { t.port with drives := (t.parkActive a).port.drives } } := by
        unfold State.parkActive
        split
        · rw [driveTo_eq]
        · rfl
      rw [List.foldl_cons, ih, one]
  cases reached : s.atHaltPoint with
  | true => rw [haltPoint_reached reached]; exact fold allAxes s
  | false => rw [haltPoint_waits reached]

theorem caughtUp_congr (moving : ((y.channels.get j).moving.map fun m => m.p) = (s.channels.get j).moving.map fun m => m.p)
    (limits : y.limits j = s.limits j) (report : (y.port.drives.get j).lastReport = (s.port.drives.get j).lastReport) :
    y.caughtUp j = s.caughtUp j := by
  unfold State.caughtUp
  rw [limits, report]
  cases here : (y.channels.get j).moving <;> cases there : (s.channels.get j).moving <;> rw [here, there] at moving
  · exact nomatch moving
  · exact nomatch moving
  · rename_i a b
    have p : a.p = b.p := Option.some.inj moving
    cases s.limits j with
    | none => rfl
    | some lim =>
      cases (s.port.drives.get j).lastReport with
      | none => rfl
      | some r => dsimp only; rw [p]

theorem atHaltPoint_iff (level : s.stop.level = 2) (reported : s.generator.standstillReported = true) :
    s.atHaltPoint = true ↔ ∀ j, s.driveState j = .active → s.caughtUp j = true := by
  unfold State.atHaltPoint
  rw [reported, level]
  constructor
  · intro all j active
    have one := List.all_eq_true.mp (Bool.and_eq_true_iff.mp all).2 j (List.mem_finRange j)
    rw [active] at one
    exact one
  · refine fun all => Bool.and_eq_true_iff.mpr ⟨rfl, List.all_eq_true.mpr fun j _ => ?_⟩
    by_cases active : s.driveState j = .active
    · rw [all j active, Bool.or_true]
    · rw [decide_eq_false active]
      rfl

/-- With every axis at rest the standstill has been reported once its test is done (R21). -/
theorem standstillTest_reported (held : s.generator.held = true) (rest : s.atRest = true) :
    s.standstillTest.generator.standstillReported = true := by
  unfold State.standstillTest
  split
  · rfl
  · rename_i not
    cases reported : s.generator.standstillReported with
    | true => rfl
    | false => exact absurd ⟨held, reported, rest⟩ not

theorem atRest_of (rest : ∀ j m, (s.channels.get j).moving = some m → m.v = 0) : s.atRest = true :=
  List.all_eq_true.mpr fun j _ => by
    split
    · rename_i m moving; exact decide_eq_true (rest j m moving)
    · rfl

theorem engineBegin_stopped (stopped : s.Stopped) : s.engineBegin = s := by
  unfold State.engineBegin
  obtain idle | ⟨h, e, paused⟩ := stopped
  · rw [idle]
  · rw [paused]

theorem judges_stopped (stopped : s.Stopped) : s.judgeArrival.judgeEnd = s := by
  have arrival : s.judgeArrival = s := by
    unfold State.judgeArrival
    obtain idle | ⟨h, e, paused⟩ := stopped
    · rw [idle]
    · rw [paused]
  rw [arrival]
  unfold State.judgeEnd
  obtain idle | ⟨h, e, paused⟩ := stopped
  · rw [idle]
  · rw [paused]

/-- Up to the counts, an update while HELD at which nothing stops the crane leaves every axis at rest where it stands. -/
theorem counted_rest {b : State} (inactive : ∀ z, (b.zone z).active = false) (held : b.generator.held = true)
    (rest : ∀ j m, (b.channels.get j).moving = some m → m.v = 0) (kept : b.generate.Kept y) :
    (∀ j m, (y.channels.get j).moving = some m → m.v = 0) ∧
      ∀ j, ((y.channels.get j).moving.map fun m => m.p) = (b.channels.get j).moving.map fun m => m.p := by
  obtain ⟨-, -, -, -, -, -, -, -, -, -, -, channel⟩ := kept
  refine ⟨fun j m moving => ?_, fun j => ?_⟩
  · obtain ⟨f, same⟩ := channel j
    rw [same] at moving
    obtain ⟨m1, moving1, rfl⟩ := Option.map_eq_some_iff.mp moving
    obtain ⟨-, -, -, still⟩ := generate_rest held (rest j) moving1
    exact still
  · obtain ⟨f, same⟩ := channel j
    obtain ⟨-, -, -, none, -⟩ := State.generate_channel b inactive j
    rw [same]
    cases generated : (b.generate.channels.get j).moving with
    | none => rw [none.mp generated]; rfl
    | some m1 =>
      obtain ⟨m0, moving0, p, -⟩ := generate_rest held (rest j) generated
      rw [moving0]
      exact congrArg some p

/-- An update at level 2 at which nothing stops the crane and every axis is at rest: the state `y` before the halt point. -/
theorem restingUpdate (quiet : s.Quiet) (level : s.stop.level = 2) (held : s.generator.held = true) (stopped : s.Stopped)
    (rest : ∀ j m, (s.channels.get j).moving = some m → m.v = 0) :
    ∃ y : State, exec .update s = .next y.haltPoint.sendFrame.recordUpdate.countReport ∧ y.stop.level = 2 ∧
      y.generator.standstillReported = true ∧ (∀ j, y.driveState j = s.driveState j) ∧
      ∀ j, y.caughtUp j = s.caughtUp j := by
  obtain ⟨awake, halt, inactive, seen, port, -⟩ := quiet
  obtain ⟨x, halted⟩ := State.countHalt_quiet s halt
  obtain ⟨b, isB⟩ : ∃ b, s.beginUpdate = b := ⟨_, rfl⟩
  have begun : b = { s with stop := { s.stop with haltTimer := x }, taken := b.taken } := by
    rw [← isB, State.beginUpdate, halted, engineBegin_stopped (s := { s with stop := { s.stop with haltTimer := x } }) stopped]
    rfl
  have bInactive (z : ZoneId) : (b.zone z).active = false := by rw [begun]; exact inactive z
  have generated := State.generate_frame b bInactive
  obtain ⟨w, isW⟩ : ∃ w, b.generate.countUpdate = w := ⟨_, rfl⟩
  have kept : b.generate.Kept w := by
    rw [← isW]
    exact State.countUpdate_kept _ fun st => by rw [generated, begun]; exact seen st
  obtain ⟨still, places⟩ := counted_rest bInactive (by rw [begun]; exact held) (by rw [begun]; exact rest) kept
  have limits (j : Axis) : w.limits j = s.limits j := by
    obtain ⟨-, -, -, -, -, -, -, -, -, -, -, channel⟩ := kept
    obtain ⟨f, same⟩ := channel j
    have step := (State.generate_channel b bInactive j).1
    rw [State.limits, same]
    exact step.trans (by rw [begun]; rfl)
  obtain ⟨wPlay, -, -, wPort, wZones, wStop, wGenerator, -⟩ := kept
  rw [generated, begun] at wPlay wPort wZones wStop wGenerator
  obtain ⟨frame, vLevel, -⟩ := State.standstillTest_frame w
  obtain ⟨v, isV⟩ : ∃ v, w.standstillTest = v := ⟨_, rfl⟩
  have reported := standstillTest_reported (s := w) (by rw [wGenerator]; exact held) (atRest_of still)
  rw [isV] at frame vLevel reported
  have vPort : v.port = s.port := by rw [frame]; exact wPort
  obtain ⟨D, folds, drives⟩ := State.portFolds_quiet v fun j => by
    unfold State.fallsSilent State.unanswered State.driveState
    rw [vPort]
    exact port j
  have yDrive (j : Axis) : (D.get j).state = (s.port.drives.get j).state ∧
      (D.get j).lastReport = (s.port.drives.get j).lastReport := by
    obtain ⟨p, q, same⟩ := drives j
    rw [same, vPort]
    exact ⟨rfl, rfl⟩
  obtain ⟨y, isY⟩ : ∃ y : State, { v with port := { v.port with drives := D } } = y := ⟨_, rfl⟩
  have yStop : y.stop.level = 2 := by
    rw [← isY]
    exact vLevel.trans (by rw [wStop]; exact level)
  have yPlay : y.play = s.play := by rw [← isY, frame]; exact wPlay
  have yZones : y.zones = s.zones := by rw [← isY, frame]; exact wZones
  refine ⟨y, ?_, yStop, by rw [← isY]; exact reported, fun j => ?_, fun j => caughtUp_congr ?_ ?_ ?_⟩
  · have worked : v.portWork = y.haltPoint := by rw [State.portWork, folds, isY]
    have tested : y.haltPoint.sendFrame.testAllZones = y.haltPoint.sendFrame := by
      refine State.testZones_quiet _ _ _ fun z => ?_
      rw [haltPoint_frame]
      show (y.zone z).active = false
      rw [State.zone, yZones]
      exact inactive z
    have ends : y.haltPoint.sendFrame.recordUpdate.judgeArrival.judgeEnd = y.haltPoint.sendFrame.recordUpdate := by
      refine judges_stopped ?_
      unfold State.Stopped
      rw [recordUpdate_play, haltPoint_frame]
      show y.play.state = _ ∨ ∃ h e, y.play.state = _
      rw [yPlay]
      exact stopped
    show execUpdate s = _
    rw [execUpdate, awake_next _ awake, State.updateOnce, isB, isW, State.handOff, isV, worked, tested, ends]
  · rw [← isY]
    exact (yDrive j).1
  · rw [← isY, frame]
    exact (places j).trans (by rw [begun])
  · rw [← isY, frame]
    exact limits j
  · rw [← isY]
    exact (yDrive j).2

theorem sendFrame_sent (s : State) :
    s.sendFrame.port.sent = some ⟨s.port.nextFrame, Tab.ofFn s.frameEntry, Tab.const 10 false⟩ := rfl

theorem recordUpdate_port : s.recordUpdate.port = s.port := by rw [(State.recordUpdate_frame s).1]

theorem countReport_port : s.countReport.port = s.port := by rw [(State.countReport_frame s).1]

/-- Settles O19: the demand of an axis at rest is 0 while HELD, and the halt point is reached where every ACTIVE drive has caught
up. -/
theorem heldAxisAtRestStays : Obligations.HeldAxisAtRestStays := by
  refine ⟨fun s j m awake held moving rest => ⟨_, awake_next _ awake, fun m' moving' => ?stays⟩,
    fun s quiet level held stopped rest => ?halts⟩
  case stays =>
    have start := beginUpdate_steady (lost := fun _ => True) s
    obtain ⟨m1, moving1, p1, v1⟩ := updateOnce_moves moving'
    obtain ⟨m0, moving0, p0, v0⟩ := generate_rest (start.held held) (fun m0 moving0 => by
      obtain ⟨n, was, -, v⟩ := start.moves j m0 moving0
      rw [moving] at was
      cases was
      exact v.elim (fun same => same.trans rest) id) moving1
    obtain ⟨n, was, p, -⟩ := start.moves j m0 moving0
    rw [moving] at was
    cases was
    exact ⟨p1.trans (p0.trans p), v1.elim (fun same => same.trans v0) id⟩
  case halts =>
    obtain ⟨y, run, yLevel, reported, drive, caughtUp⟩ := restingUpdate quiet level held stopped rest
    have reached := atHaltPoint_iff yLevel reported
    have port : y.haltPoint.sendFrame.recordUpdate.countReport.port = y.haltPoint.sendFrame.port := by
      rw [countReport_port, recordUpdate_port]
    have channels : y.haltPoint.sendFrame.recordUpdate.countReport.channels = y.haltPoint.channels := by
      rw [countReport_channels, recordUpdate_channels, sendFrame_channels]
    refine ⟨_, _, run, by rw [port]; exact sendFrame_sent _, fun all j active => ?_, fun i active behind j active' => ?_⟩
    · have caught : y.atHaltPoint = true := reached.mpr fun j active => by
        obtain ⟨m, lim, code, pos, moving, limits, report, near⟩ := all j (by rw [← drive]; exact active)
        rw [caughtUp, State.caughtUp, moving, limits, report]
        exact decide_eq_true near
      obtain ⟨parking, wait, none⟩ := haltPoint_parks caught (by rw [drive]; exact active)
      refine ⟨?_, ?_, by rw [channels]; exact none, ?_⟩
      · rw [State.driveState, port]
        exact parking
      · rw [port]
        exact wait
      · dsimp only
        rw [Tab.get_ofFn, State.frameEntry, parking]
    · have waits : y.atHaltPoint = false := by
        refine Bool.eq_false_of_not_eq_true fun at' => ?_
        have caught := reached.mp at' i (by rw [drive]; exact active)
        rw [caughtUp, State.caughtUp] at caught
        obtain none | ⟨m, lim, code, pos, moving, limits, report, far⟩ := behind
        · rw [none] at caught
          split at caught
          · rename_i report; exact nomatch report
          · exact nomatch caught
        · rw [moving, limits, report] at caught
          have near := of_decide_eq_true caught
          omega
      rw [State.driveState, port, haltPoint_waits waits]
      exact (drive j).trans active'

end Halt

end Sys2Proof.Machine
end

section
/-! The frame of an update and its hand-off (O17). -/

namespace Sys2Proof.Machine

-- The default fields of a structure wait for every proof before them, so these proofs are elaborated in order.
set_option Elab.async false

/-! ### From the frame to the end of the update -/

section HandsOn

variable {s t u : State} {z : ZoneId} {j : Axis} {rz : ZoneId → State → State}

/-- What stands of the frame and the drives once the frame is sent: a drive may still be parked by a raise, and a waking one
taken to PARKING. -/
structure State.Sent (s t : State) : Prop where
  frame : t.port.sent = s.port.sent ∧ t.port.nextFrame = s.port.nextFrame ∧ t.port.line = s.port.line := by
    exact ⟨rfl, rfl, rfl⟩
  drive : ∀ j, t.driveState j = s.driveState j ∨ t.driveState j = .parked ∨
    (s.driveState j = .waking ∧ t.driveState j = .parking) := by exact fun _ => .inl rfl
  settled : s.Settled → t.Settled := by exact id
  place : s.Settled → t.zonePosition = s.zonePosition := by exact fun _ => rfl

theorem State.Sent.trans (h : s.Sent t) (k : t.Sent u) : s.Sent u where
  frame := by
    obtain ⟨sent, next, line⟩ := h.frame
    obtain ⟨sent', next', line'⟩ := k.frame
    exact ⟨sent'.trans sent, next'.trans next, line'.trans line⟩
  drive j := by
    obtain same | parked | ⟨waking, parking⟩ := k.drive j
    · rw [same]; exact h.drive j
    · exact .inr (.inl parked)
    · obtain same | parked | ⟨-, parking'⟩ := h.drive j
      · exact .inr (.inr ⟨same.symm.trans waking, parking⟩)
      · rw [parked] at waking; exact nomatch waking
      · rw [parking'] at waking; exact nomatch waking
  settled := k.settled ∘ h.settled
  place settled := (k.place (h.settled settled)).trans (h.place settled)

/-- A zone is occupied, where it is active and HARD, exactly where the crane is inside it. -/
def State.FitAt (s : State) (z : ZoneId) : Prop := (s.zone z).active = true → (s.zone z).entry.kind = .hard →
  (s.zone z).occupied = (s.zone z).entry.occupiedAt s.zonePosition

def State.Fit (s : State) : Prop := ∀ z, s.FitAt z

theorem State.FitAt.congr (zones : t.zones = s.zones) (place : t.zonePosition = s.zonePosition) (h : s.FitAt z) : t.FitAt z := by
  unfold State.FitAt
  rw [State.zone_congr zones, place]
  exact h

/-- What the parts after the occupancy test of an update keep. -/
structure State.HandsOn (s t : State) : Prop extends s.Sent t where
  fit : s.Settled → s.Fit → t.Fit := by exact fun _ => id

theorem State.HandsOn.trans (h : s.HandsOn t) (k : t.HandsOn u) : s.HandsOn u where
  toSent := h.toSent.trans k.toSent
  fit settled := k.fit (h.settled settled) ∘ h.fit settled

/-- A part that leaves port, zones and level alone and moves no setpoint. -/
theorem handsOn_of (port : t.port = s.port) (zones : t.zones = s.zones) (level : t.stop.level = s.stop.level)
    (setpoint : ∀ j, ((t.channels.get j).moving.map fun m => m.p) = (s.channels.get j).moving.map fun m => m.p) :
    s.HandsOn t := by
  have place : t.zonePosition = s.zonePosition := funext fun m => by
    rw [State.zonePosition_eq, State.zonePosition_eq, setpoint, port]
  have drive (j : Axis) : t.driveState j = s.driveState j := by rw [State.driveState, port]; rfl
  exact { frame := by rw [port]; exact ⟨rfl, rfl, rfl⟩
          drive := fun j => .inl (drive j)
          settled := Or.imp level.trans_le fun inactive j => by rw [drive]; exact inactive j
          place := fun _ => place
          fit := fun _ fit z => (fit z).congr zones place }

theorem onRaise_sent (d : Drive) (n : Nat) : (d.onRaise n).lastReport = d.lastReport ∧
    ((d.onRaise n).state = d.state ∨ (d.onRaise n).state = .parked ∨ (d.state = .waking ∧ (d.onRaise n).state = .parking)) := by
  unfold Drive.onRaise
  cases state : d.state <;> split <;> simp_all

theorem raiseOnce_port (s : State) (c : Cause) (l : Nat) : (s.raiseOnce c l).port =
    { s.port with drives := s.port.drives.map fun d => d.onRaise (max s.stop.level l) } := by
  simp only [State.raiseOnce, State.portOnRaise, closeTake_frame, engineOnRaise_port, takeRaise_frame]

/-- Up to level 2, or with no drive ACTIVE, a raise takes no setpoint away. -/
theorem raiseOnce_setpoint (c : Cause) {l : Nat} (low : l ≤ 2) (settled : s.Settled) (j : Axis) :
    (((s.raiseOnce c l).channels.get j).moving.map fun m => m.p) = (s.channels.get j).moving.map fun m => m.p := by
  have kept : ¬ (max s.stop.level l = 3 ∧ s.driveState j = .active) := by
    rintro ⟨top, active⟩
    obtain settled | inactive := settled
    · omega
    · exact inactive j active
  have port : ((s.takeRaise c l).generatorOnRaise.engineOnRaise.closeTake .interrupted).driveState j = s.driveState j := by
    simp only [State.driveState, closeTake_frame, engineOnRaise_port, takeRaise_frame]
  simp only [State.raiseOnce, State.portOnRaise, Tab.get_imap]
  rw [port, if_neg kept, (closeTake_frame _ .interrupted).2.2.1, State.engine_position, (takeRaise_frame s c l).2.2.1]

theorem raiseOnce_handsOn (c : Cause) {l : Nat} (low : l ≤ 2) (s : State) : s.HandsOn (s.raiseOnce c l) := by
  have drive (j : Axis) : (s.raiseOnce c l).port.drives.get j = (s.port.drives.get j).onRaise (max s.stop.level l) :=
    raiseOnce_drive s c l j
  have place (settled : s.Settled) : (s.raiseOnce c l).zonePosition = s.zonePosition := funext fun m => by
    rw [State.zonePosition_eq, State.zonePosition_eq, raiseOnce_setpoint c low settled, drive, (onRaise_sent _ _).1]
  exact { frame := by rw [raiseOnce_port]; exact ⟨rfl, rfl, rfl⟩
          drive := fun j => by rw [State.driveState, drive]; exact (onRaise_sent _ _).2
          settled := raiseOnce_settled c (low.trans (by decide))
          place := place
          fit := fun settled fit z => (fit z).congr (raiseOnce_zones s c l) (place settled) }

/-! ### Occupancy tests and judgements -/

theorem testFlags_fit {zs : List ZoneId} (others : ∀ z, z ∉ zs → s.FitAt z) : (zs.foldl State.testFlag s).Fit := by
  obtain ⟨-, place, zone⟩ := State.testFlags_zone zs s
  intro z
  unfold State.FitAt
  rw [place, zone]
  split
  · exact fun _ _ => rfl
  · rename_i untested
    intro active hard
    refine others z (fun mem => untested ⟨mem, ?_⟩) active hard
    rw [Zone.tested, active, hard]
    rfl

theorem testFlags_sent (zs : List ZoneId) (s : State) : s.Sent (zs.foldl State.testFlag s) := by
  obtain ⟨stop, place, -⟩ := State.testFlags_zone zs s
  have port : (zs.foldl State.testFlag s).port = s.port := by
    clear stop place
    induction zs generalizing s with
    | nil => rfl
    | cons z zs ih =>
      rw [List.foldl_cons, ih, State.testFlag]
      split
      · exact State.modZone_port ..
      · rfl
  have drive (j : Axis) : (zs.foldl State.testFlag s).driveState j = s.driveState j := by
    rw [State.driveState, port]; rfl
  exact { frame := by rw [port]; exact ⟨rfl, rfl, rfl⟩
          drive := fun j => .inl (drive j)
          settled := Or.imp (by rw [stop]; exact id) fun inactive j => by rw [drive]; exact inactive j
          place := fun _ => place }

theorem foldRaises_handsOn (act : ∀ (t : State) z, t.HandsOn (rz z t)) (zs : List ZoneId) (s : State) :
    s.HandsOn (zs.foldl (fun t z => rz z t) s) := by
  induction zs generalizing s with
  | nil => exact {}
  | cons z zs ih => exact (act s z).trans (ih _)

theorem testZones_sent (act : ∀ (t : State) z, t.HandsOn (rz z t)) (zs : List ZoneId) (s : State) : s.Sent (s.testZones rz zs) :=
  (testFlags_sent zs s).trans (foldRaises_handsOn act _ _).toSent

/-- A test leaves every zone fit that it takes in, and those that were. -/
theorem testZones_fit (act : ∀ (t : State) z, t.HandsOn (rz z t)) {zs : List ZoneId} (settled : s.Settled)
    (others : ∀ z, z ∉ zs → s.FitAt z) : (s.testZones rz zs).Fit :=
  (foldRaises_handsOn act _ _).fit ((testFlags_sent zs s).settled settled) (testFlags_fit others)

theorem rejudgeAll_fitAt (fit : s.FitAt z) (not : z ∉ s.becomingActive) : s.rejudgeAll.FitAt z := by
  unfold State.FitAt
  rw [State.zone_rejudgeAll, State.rejudged]
  intro judged hard
  have was : (s.zone z).active = true := by
    cases active : (s.zone z).active with
    | true => rfl
    | false => exact absurd (State.mem_becoming.mpr ⟨active, judged⟩) not
  rw [show s.entryActive z.table (s.zone z).entry = true from judged, Bool.and_true]
  exact fit was hard

theorem judgeWith_handsOn (act : ∀ (t : State) z, t.HandsOn (rz z t)) (s : State) : s.HandsOn (s.judgeWith rz) where
  toSent := State.Sent.trans (t := s.rejudgeAll) {} (testZones_sent act _ _)
  fit settled fit := testZones_fit act (s := s.rejudgeAll) settled fun z not =>
    rejudgeAll_fitAt (fit z) not

theorem raiseOccupied_handsOn (t : State) (z : ZoneId) : t.HandsOn (State.raiseOccupied z t) := by
  unfold State.raiseOccupied State.raise
  dsimp only
  split
  · exact raiseOnce_handsOn _ le_rfl t
  · exact (raiseOnce_handsOn _ le_rfl t).trans (judgeWith_handsOn (fun u y => raiseOnce_handsOn _ le_rfl u) _)

theorem judgeZones_handsOn (s : State) : s.HandsOn s.judgeZones := judgeWith_handsOn raiseOccupied_handsOn s

theorem testAllZones_sent (s : State) : s.Sent s.testAllZones := testZones_sent raiseOccupied_handsOn allZones s

theorem zone_listed (z : ZoneId) : z ∈ allZones := by
  obtain ⟨table, i⟩ := z
  cases table with
  | set => exact List.mem_append_left _ (List.mem_map_of_mem (List.mem_finRange i : i ∈ allChannels))
  | crew => exact List.mem_append_right _ (List.mem_map_of_mem (List.mem_finRange i : i ∈ allChannels))

theorem testAllZones_fit (settled : s.Settled) : s.testAllZones.Fit :=
  testZones_fit raiseOccupied_handsOn settled fun z not => absurd (zone_listed z) not

/-! ### The hand-off -/

theorem recordUpdate_handsOn (s : State) : s.HandsOn s.recordUpdate := by
  rw [(State.recordUpdate_frame s).1]
  exact {}

theorem judgeArrival_handsOn (s : State) : s.HandsOn s.judgeArrival := by
  obtain ⟨x, engine, -⟩ := judgeArrival_eq s
  rw [engine]
  exact {}

theorem haltAxes_handsOn (s : State) (axes : AxisSet) : s.HandsOn (s.haltAxes axes) :=
  handsOn_of rfl rfl rfl fun j => by
    rw [State.haltAxes, Tab.get_imap]
    split
    · exact Option.map_map ..
    · rfl

theorem dropTake_handsOn (s : State) (h : Hold) : s.HandsOn (s.dropTake h) :=
  handsOn_of rfl rfl rfl fun j => by
    rw [State.dropTake, State.returnAxes, Tab.get_imap]
    split
    · exact Option.map_map ..
    · rfl

theorem post_handsOn (s : State) (st : Station) (f : Notices → Notices) : s.HandsOn (s.post st f) :=
  handsOn_of (State.post_port ..) (State.post_zones ..) (by rw [State.post_stop]) fun j => by rw [State.post_channels]

theorem judgeEnd_handsOn (s : State) : s.HandsOn s.judgeEnd := by
  unfold State.judgeEnd
  split
  · split
    · exact (haltAxes_handsOn s _).trans ((dropTake_handsOn _ _).trans ((post_handsOn _ _ _).trans (judgeZones_handsOn _)))
    · exact {}
  all_goals exact {}

theorem afterTest_handsOn (s : State) : s.HandsOn s.recordUpdate.judgeArrival.judgeEnd :=
  (recordUpdate_handsOn s).trans ((judgeArrival_handsOn _).trans (judgeEnd_handsOn _))

theorem afterSend_sent (s : State) : s.Sent s.afterSend := (testAllZones_sent s).trans (afterTest_handsOn _).toSent

theorem afterSend_fit (settled : s.Settled) : s.afterSend.Fit :=
  (afterTest_handsOn _).fit ((testAllZones_sent s).settled settled) (testAllZones_fit settled)

end HandsOn

/-! ### The bytes of the frame -/

section Line

variable {s : State}

/-- The bytes of the ten entries of the frame being built. -/
def State.entriesBytes (s : State) : List Byte := allAxes.flatMap fun j => entryBytes (s.frameEntry j) (s.inverted j)

/-- The bytes of the frame being built before its CRC-16. -/
def State.frameBody (s : State) : List Byte := [s.port.nextFrame] ++ s.entriesBytes

theorem sendFrame_line (s : State) : s.sendFrame.port.line = s.frameBody ++ crc16Bytes s.frameBody := by
  simp only [State.sendFrame, Tab.get_ofFn]
  rfl

theorem entryBytes_length (e : FrameEntry) (invert : Bool) : (entryBytes e invert).length = 5 := by
  cases e <;> simp [entryBytes]

theorem entriesBytes_length (s : State) : s.entriesBytes.length = 50 :=
  flatMap_length fun j => entryBytes_length (s.frameEntry j) (s.inverted j)

theorem frameBody_length (s : State) : s.frameBody.length = 51 := congrArg Nat.succ (entriesBytes_length s)

theorem line_length (s : State) : s.sendFrame.port.line.length = 53 := by
  rw [sendFrame_line, List.length_append, frameBody_length, crc16Bytes, beBytes_length]

theorem line_number (s : State) : s.sendFrame.port.line.take 1 = [s.port.nextFrame] := by
  rw [sendFrame_line]
  rfl

theorem line_body (s : State) : s.sendFrame.port.line.take 51 = s.frameBody := by
  rw [sendFrame_line, ← frameBody_length s]
  exact List.take_left' rfl

theorem line_crc (s : State) :
    slice s.sendFrame.port.line 51 2 = beBytes 2 (crc16 (s.sendFrame.port.line.take 51)).toNat := by
  rw [line_body, sendFrame_line, slice_right (frameBody_length s).le, frameBody_length]
  exact slice_all (beBytes_length ..)

theorem line_entry (s : State) (j : Axis) :
    slice s.sendFrame.port.line (1 + 5 * j.val) 5 = entryBytes (s.frameEntry j) (s.inverted j) := by
  have within := j.isLt
  rw [sendFrame_line, slice_left (by rw [frameBody_length]; omega)]
  calc slice s.frameBody (1 + 5 * j.val) 5
      = slice s.entriesBytes (5 * j.val) 5 := by
        rw [State.frameBody, slice_right (by rw [List.length_singleton]; omega), List.length_singleton,
          Nat.add_sub_cancel_left]
    _ = slice (entryBytes (s.frameEntry j) (s.inverted j)) 0 5 :=
        slice_flatMap (f := fun j => entryBytes (s.frameEntry j) (s.inverted j)) 
          (fun j => entryBytes_length _ _) (axes_at j) (a := 0) (n := 5) le_rfl
    _ = entryBytes (s.frameEntry j) (s.inverted j) := slice_all (entryBytes_length ..)

theorem inverted_iff (s : State) (j : Axis) : s.inverted j = true ↔ (s.limits j).map (fun r => r.invert) = some true := by
  unfold State.inverted
  cases s.limits j with
  | none => exact ⟨nofun, nofun⟩
  | some r => exact (Option.some.injEq ..).symm.to_iff

end Line

/-! ### The update as a whole -/

section Whole

variable {s t : State}

/-- The settings that a configuration image holds stay where an update's parts advance. -/
theorem config_of_advances {lost : Station → Prop} (h : s.Advances lost t) : t.config = s.config := by
  have stations : t.stations.map (fun r => (r.rank, r.rights)) = s.stations.map fun r => (r.rank, r.rights) :=
    Tab.ext_get fun o => by
      rw [Tab.get_map, Tab.get_map]
      exact Prod.ext (h.rights o).1 (h.rights o).2
  have limits : t.channels.map (fun c => c.limits) = s.channels.map fun c => c.limits :=
    Tab.ext_get fun j => by
      rw [Tab.get_map, Tab.get_map]
      exact h.limits j
  have setTable : t.zones.setTable.map (fun z => z.entry) = s.zones.setTable.map fun z => z.entry :=
    Tab.ext_get fun i => by
      rw [Tab.get_map, Tab.get_map]
      exact h.entries ⟨.set, i⟩
  have crewTable : t.zones.crewTable.map (fun z => z.entry) = s.zones.crewTable.map fun z => z.entry :=
    Tab.ext_get fun i => by
      rw [Tab.get_map, Tab.get_map]
      exact h.entries ⟨.crew, i⟩
  unfold State.config
  rw [stations, limits, setTable, crewTable, h.maps, h.debounce, h.sync, h.cueOffset, h.goLead]

theorem countReport_config (s : State) : s.countReport.config = s.config := by rw [(State.countReport_frame s).1]; rfl

theorem State.Steady.tells {lost : Station → Prop} (h : s.Steady lost t) : s.Tells t := ⟨h.memory, h.level, h.told⟩

theorem tells_of (stop : t.stop = s.stop) (zones : t.zones = s.zones) : s.Tells t where
  memory c was := by rw [stop]; exact was
  level := by rw [stop]
  told z clear set := by
    rw [State.zone_congr zones, clear] at set
    exact nomatch set

theorem finishSteps_tells (s : State) (steps : Tab 10 (Option StepOut)) : s.Tells (s.finishSteps steps) := tells_of rfl rfl

theorem sendFrame_tells (s : State) : s.Tells s.sendFrame := tells_of rfl rfl

theorem countReport_tells (s : State) : s.Tells s.countReport :=
  tells_of (by rw [(State.countReport_frame s).1]) (by rw [(State.countReport_frame s).1])

theorem generate_tells (s : State) : s.Tells s.generate := by
  rw [generate_eq]
  exact (stepped_eq_steady (lost := fun _ => True) s).tells.trans (finishSteps_tells _ _)

theorem readyToSend_stands (s : State) : s.Steady (fun _ => True) s.readyToSend :=
  readyToSend_steady fun _ kept => absurd trivial kept

/-- Over an update every occupied flag that is set is raised for (R95). -/
theorem updateOnce_told (s : State) : s.Tells s.updateOnce := by
  rw [updateOnce_eq]
  exact (beginUpdate_steady (lost := fun _ => True) s).tells.trans ((generate_tells _).trans
    ((readyToSend_stands _).tells.trans ((sendFrame_tells _).trans
      ((afterSend_steady (lost := fun _ => True) _).tells.trans (countReport_tells _)))))

/-- The state whose frame an update sends. -/
def State.framed (s : State) : State := s.beginUpdate.generate.readyToSend

theorem finishSteps_settled {steps : Tab 10 (Option StepOut)} (settled : s.Settled) : (s.finishSteps steps).Settled := settled

theorem framed_settled (settled : s.Settled) : s.framed.Settled := by
  rw [State.framed, generate_eq]
  exact (readyToSend_stands _).settled (finishSteps_settled ((stepped_eq_steady (lost := fun _ => True) _).settled
    ((beginUpdate_steady (lost := fun _ => True) s).settled settled)))

theorem finishSteps_nextFrame (s : State) (steps : Tab 10 (Option StepOut)) :
    (s.finishSteps steps).port.nextFrame = s.port.nextFrame := rfl

theorem framed_nextFrame (s : State) : s.framed.port.nextFrame = s.port.nextFrame := by
  rw [State.framed, (readyToSend_stands _).nextFrame, generate_eq, finishSteps_nextFrame,
    (stepped_eq_steady (lost := fun _ => True) _).nextFrame, (beginUpdate_steady (lost := fun _ => True) s).nextFrame]

theorem framed_advances (s : State) : s.Advances (fun _ => True) s.framed :=
  (generated_advances s).trans (readyToSend_stands _).toAdvances

theorem sendFrame_driveState (s : State) (j : Axis) : s.sendFrame.driveState j = s.driveState j := rfl

theorem sendFrame_settled (settled : s.Settled) : s.sendFrame.Settled := settled

theorem sendFrame_nextFrame (s : State) : s.sendFrame.port.nextFrame = s.port.nextFrame + 1 := rfl

theorem frameEntry_active {j : Axis} {m : Moving} (active : s.driveState j = .active)
    (moving : (s.channels.get j).moving = some m) : s.frameEntry j = .run (toCount m.p) := by
  unfold State.frameEntry
  rw [active]
  dsimp only
  rw [moving]

theorem countReport_handsOn (s : State) : s.HandsOn s.countReport := by
  rw [(State.countReport_frame s).1]
  exact {}

/-- What stands at the end of an update of the frame it sent. -/
theorem updateOnce_sent (s : State) : s.framed.sendFrame.Sent s.updateOnce := by
  rw [updateOnce_eq]
  exact (afterSend_sent _).trans (countReport_handsOn _).toSent

theorem updateOnce_fit (settled : s.Settled) : s.updateOnce.Fit := by
  have sent := sendFrame_settled (framed_settled settled)
  rw [updateOnce_eq]
  exact (countReport_handsOn _).fit ((afterSend_sent _).settled sent) (afterSend_fit sent)

theorem framed_moves {j : Axis} {m : Moving} (moving : (s.updateOnce.channels.get j).moving = some m) :
    ∃ m', (s.framed.channels.get j).moving = some m' ∧ m.p = m'.p := by
  rw [updateOnce_eq, countReport_channels] at moving
  obtain ⟨m', moving', p, -⟩ := (afterSend_steady (lost := fun _ => True) _).moves j m moving
  rw [sendFrame_channels] at moving'
  exact ⟨m', moving', p⟩

/-- An update changes no setting, no byte of the flash and no timebase. -/
theorem updateOnce_keeps (s : State) : s.updateOnce.config = s.config ∧ s.updateOnce.flash = s.flash ∧
    s.updateOnce.flashPort = s.flashPort ∧ s.updateOnce.time.now = s.time.now ∧ s.updateOnce.sysreset = s.sysreset ∧
    s.updateOnce.configDefaulted = s.configDefaulted ∧ s.updateOnce.freeCount = s.freeCount := by
  obtain ⟨u, handedOff⟩ : ∃ u, s.beginUpdate.generate.readyToSend.sendFrame.afterSend = u := ⟨_, rfl⟩
  have handed : s.Advances (fun _ => True) u := by
    rw [← handedOff]
    exact handedOff_advances fun _ kept => absurd trivial kept
  rw [updateOnce_eq, handedOff]
  refine ⟨(countReport_config u).trans (config_of_advances handed), ?_⟩
  rw [(State.countReport_frame u).1]
  exact ⟨handed.flash, handed.flashPort, handed.now, handed.sysreset, handed.configDefaulted, handed.freeCount⟩

/-- Settles O17: the frame is built once the drives are judged, and what follows it in an update changes neither the frame nor
a setpoint, and takes a drive only to PARKED or from WAKING to PARKING. -/
theorem updateSendsOneFrame : Obligations.UpdateSendsOneFrame := by
  intro s awake
  obtain ⟨⟨sent, next, line⟩, drive, -, -⟩ := updateOnce_sent s
  simp only [sendFrame_driveState] at drive
  have advances := framed_advances s
  have entry (j : Axis) : (Tab.ofFn s.framed.frameEntry).get j = s.framed.frameEntry j := Tab.get_ofFn ..
  have same {j : Axis} {d : DriveState} (state : s.updateOnce.driveState j = d) (notParked : d ≠ .parked)
      (notParking : d ≠ .parking) : s.framed.driveState j = d := by
    obtain same | parked | ⟨-, parking⟩ := drive j
    · exact same.symm.trans state
    · exact absurd (state.symm.trans parked) notParked
    · exact absurd (state.symm.trans parking) notParking
  refine ⟨_, ⟨s.framed.port.nextFrame, Tab.ofFn s.framed.frameEntry, Tab.const 10 false⟩, awake_next _ awake,
    sent.trans (sendFrame_sent _), ?frameNumber, ?next, ?length, fun j => Tab.get_const .., fun j m active moving => ?run,
    fun j state => ?rest, fun j waking => ?wake, fun j parking => ?park, fun j parked => ?parked, ?number, fun j => ?bytes,
    ?crc, (updateOnce_told s).told, fun low z active hard => ?fit, updateOnce_keeps s⟩
  case frameNumber =>
    dsimp only
    exact framed_nextFrame s
  case next => rw [next, sendFrame_nextFrame, framed_nextFrame]
  case length => rw [line, line_length]
  case number => rw [line, line_number]
  case crc => rw [line]; exact line_crc _
  case run =>
    obtain ⟨m', moving', p⟩ := framed_moves moving
    rw [p]
    exact (entry j).trans (frameEntry_active (same active nofun nofun) moving')
  case rest =>
    refine (entry j).trans ?_
    unfold State.frameEntry
    obtain off | fault := state
    · rw [same off nofun nofun]
    · rw [same fault nofun nofun]
  case wake =>
    refine (entry j).trans ?_
    rw [State.frameEntry, same waking nofun nofun]
  case park =>
    dsimp only
    rw [entry, State.frameEntry]
    obtain same | parked | ⟨waking, -⟩ := drive j
    · exact .inl (by rw [show s.framed.driveState j = .parking from same.symm.trans parking])
    · exact nomatch parking.symm.trans parked
    · exact .inr ⟨advances.waking j waking, by rw [waking]⟩
  case parked =>
    refine (entry j).trans ?_
    rw [State.frameEntry, advances.parked j parked]
  case bytes =>
    rw [line, line_entry]
    dsimp only
    rw [entry, ← advances.limits j]
    unfold entryBytes
    cases s.framed.frameEntry j with
    | rest => rfl
    | wake => rfl
    | park => rfl
    | run c =>
      dsimp only
      simp only [inverted_iff]
      rfl
  case fit =>
    rw [State.inside_iff, ← updateOnce_fit (.inl low) z active hard]

end Whole

end Sys2Proof.Machine
end
